-- ==== Sys2Proof/Word.lean ====
section
/-! DEFINITION. The word types of the Crepijan 9641 and the plainest arithmetic on them (spec/00_scope.md R5,
spec/02_instruction_word.md R28): little-endian bit numbering, bit 0 least significant. -/

namespace Sys2Proof

/-- One byte of memory. -/
abbrev Byte := BitVec 8
/-- A 32-bit register (R38). -/
abbrev Word := BitVec 32
/-- A 64-bit register pair (R39). -/
abbrev DWord := BitVec 64
/-- An instruction word (R28). -/
abbrev IWord := BitVec 96

/-- The value of bits [hi:lo] of a natural number. -/
def bits (n hi lo : Nat) : Nat := (n >>> lo) % 2 ^ (hi + 1 - lo)

/-- Whether bit i of a natural number is one. -/
def bit (n i : Nat) : Bool := n.testBit i

/-- A Bool as 0 or 1. -/
def b2n (b : Bool) : Nat := if b then 1 else 0

/-- The pair hi:lo as one 64-bit value; the even register holds bits 31:0 (R39). -/
def pairOf (lo hi : Word) : DWord := BitVec.ofNat 64 (lo.toNat + hi.toNat * 2 ^ 32)
/-- Bits 31:0 of a pair. -/
def loOf (v : DWord) : Word := BitVec.ofNat 32 v.toNat
/-- Bits 63:32 of a pair. -/
def hiOf (v : DWord) : Word := BitVec.ofNat 32 (v.toNat / 2 ^ 32)

@[simp] theorem loOf_pairOf (lo hi : Word) : loOf (pairOf lo hi) = lo := by
  apply BitVec.eq_of_toNat_eq; simp [loOf, pairOf]; omega

@[simp] theorem hiOf_pairOf (lo hi : Word) : hiOf (pairOf lo hi) = hi := by
  apply BitVec.eq_of_toNat_eq; simp [hiOf, pairOf]; omega

/-- The number rounded up to a multiple of m. -/
def roundUp (n m : Nat) : Nat := (n + m - 1) / m * m

end Sys2Proof
end

