-- ==== Sys2Proof/Syntax.lean ====
section
/-! DEFINITION. The instructions and steps of the device as syntax: one constructor of Instr for every row of
spec/opcode_table.json. Rows 0 to 154 are instruction words (spec/02_instruction_word.md R28 to R60); the others are
steps that no word encodes: mailbox commands (spec/16_identity_accounting.md R400, R401) and the events of engines,
timers, scheduler and environment (spec/95_what_each_step_holds.md). -/

namespace Sys2Proof

/-- Type codes (R59), in code order. -/
inductive Ty where
  | i8 | i16 | i32 | i64 | n8 | n16 | n32 | n64 | b32 | b64 | f32 | f16 | bf16 | e4m3 | e5m2
deriving DecidableEq, Repr

/-- Rounding codes (R59). -/
inductive Rnd where
  | rne | rz | rdn | rup
deriving DecidableEq, Repr

/-- Scope codes (R59, R198). -/
inductive Scope where
  | grp | wg | cl | die | dev | dom | sys
deriving DecidableEq, Repr

/-- Order codes (R59, R201). -/
inductive Order where
  | rlx | acq | rel | ar | sc
deriving DecidableEq, Repr

/-- Tiers of memory (R177), in the order of the TIER codes of R227 with the private tier added. -/
inductive Tier where
  | glob | smem | cmem | dmem | priv
deriving DecidableEq, Repr

/-- Access widths, coded in FN (R54). -/
inductive Width where
  | n8 | i8 | n16 | i16 | b32 | b64
deriving DecidableEq, Repr

/-- The read-modify-write operations of ATOM, ATOMF, RED, NMA, NMAR and GRED (R54, R56, R239). -/
inductive RmwOp where
  | add | min | max | and | or | xor | exch | inc | dec | fadd | fmin | fmax | cas
deriving DecidableEq, Repr

/-- Integer relations of ICMP (R51). -/
inductive Rel where
  | eq | ne | lt | le | gt | ge
deriving DecidableEq, Repr

/-- Floating-point relations of FCMP (R52). -/
inductive FRel where
  | eq | ne | lt | le | gt | ge | ord | unord
deriving DecidableEq, Repr

/-- Predicate operations of PLOG (R51). -/
inductive POp where
  | and | or | xor | andn | not
deriving DecidableEq, Repr

/-- Votes (R319). -/
inductive VoteKind where
  | all | any | same | cnt
deriving DecidableEq, Repr

/-- Lane movements of SHFL (R320). -/
inductive ShflKind where
  | lane | rotu | rotd | xor
deriving DecidableEq, Repr

/-- Shapes of MMA (R127). -/
inductive Shape where
  | ind | w4 | sq | d4
deriving DecidableEq, Repr

/-- The special registers (R42), in code order from 0xC0. -/
inductive SReg where
  | lane | group | wg | wgx | wgy | wgz | ngroups | core | pcore | cluster | die | cyclelo | cyclehi | timelo | timehi
  | hop | origin | ctx | temp | gang | activelo | activehi
deriving DecidableEq, Repr

/-- A source operand (R38): an x, s, special or predicate register, 0xFF (reads as zero), or the literal of R43. -/
inductive Src where
  | x (n : Nat) | s (n : Nat) | sr (r : SReg) | p (n : Nat) | zero | imm (v : Word)
deriving DecidableEq, Repr

/-- A destination operand (R38): an x, s or predicate register, or 0xFF (the result is discarded). -/
inductive Dst where
  | x (n : Nat) | s (n : Nat) | p (n : Nat) | none
deriving DecidableEq, Repr

/-- A guard: predicate number and the negate bit N (R28, R50). -/
structure Guard where
  p : Nat
  neg : Bool
deriving DecidableEq, Repr

/-- The control fields every word carries: guard, E (end of run), D (drain) and T (token) (R28). -/
structure Ctl where
  guard : Option Guard
  e : Bool
  d : Bool
  t : Nat
deriving DecidableEq, Repr

/-- Operands of classes 0 and 1 (R60, R92, R102): type, .sat, rounding, .ftz, destination and three sources. -/
structure Alu where
  ty : Ty
  sat : Bool
  rnd : Rnd
  ftz : Bool
  dst : Dst
  a : Src
  b : Src
  c : Src
deriving DecidableEq, Repr

/-- Operands of the transaction-barrier instructions (R256): CM (cluster memory), base, second source, offset. -/
structure BarOps where
  cm : Bool
  base : Src
  b : Src
  off : Word
deriving DecidableEq, Repr

/-- Operands of class 3 (R226, R227): width or type, tier, scope, order, .go, .remote, destination, base, data, offset. -/
structure MemOps where
  width : Width
  ty : Ty
  tier : Tier
  scope : Scope
  order : Order
  go : Bool
  remote : Bool
  dst : Dst
  base : Src
  data : Src
  off : Word
deriving DecidableEq, Repr

/-- Operands of AWR, ALD and WPRE (R146, R272): sub-array, slot code, residence (true is dense), tile width code,
plane-slot base, address, origin, offset. -/
structure TileOps where
  q : Nat
  slot : Nat
  dense : Bool
  tw : Nat
  slotBase : Nat
  dst : Dst
  addr : Src
  origin : Src
  bar : Nat
  off : Word
deriving DecidableEq, Repr

/-- Operands of the accumulator and repair instructions (R146): sub-array, accumulator, .clr, destination, sources, IMM. -/
structure AccOps where
  q : Nat
  acc : Nat
  clr : Bool
  dst : Dst
  a : Src
  b : Src
  slotBase : Nat
  off : Word
deriving DecidableEq, Repr

/-- Operands of MMA (R146): shape, repeat code, dense mode, stream width code, QMASK, KREG, ACC, base, sources. -/
structure MmaOps where
  shape : Shape
  rep : Nat
  dense : Bool
  sw : Nat
  qmask : Nat
  kreg : Nat
  acc : Nat
  slotBase : Nat
  elems : Src
  hdrs : Src
deriving DecidableEq, Repr

/-- Operands of BCOPY and BCOPYM (R263): scope, the two tier codes (LTIER in st for BCOPYM), DIR, EDGE, BAR, block, status. -/
structure CopyOps where
  scope : Scope
  st : Nat
  dt : Nat
  dir : Bool
  edge : Bool
  bar : Nat
  dst : Dst
  block : Src
deriving DecidableEq, Repr

/-- Operands of NMA, NMAR, BDOT and GRED (R276, R277, R279). -/
structure NmuOps where
  op : RmwOp
  ty : Ty
  dst : Dst
  base : Src
  b : Src
  c : Src
  off : Word
deriving DecidableEq, Repr

/-- Operands of MIGTO and MIGQ (R360): TIER bit (true is .cmem), destination, base, offset. -/
structure MigOps where
  cm : Bool
  dst : Dst
  base : Src
  off : Word
deriving DecidableEq, Repr

/-- Operands of class 6 (R425): destination, two sources and the IMM field. -/
structure SysOps where
  dst : Dst
  a : Src
  b : Src
  imm : Word
deriving DecidableEq, Repr

/-- A mailbox command as presented (R401): CODE, BUF, BUFLEN and the 256 operand bytes, byte 0 in bits 7:0. -/
structure Mail where
  code : Nat
  buf : Nat
  buflen : Nat
  ops : BitVec 2048
deriving DecidableEq, Repr

/-- Every step of the device. -/
inductive Instr where
  -- class 0 (R51)
  | iadd (c : Ctl) (o : Alu) | isub (c : Ctl) (o : Alu) | imul (c : Ctl) (o : Alu) | imulHi (c : Ctl) (o : Alu)
  | imad (c : Ctl) (o : Alu) | imadWide (c : Ctl) (o : Alu) | imin (c : Ctl) (o : Alu) | imax (c : Ctl) (o : Alu)
  | iabs (c : Ctl) (o : Alu) | ineg (c : Ctl) (o : Alu) | and (c : Ctl) (o : Alu) | or (c : Ctl) (o : Alu)
  | xor (c : Ctl) (o : Alu) | andn (c : Ctl) (o : Alu) | orn (c : Ctl) (o : Alu) | not (c : Ctl) (o : Alu)
  | shl (c : Ctl) (o : Alu) | shr (c : Ctl) (o : Alu) | sar (c : Ctl) (o : Alu) | rol (c : Ctl) (o : Alu)
  | ror (c : Ctl) (o : Alu) | bfx (c : Ctl) (o : Alu) | bfi (c : Ctl) (o : Alu) | popc (c : Ctl) (o : Alu)
  | clz (c : Ctl) (o : Alu) | ctz (c : Ctl) (o : Alu) | brev (c : Ctl) (o : Alu) | prmt (c : Ctl) (o : Alu)
  | icmp (c : Ctl) (r : Rel) (o : Alu) | isel (c : Ctl) (o : Alu) | mov (c : Ctl) (o : Alu)
  | movi (c : Ctl) (v : Word) (o : Alu) | lea (c : Ctl) (sh : Nat) (o : Alu) | plog (c : Ctl) (op : POp) (o : Alu)
  | pmovPack (c : Ctl) (n : Nat) (o : Alu) | pmovUnpack (c : Ctl) (n : Nat) (o : Alu)
  -- class 1 (R52)
  | fadd (c : Ctl) (o : Alu) | fsub (c : Ctl) (o : Alu) | fmul (c : Ctl) (o : Alu) | fma (c : Ctl) (o : Alu)
  | fmin (c : Ctl) (o : Alu) | fmax (c : Ctl) (o : Alu) | fcmp (c : Ctl) (r : FRel) (o : Alu) | frnd (c : Ctl) (o : Alu)
  | frcp (c : Ctl) (o : Alu) | frsq (c : Ctl) (o : Alu) | fsqrt (c : Ctl) (o : Alu) | fexp2 (c : Ctl) (o : Alu)
  | flog2 (c : Ctl) (o : Alu) | fsin (c : Ctl) (o : Alu) | fcos (c : Ctl) (o : Alu) | ftanh (c : Ctl) (o : Alu)
  | fsigm (c : Ctl) (o : Alu) | fclass (c : Ctl) (o : Alu) | fscale (c : Ctl) (o : Alu)
  | cvt (c : Ctl) (src : Ty) (o : Alu) | cvti (c : Ctl) (src : Ty) (o : Alu) | cvtf (c : Ctl) (src : Ty) (o : Alu)
  | hadd2 (c : Ctl) (o : Alu) | hmul2 (c : Ctl) (o : Alu) | hfma2 (c : Ctl) (o : Alu) | dot4 (c : Ctl) (o : Alu)
  | mxpack (c : Ctl) (tag : Nat) (o : Alu) | mxunpk (c : Ctl) (o : Alu)
  -- class 2 (R53)
  | nop (c : Ctl) | dly (c : Ctl) (n : Nat) | bra (c : Ctl) (disp : Word) | brx (c : Ctl) (a : Src)
  | call (c : Ctl) (disp : Word) | callReg (c : Ctl) (a : Src) | ret (c : Ctl) | exit (c : Ctl)
  | twait (c : Ctl) (n k : Nat) | yield (c : Ctl) | sleep (c : Ctl) (ticks : Nat) | join (c : Ctl) (m : Nat)
  | leave (c : Ctl) (m : Nat) | mwait (c : Ctl) (m : Nat) | maskRd (c : Ctl) (dst : Dst) (m : Nat)
  | maskTst (c : Ctl) (dst : Dst) (m : Nat) | ballot (c : Ctl) (dst : Dst) (a : Src)
  | vote (c : Ctl) (k : VoteKind) (dst : Dst) (a : Src)
  | shfl (c : Ctl) (k : ShflKind) (seg : Nat) (dst : Dst) (a b : Src) | bar (c : Ctl) (n : Nat) | cbar (c : Ctl) (n : Nat)
  | binit (c : Ctl) (o : BarOps) | barrive (c : Ctl) (o : BarOps) | barriveTx (c : Ctl) (o : BarOps)
  | bwait (c : Ctl) (o : BarOps) | binval (c : Ctl) (o : BarOps) | qsend (c : Ctl) (o : BarOps)
  | qrecv (c : Ctl) (dst : Dst) (base : Src) (off : Word) | launch (c : Ctl) (dst : Dst) (rec queue : Src)
  -- class 3 (R54)
  | ldp (c : Ctl) (o : MemOps) | lds (c : Ctl) (o : MemOps) | ldc (c : Ctl) (o : MemOps) | ldd (c : Ctl) (o : MemOps)
  | ldg (c : Ctl) (o : MemOps) | stp (c : Ctl) (o : MemOps) | sts (c : Ctl) (o : MemOps) | stc (c : Ctl) (o : MemOps)
  | std (c : Ctl) (o : MemOps) | stg (c : Ctl) (o : MemOps) | cstore (c : Ctl) (o : MemOps) | xload (c : Ctl) (o : MemOps)
  | atom (c : Ctl) (op : RmwOp) (o : MemOps) | atomf (c : Ctl) (op : RmwOp) (o : MemOps)
  | red (c : Ctl) (op : RmwOp) (o : MemOps) | cas (c : Ctl) (o : MemOps) | fence (c : Ctl) (o : MemOps)
  | pref (c : Ctl) (l1 : Bool) (o : MemOps) | cctlWb (c : Ctl) (o : MemOps) | cctlInv (c : Ctl) (o : MemOps)
  | cctlWbinv (c : Ctl) (o : MemOps) | seal (c : Ctl) (o : MemOps) | unseal (c : Ctl) (o : MemOps)
  -- class 4 (R55)
  | amodeSto (c : Ctl) (qmask : Nat) | amodeMul (c : Ctl) (qmask : Nat) | acal (c : Ctl) (qmask : Nat)
  | awr (c : Ctl) (o : TileOps) | ald (c : Ctl) (o : TileOps) | ard (c : Ctl) (o : AccOps)
  | mconv (c : Ctl) (kreg g3 g2 g1 g0 : Nat) | mma (c : Ctl) (o : MmaOps) | mzero (c : Ctl) (qmask acc : Nat)
  | mdrain (c : Ctl) (o : AccOps) | macc (c : Ctl) (o : AccOps) | mcks (c : Ctl) (o : AccOps) | mloc (c : Ctl) (o : AccOps)
  | mfix (c : Ctl) (o : AccOps) | mretry (c : Ctl) (rep : Nat) (o : AccOps) | ainfo (c : Ctl) (sel : Nat) (o : AccOps)
  -- class 5 (R56)
  | bcopy (c : Ctl) (o : CopyOps) | bcopym (c : Ctl) (o : CopyOps) | broom (c : Ctl) | nma (c : Ctl) (o : NmuOps)
  | nmar (c : Ctl) (o : NmuOps) | bdot (c : Ctl) (o : NmuOps) | gred (c : Ctl) (o : NmuOps)
  | migset (c : Ctl) (live : BitVec 48) | migto (c : Ctl) (o : MigOps) | migret (c : Ctl) | migq (c : Ctl) (o : MigOps)
  | wpre (c : Ctl) (o : TileOps)
  -- class 6 (R57)
  | trap (c : Ctl) (code : Nat) | tret (c : Ctl) (next : Bool) | sysr (c : Ctl) (dst : Dst) (idx : Nat)
  | sysw (c : Ctl) (a : Src) (idx : Nat) | cntr (c : Ctl) (dst : Dst) (n : Nat) | brk (c : Ctl) (code : Nat)
  | halt (c : Ctl) (code : Nat) | tlbiVa (c : Ctl) (a b : Src) | tlbiAsid (c : Ctl) (b : Src)
  | dbgr (c : Ctl) (o : SysOps) | dbgw (c : Ctl) (o : SysOps)
  -- register writes that are steps of their own (R174, R434)
  | ckinjWrite (core : Nat) (v : Word) | dbgctlWrite (core group : Nat) (v : Word)
  -- mailbox commands (R400, R401)
  | getCert (m : Mail) | getAttest (m : Mail) | setPart (m : Mail) | setCtx (m : Mail) | setQueue (m : Mail)
  | setRelth (m : Mail) | setAccept (m : Mail) | setAcctl (m : Mail) | bindJob (m : Mail) | unbindJob (m : Mail)
  | report (m : Mail) | clearBerr (m : Mail) | clearFlag (m : Mail) | clearLink (m : Mail) | debugAuth (m : Mail)
  | commitSvn (m : Mail) | loadImage (m : Mail) | unknownCode (m : Mail)
  -- reset, power and temperature (R402, R23, R26, R367)
  | packageReset | powerArbiterInterval (targets : List Nat) | hardThrottle (core : Nat) | thermalTrip (core : Nat)
  -- ordering and leases (R213, R192 to R194, R191, R204, R219, R46)
  | cadenceTick | leaseWritebackDeadline (line : Nat) | leaseRecall (line : Nat) | leaseExpiry (line : Nat)
  | collapseComplete (chunk : Nat) | calibrationTrigger (core q : Nat) | calibrationComplete (core q : Nat)
  | modeChangeComplete (core : Nat) | tileWriteComplete (core q : Nat) | mmaVerdict (core q : Nat) | retryVerdict (core q : Nat)
  | promotionProbeAnswer (core group op : Nat) | broomProbeReturn (core group op : Nat)
  | tokenCountdown (core group op : Nat)
  -- misses and saves (R394, R395, R251)
  | shortMissResolved (miss : Nat) | faultQueueResponse (part entry : Nat) | workgroupSave (core : Nat)
  -- copies, near memory, queues (R264, R268, R269, R275, R276, R325)
  | copySegmentLand (core copy slice seg : Nat) | fixupReplay (core copy : Nat) | copyEnd (core copy : Nat)
  | nmuRefresh (bank : Nat) | nmuCommandComplete (core group op : Nat) | qsendArrival (core group op : Nat)
  -- command processor (R331, R336, R334, R339, R341 to R343)
  | queueTake (q : Nat) | dispatch (part : Nat) | completionIncrement (launch : Nat) | waitReevaluation (launch : Nat)
  | reservedMessage (xid : Word) (pkg : Nat) | goMessage (xid : Word) | goAck (xid : Word) (pkg : Nat) | goTimeout (xid : Word)
  | abortMessage (xid : Word) | sliceEnd (part : Nat) | preemption (core : Nat) | restore (ctx unit : Nat)
  | runGrant (core q : Nat) | sleepEnd (core q : Nat)
  -- relocation and travel (R370, R371, R350, R352, R346)
  | relocationHonour (core : Nat) | relocationRemap (core : Nat) | slotRequestAnswer (core group lane : Nat)
  | slotRequestRetry (core group lane : Nat) | pannierArrival (i : Nat) | travelDrainEnd (core group : Nat)
  -- halts, tandem, containment, rollback (R439, R440, R444, R467, R468, R472, R452, R457, R463, R461)
  | haltRaise (part cause : Nat) | skidEnd (part : Nat) | haltRecorded (part : Nat) | tandemCommit (core : Nat)
  | tandemTimeout (core : Nat) | rollback (launch : Nat) | ueDetected (key cls : Nat)
  | containmentLost (die : Nat) | patrolScrub (stack : Nat) (columns : List Nat)
  -- links (R474 to R476), reports (R411, R415), invalidation (R389, R390)
  | linkReplay (port : Nat) | linkRetrain (port : Nat) | linkRateUp (port : Nat) | controlPortRetry
  | periodicReport (ctx : Nat) | debugRightsExpiry (ctx : Nat) | invalidateBroadcast (asid : Nat) (range : Option (Nat × Nat))
  | sync (n : Nat) | syncAck (n : Nat) | flitAcknowledged (port : Nat) | retrainingComplete (port lanes : Nat)
  | leaseTermEnd (line : Nat) | withdrawEntry (q : Nat)
  | sensorSample (core : Nat) (reading : Word) | accumulatorUe (core q a m n : Nat)
deriving DecidableEq, Repr

end Sys2Proof
end

