-- ==== Sys2Proof/WellFormed.lean ====
section
/-! DEFINITION. Which instruction terms are well formed: the static part of decode legality (R36), that is everything that
depends on the word alone. The tables followed are R92 and R102 (classes 0 and 1), R303 and R256 (class 2), R226 to R246
(class 3), R146 (class 4), R263, R272, R276 to R279 and R360 (class 5) and R425 (class 6). What depends on the kernel's
.regs count or on accepted features is judged at issue (Machine/Operands.lean). -/

namespace Sys2Proof

/-- Whether a type is 64 bits wide (R66). -/
def Ty.is64 : Ty → Bool
  | .i64 | .n64 | .b64 => true
  | _ => false

/-- The eight integer types ("All int", R92). -/
def allInt : List Ty := [.i8, .i16, .i32, .i64, .n8, .n16, .n32, .n64]
def int4 : List Ty := [.i32, .n32, .i64, .n64]
def sInt : List Ty := [.i8, .i16, .i32, .i64]
def raw : List Ty := [.b32, .b64]
def fAny : List Ty := [.f32, .f16, .bf16, .e4m3, .e5m2]

/-- A source position "src" (R89): x, s, special or 0xFF. -/
def Src.isSrc : Src → Bool
  | .x n => decide (n < 128)
  | .s n => decide (n < 64)
  | .sr _ => true
  | .zero => true
  | .p _ => false
  | .imm _ => false

/-- A 64-bit source: an even register pair or 0xFF (R39, R88, R99). -/
def Src.isSrc64 : Src → Bool
  | .x n => decide (n < 128) && n % 2 == 0
  | .s n => decide (n < 64) && n % 2 == 0
  | .zero => true
  | _ => false

/-- A source of the given type. -/
def Src.fits (ty : Ty) (a : Src) : Bool := if ty.is64 then a.isSrc64 else a.isSrc

/-- Source B of the given type where a literal is accepted (R43). -/
def Src.fitsB (ty : Ty) : Src → Bool
  | .imm _ => true
  | a => a.fits ty

/-- An x or s register (R229, R256, R303). -/
def Src.isReg : Src → Bool
  | .x n => decide (n < 128)
  | .s n => decide (n < 64)
  | _ => false

/-- An x or s register pair. -/
def Src.isPair : Src → Bool
  | .x n => decide (n < 128) && n % 2 == 0
  | .s n => decide (n < 64) && n % 2 == 0
  | _ => false

/-- An x register. -/
def Src.isX : Src → Bool
  | .x n => decide (n < 128)
  | _ => false

/-- A predicate operand (R41). -/
def Src.isP : Src → Bool
  | .p n => decide (n < 24)
  | _ => false

/-- A destination "x, s". -/
def Dst.isReg : Dst → Bool
  | .x n => decide (n < 128)
  | .s n => decide (n < 64)
  | _ => false

/-- A destination pair. -/
def Dst.isPair : Dst → Bool
  | .x n => decide (n < 128) && n % 2 == 0
  | .s n => decide (n < 64) && n % 2 == 0
  | _ => false

def Dst.isP : Dst → Bool
  | .p n => decide (n < 24)
  | _ => false

/-- A destination "p, x, s". -/
def Dst.isPReg (d : Dst) : Bool := d.isReg || d.isP

/-- A destination "x, s, —". -/
def Dst.isRegOpt (d : Dst) : Bool := d.isReg || d == .none

/-- A destination "pair, —". -/
def Dst.isPairOpt (d : Dst) : Bool := d.isPair || d == .none

/-- A destination "x, s" of the given type. -/
def Dst.fits (ty : Ty) (d : Dst) : Bool := if ty.is64 then d.isPair else d.isReg

/-- The control fields: guard 0 to 23 (R36 case 8) and T, which only a token-class instruction may set (R36 case 9, R44). -/
def Ctl.wf (c : Ctl) (tok : Bool) : Bool :=
  (match c.guard with | none => true | some g => decide (g.p < 24)) && decide (c.t < 16) && (tok || c.t == 0)

/-- The fields of R60 that an instruction does not define hold 0. -/
def Alu.plain (o : Alu) (sat rnd ftz : Bool) : Bool :=
  (sat || !o.sat) && (rnd || o.rnd == .rne) && (ftz || !o.ftz)

/-- Operand shape "dst, a, b" of a type, with an optional literal. -/
def Alu.bin (o : Alu) (tys : List Ty) (lit : Bool) : Bool :=
  tys.contains o.ty && o.dst.fits o.ty && o.a.fits o.ty && (if lit then o.b.fitsB o.ty else o.b.fits o.ty) && o.c == .zero
/-- Operand shape "dst, a, b, c". -/
def Alu.tri (o : Alu) (tys : List Ty) : Bool :=
  tys.contains o.ty && o.dst.fits o.ty && o.a.fits o.ty && o.b.fitsB o.ty && o.c.fits o.ty
/-- Operand shape "dst, a". -/
def Alu.una (o : Alu) (tys : List Ty) : Bool :=
  tys.contains o.ty && o.dst.fits o.ty && o.a.fits o.ty && o.b == .zero && o.c == .zero
/-- Operand shape "dst, a, 32-bit control" (R92: counts, control words and selectors are 32-bit). -/
def Alu.ctl (o : Alu) (tys : List Ty) : Bool :=
  tys.contains o.ty && o.dst.fits o.ty && o.a.fits o.ty && o.b.fitsB .n32 && o.c == .zero

/-- SCOPE and ORDER accepted by a class 3 instruction (R216, R228). -/
def MemOps.ord (o : MemOps) (orders : List Order) : Bool :=
  orders.contains o.order && !(o.order == .sc && (o.scope == .dom || o.scope == .sys))
    && (!o.remote || o.order == .acq || o.order == .ar || o.order == .sc)

/-- The base register of a tier (R229): a pair for global addresses, else an x or s register. -/
def MemOps.baseOk (o : MemOps) : Bool := if o.tier == .glob then o.base.isPair else o.base.isReg

/-- A load of one tier (R228, R231). -/
def MemOps.load (o : MemOps) (tier : Tier) (go : Bool) : Bool :=
  o.tier == tier && o.ty == .i8 && o.baseOk && o.data == .zero && (go || !o.go)
    && (if o.width == .b64 then o.dst.isPair else o.dst.isReg)
    && (if tier == .priv then o.order == .rlx && o.scope == .grp && !o.remote else o.ord [.rlx, .acq, .sc])

/-- A store of one tier (R228, R231); .i8 and .i16 encode as .n8 and .n16 (R54). -/
def MemOps.store (o : MemOps) (tier : Tier) (go : Bool) : Bool :=
  o.tier == tier && o.ty == .i8 && o.baseOk && o.dst == .none && (go || !o.go)
    && !(o.width == .i8 || o.width == .i16)
    && (if o.width == .b64 then o.data.isSrc64 else o.data.isSrc)
    && (if tier == .priv then o.order == .rlx && o.scope == .grp && !o.remote else o.ord [.rlx, .rel, .sc])

/-- The types of a read-modify-write operation (R238, R276). -/
def RmwOp.tys : RmwOp → List Ty
  | .add | .min | .max => int4
  | .and | .or | .xor | .exch | .cas => raw
  | .inc | .dec => [.n32]
  | .fadd | .fmin | .fmax => [.f32]

/-- A block of a CAS: even for .b32, a multiple of 4 for .b64, inside the registers (R240). -/
def Src.isCasBlock (w64 : Bool) : Src → Bool
  | .x n => if w64 then decide (n + 4 ≤ 128) && n % 4 == 0 else decide (n + 2 ≤ 128) && n % 2 == 0
  | _ => false

/-- ATOM, ATOMF and RED (R238); .go only at .cmem and .gmem (R228). -/
def MemOps.rmw (o : MemOps) (op : RmwOp) (ops : List RmwOp) (go dst : Bool) : Bool :=
  ops.contains op && op.tys.contains o.ty && o.width == .n8 && !(o.tier == .priv) && o.baseOk
    && (if o.ty.is64 then o.data.isSrc64 else o.data.isSrc)
    && (!o.go || (go && (o.tier == .cmem || o.tier == .glob)))
    && (if dst then (if o.ty.is64 then o.dst.isPairOpt else o.dst.isRegOpt) else o.dst == .none)
    && o.ord [.rlx, .acq, .rel, .ar, .sc]

/-- A class 3 instruction without access of its own: unused fields hold their fixed values. -/
def MemOps.bare (o : MemOps) : Bool :=
  o.width == .n8 && o.ty == .i8 && o.tier == .glob && !o.go && o.dst == .none && o.data == .zero

/-- CCTL (R245). -/
def MemOps.cctl (o : MemOps) : Bool :=
  o.bare && o.base.isPair && o.order == .rlx && !o.remote

/-- SEAL and UNSEAL (R246). -/
def MemOps.seal (o : MemOps) : Bool :=
  o.width == .n8 && o.ty == .i8 && o.tier == .glob && !o.go && !o.remote && o.scope == .grp && o.order == .rlx
    && o.dst.isRegOpt && o.base.isPair && o.data.isSrc

/-- The tile-write fields of MOD (R146) with a plane-slot base. -/
def TileOps.mods (o : TileOps) : Bool :=
  decide (o.q < 4) && decide (o.slot < 3) && decide (o.tw < 3) && decide (o.slotBase < 256)

/-- The Tile fields of MOD (R146). -/
def AccOps.mods (o : AccOps) (clr : Bool) : Bool :=
  decide (o.q < 4) && decide (o.acc < 8) && (clr || !o.clr)

/-- The repair instructions MCKS and MFIX (R146). -/
def AccOps.repair (o : AccOps) (pair : Bool) : Bool :=
  o.mods false && o.a == .zero && o.b == .zero && o.slotBase == 255 && o.off == 0
    && (if pair then o.dst.isPair else o.dst.isReg)

/-- A range of MIGSET (R361): FIRST and COUNT of range j. -/
def liveRange (l : BitVec 48) (j : Nat) : Nat × Nat :=
  (bits l.toNat (12 * j + 6) (12 * j), bits l.toNat (12 * j + 11) (12 * j + 7))
/-- The four ranges of a live set. -/
def liveRanges (l : BitVec 48) : List (Nat × Nat) := [liveRange l 0, liveRange l 1, liveRange l 2, liveRange l 3]
/-- The x registers a live set names, in ascending order of range. -/
def liveRegs (l : BitVec 48) : List Nat :=
  (liveRanges l).flatMap fun r => (List.range r.2).map (r.1 + ·)
/-- The legality of a live set (R361), the .regs bound excepted. -/
def liveOk (l : BitVec 48) : Bool :=
  (liveRanges l).all (fun r => decide (r.2 ≤ 24) && (r.2 != 0 || r.1 == 0))
    && decide ((liveRegs l).length ≤ 24) && (liveRegs l).all (· < 128) && decide (liveRegs l).Nodup

/-- A barrier-family operand set (R256). -/
def BarOps.wf (o : BarOps) (b : Src → Bool) : Bool := o.base.isReg && b o.b

/-- Static legality (R36). -/
def Instr.wf : Instr → Bool
  | .iadd c o | .isub c o => c.wf false && o.plain true false false && o.bin allInt true
  | .imul c o => c.wf false && o.plain true false false && o.bin int4 true
  | .imulHi c o => c.wf false && o.plain false false false && o.bin [.i32, .n32] true
  | .imad c o => c.wf false && o.plain true false false && o.tri int4
  | .imadWide c o => c.wf false && o.plain true false false && [Ty.i32, Ty.n32].contains o.ty && o.dst.isPair
      && o.a.isSrc && o.b.fitsB .n32 && o.c.isSrc64
  | .imin c o | .imax c o => c.wf false && o.plain false false false && o.bin allInt true
  | .iabs c o | .ineg c o => c.wf false && o.plain true false false && o.una sInt
  | .and c o | .or c o | .xor c o | .andn c o | .orn c o => c.wf false && o.plain false false false && o.bin raw true
  | .not c o => c.wf false && o.plain false false false && o.una raw
  | .shl c o | .shr c o | .rol c o | .ror c o => c.wf false && o.plain false false false && o.ctl raw
  | .sar c o => c.wf false && o.plain false false false && o.ctl [.i32, .i64]
  | .bfx c o => c.wf false && o.plain false false false && o.ctl int4
  | .bfi c o => c.wf false && o.plain false false false && raw.contains o.ty && o.dst.fits o.ty && o.a.fits o.ty
      && o.b.fitsB .n32 && o.c.fits o.ty
  | .popc c o | .clz c o | .ctz c o => c.wf false && o.plain false false false && raw.contains o.ty && o.dst.isReg
      && o.a.fits o.ty && o.b == .zero && o.c == .zero
  | .brev c o => c.wf false && o.plain false false false && o.una raw
  | .prmt c o => c.wf false && o.plain false false false && o.tri [.b32]
  | .icmp c _ o => c.wf false && o.plain false false false && allInt.contains o.ty && o.dst.isPReg && o.a.fits o.ty
      && o.b.fitsB o.ty && o.c == .zero
  | .isel c o => c.wf false && o.plain false false false && raw.contains o.ty && o.dst.fits o.ty && o.a.fits o.ty
      && o.b.fitsB o.ty && (o.c.isSrc || o.c.isP)
  | .mov c o => c.wf false && o.plain false false false && raw.contains o.ty && o.dst.fits o.ty && o.a == .zero
      && o.b.fitsB o.ty && o.c == .zero
  | .movi c _ o => c.wf false && o.plain false false false && raw.contains o.ty && o.dst.fits o.ty && o.a == .zero
      && o.b == .zero && o.c == .zero
  | .lea c sh o => c.wf false && o.plain false false false && [Ty.i32, Ty.n32, Ty.b64].contains o.ty && o.dst.isPair
      && o.a.isPair && o.b.fitsB o.ty && o.c == .zero && decide (sh < 8)
  | .plog c op o => c.wf false && o.plain false false false && o.ty == .b32 && o.dst.isP && o.a.isP
      && (if op == .not then o.b == .zero else o.b.isP) && o.c == .zero
  | .pmovPack c n o => c.wf false && o.plain false false false && o.ty == .b32 && o.dst.isReg && o.b == .zero && o.c == .zero
      && decide (0 < n) && (match o.a with | .p a => decide (a + n ≤ 24) | _ => false)
  | .pmovUnpack c n o => c.wf false && o.plain false false false && o.ty == .b32 && o.a.isSrc && o.b == .zero && o.c == .zero
      && decide (0 < n) && (match o.dst with | .p d => decide (d + n ≤ 24) | _ => false)
  | .fadd c o | .fsub c o | .fmul c o => c.wf false && o.plain true true true && o.bin [.f32] true
  | .fma c o => c.wf false && o.plain true true true && o.tri [.f32]
  | .fmin c o | .fmax c o => c.wf false && o.plain false false true && o.bin [.f32] true
  | .fcmp c _ o => c.wf false && o.plain false false true && o.ty == .f32 && o.dst.isPReg && o.a.isSrc && o.b.fitsB .f32
      && o.c == .zero
  | .frnd c o => c.wf false && o.plain false true true && o.una [.f32]
  | .frcp c o | .fsqrt c o => c.wf true && o.plain false true true && o.una [.f32]
  | .frsq c o | .fexp2 c o | .flog2 c o | .fsin c o | .fcos c o | .ftanh c o | .fsigm c o =>
      c.wf true && o.plain false false true && o.una [.f32]
  | .fclass c o => c.wf false && o.plain false false false && o.una [.f32, .f16, .bf16]
  | .fscale c o => c.wf false && o.plain true true true && o.bin [.f32] true
  | .cvt c src o => c.wf false && o.plain true true true && o.una fAny && fAny.contains src && !(src == o.ty)
  | .cvti c src o => c.wf false && o.plain false true true && fAny.contains src && allInt.contains o.ty && o.dst.fits o.ty
      && o.a.isSrc && o.b == .zero && o.c == .zero
  | .cvtf c src o => c.wf false && o.plain true true true && allInt.contains src && [Ty.f32, Ty.f16, Ty.bf16].contains o.ty
      && o.dst.isReg && o.a.fits src && o.b == .zero && o.c == .zero
  | .hadd2 c o | .hmul2 c o => c.wf false && o.plain true true true && o.bin [.f16, .bf16] true
  | .hfma2 c o => c.wf false && o.plain true true true && o.tri [.f16, .bf16]
  | .dot4 c o => c.wf false && o.plain true (o.ty == .e4m3 || o.ty == .e5m2) false && o.tri [.i8, .n8, .e4m3, .e5m2]
  | .mxpack c tag o => c.wf true && o.plain true true false && decide (tag < 6) && o.ty == .f32
      && (match o.dst with | .x n => decide (n < 128) && n % 2 == 0 | _ => false) && o.a.isSrc && o.b == .zero && o.c == .zero
  | .mxunpk c o => c.wf true && o.plain true true false && o.ty == .f32 && (match o.dst with | .x n => decide (n < 128) | _ => false)
      && o.a.isSrc && o.b.isSrc && o.c == .zero
  | .nop c | .ret c | .exit c | .yield c | .migret c => c.wf false
  | .broom c => c.wf true
  | .dly c n => c.wf false && decide (0 < n) && decide (n < 256)
  | .bra c _ | .call c _ => c.wf false
  | .brx c a | .callReg c a => c.wf false && a.isPair
  | .twait c n k => c.wf false && decide (0 < n) && decide (n < 16) && decide (k < 64)
  | .sleep c n => c.wf false && decide (n < 65536)
  | .join c m | .leave c m | .mwait c m => c.wf false && decide (m < 12)
  | .maskRd c d m => c.wf false && d.isPair && decide (m < 12)
  | .maskTst c d m => c.wf false && d.isPReg && decide (m < 12)
  | .ballot c d a => c.wf false && d.isPair && a.isSrc
  | .vote c k d a => c.wf false && (if k == .cnt then d.isReg else d.isPReg) && a.isSrc
  | .shfl c _ seg d a b => c.wf false && decide (seg < 6) && d.isReg && a.isSrc && b.fitsB .n32
  | .bar c n | .cbar c n => c.wf false && decide (n < 16)
  | .binit c o => c.wf false && o.wf Src.isReg
  | .barrive c o | .binval c o => c.wf false && o.wf (· == .zero)
  | .barriveTx c o | .bwait c o => c.wf false && o.wf (fun b => b.isReg || b == .zero)
  | .qsend c o => c.wf true && o.base.isReg && o.b.isPair
  | .qrecv c d b _ => c.wf true && d.isPair && b.isReg
  | .launch c d r q => c.wf true && d.isRegOpt && r.isPair && q.fitsB .n32
  | .ldp c o => c.wf true && o.load .priv false
  | .lds c o => c.wf true && o.load .smem false
  | .ldc c o => c.wf true && o.load .cmem true
  | .ldd c o => c.wf true && o.load .dmem false
  | .ldg c o => c.wf true && o.load .glob true
  | .stp c o => c.wf true && o.store .priv false
  | .sts c o => c.wf true && o.store .smem false
  | .stc c o => c.wf true && o.store .cmem true
  | .std c o => c.wf true && o.store .dmem false
  | .stg c o => c.wf true && o.store .glob true
  | .cstore c o => c.wf true && (o.width == .b32 || o.width == .b64) && o.ty == .i8 && !(o.tier == .priv) && o.baseOk && !o.go
      && o.dst.isRegOpt && (if o.width == .b64 then o.data.isSrc64 else o.data.isSrc) && !o.remote && o.ord [.rlx, .rel]
  | .xload c o => c.wf true && (o.width == .b32 || o.width == .b64) && o.ty == .i8 && !(o.tier == .priv) && o.baseOk && !o.go
      && (if o.width == .b64 then o.dst.isPair else o.dst.isReg) && o.data == .zero && o.ord [.rlx, .acq]
  | .atom c op o => c.wf true && o.rmw op [.add, .min, .max, .and, .or, .xor, .exch, .inc, .dec] true true
  | .atomf c op o => c.wf true && o.rmw op [.fadd, .fmin, .fmax] true true
  | .red c op o => c.wf true && o.rmw op [.add, .min, .max, .and, .or, .xor, .fadd, .fmin, .fmax] false false
  | .cas c o => c.wf true && (o.width == .b32 || o.width == .b64) && o.ty == .i8 && !(o.tier == .priv) && o.baseOk
      && o.data.isCasBlock (o.width == .b64) && (if o.width == .b64 then o.dst.isPairOpt else o.dst.isRegOpt)
      && (!o.go || o.tier == .cmem || o.tier == .glob) && o.ord [.rlx, .acq, .rel, .ar, .sc]
  | .fence c o => c.wf true && o.bare && o.base == .zero && o.off == 0 && o.ord [.acq, .rel, .ar, .sc]
  | .pref c _ o => c.wf false && o.bare && o.base.isPair && o.scope == .grp && o.order == .rlx && !o.remote
  | .cctlWb c o | .cctlInv c o | .cctlWbinv c o => c.wf true && o.cctl
  | .seal c o | .unseal c o => c.wf true && o.seal
  | .amodeSto c q | .amodeMul c q | .acal c q => c.wf true && decide (0 < q) && decide (q < 16)
  | .awr c o => c.wf true && o.mods && o.dst == .none && o.addr.isReg && o.origin == .zero && o.bar == 0
  | .ald c o => c.wf true && o.mods && o.slot == 0 && o.dst == .none && o.addr.isPair && o.origin.isReg && o.bar == 0
  | .ard c o => c.wf true && o.mods false && o.acc == 0 && (match o.dst with | .x n => decide (n + 9 ≤ 128) | _ => false)
      && o.a.isX && o.b == .zero && decide (o.slotBase < 256) && o.off == 0
  | .mconv c k g3 g2 g1 g0 => c.wf false && decide (k < 8)
      && [(g3, 3), (g2, 2), (g1, 1), (g0, 0)].all (fun p => decide (p.1 = 64) || (decide (p.1 < 64) && p.1 % 4 == p.2))
  | .mma c o => c.wf true && decide (o.rep < 5) && decide (o.sw < 3) && decide (o.qmask < 16) && decide (0 < o.qmask)
      && (o.shape == .ind || o.qmask == 15) && decide (o.kreg < 8) && decide (o.acc < 8) && decide (o.slotBase < 256)
      && o.hdrs.isX
      && (match o.elems with
          | .x n => decide (n + 2 * (match o.shape with | .ind | .w4 => 1 | .sq => 2 | .d4 => 4) ≤ 128)
          | _ => false)
  | .mzero c q a => c.wf true && decide (0 < q) && decide (q < 16) && decide (a < 8)
  | .mdrain c o => c.wf true && o.mods true && o.dst == .none && o.a.isReg && (o.b.isReg || o.b == .zero) && o.slotBase == 255
  | .macc c o => c.wf true && o.mods false && (match o.dst with | .x n => decide (n + 4 ≤ 128) && n % 4 == 0 | _ => false)
      && o.a.isReg && o.b == .zero && o.slotBase == 255 && o.off == 0
  | .mcks c o | .mfix c o => c.wf true && o.repair false
  | .mloc c o => c.wf true && o.repair true
  | .mretry c rep o => c.wf true && decide (rep < 5) && o.repair false
  | .ainfo c sel o => c.wf true && decide (sel < 4) && o.mods false && o.acc == 0 && o.dst.isReg && o.a == .zero && o.b == .zero
      && decide (o.slotBase < 256) && o.off == 0
  | .bcopy c o => c.wf true && decide (o.st < 4) && decide (o.dt < 4) && !o.dir && !o.edge && decide (o.bar < 3) && o.dst.isPairOpt
      && (match o.block with | .x n => decide (n + 6 ≤ 128) && n % 2 == 0 | _ => false)
  | .bcopym c o => c.wf true && decide (0 < o.st) && decide (o.st < 4) && o.dt == 0 && !(o.edge && o.dir) && decide (o.bar < 3)
      && o.dst.isPairOpt && (match o.block with | .x n => decide (n + 8 ≤ 128) && n % 4 == 0 | _ => false)
  | .nma c o => c.wf false && [RmwOp.add, .min, .max, .and, .or, .xor, .fadd, .fmin, .fmax].contains o.op && o.op.tys.contains o.ty
      && o.dst == .none && o.base.isPair && o.c == .zero && (if o.ty.is64 then o.b.isSrc64 else o.b.isSrc)
  | .nmar c o => c.wf true && !(o.op == .inc || o.op == .dec) && o.op.tys.contains o.ty && o.base.isPair && o.c == .zero
      && (if o.ty.is64 then o.dst.isPairOpt else o.dst.isRegOpt)
      && (if o.op == .cas then o.b.isCasBlock o.ty.is64 else if o.ty.is64 then o.b.isSrc64 else o.b.isSrc)
  | .bdot c o => c.wf true && o.op == .add && [Ty.f32, Ty.f16, Ty.bf16].contains o.ty && o.dst.isPair && o.base.isPair && o.b.isPair
      && o.c.isReg && o.off == 0
  | .gred c o => c.wf true
      && (([RmwOp.add, .min, .max].contains o.op && [Ty.i32, Ty.n32].contains o.ty)
          || ([RmwOp.fadd, .fmin, .fmax].contains o.op && o.ty == .f32))
      && (match o.dst with | .x n => decide (n < 128) && n % 2 == 0 | _ => false) && o.base.isPair && o.b == .zero && o.c == .zero
  | .migset c l => c.wf false && liveOk l
  | .migto c o => c.wf false && o.dst == .none && (if o.cm then o.base.isReg else o.base.isPair)
  | .migq c o => c.wf true && o.dst.isReg && (if o.cm then o.base.isReg else o.base.isPair)
  | .wpre c o => c.wf true && o.mods && o.slot == 0 && o.dst.isPairOpt && o.origin == .zero && decide (o.bar < 3) && o.off == 0
      && (match o.addr with | .x n => decide (n + 4 ≤ 128) && n % 2 == 0 | _ => false)
  | .trap c code | .brk c code | .halt c code => c.wf false && decide (code < 65536)
  | .tret c _ => c.wf false
  | .sysr c d i => c.wf true && d.isReg && decide (i < 65536)
  | .sysw c a i => c.wf true && a.isSrc && decide (i < 65536)
  | .cntr c d n => c.wf true && d.isPair && decide (n < 32)
  | .tlbiVa c a b => c.wf true && a.isPair && b.isReg
  | .tlbiAsid c b => c.wf true && b.isReg
  | .dbgr c o => c.wf true && o.dst.isPair && o.a.isReg && o.b == .zero && o.imm == 0
  | .dbgw c o => c.wf true && o.dst.isRegOpt && o.a.isReg && o.b.isSrc && o.imm == 0
  -- Steps without a word carry no decode legality (R36 speaks of words alone).
  | .ckinjWrite .. | .dbgctlWrite .. | .getCert .. | .getAttest .. | .setPart .. | .setCtx .. | .setQueue .. | .setRelth ..
  | .setAccept .. | .setAcctl .. | .bindJob .. | .unbindJob .. | .report .. | .clearBerr .. | .clearFlag .. | .clearLink ..
  | .debugAuth .. | .commitSvn .. | .loadImage .. | .packageReset | .powerArbiterInterval .. | .hardThrottle .. | .thermalTrip ..
  | .sensorSample .. | .cadenceTick | .leaseWritebackDeadline .. | .leaseRecall .. | .leaseExpiry .. | .collapseComplete ..
  | .calibrationTrigger .. | .calibrationComplete .. | .modeChangeComplete .. | .tileWriteComplete .. | .mmaVerdict ..
  | .retryVerdict .. | .promotionProbeAnswer .. | .broomProbeReturn .. | .tokenCountdown .. | .shortMissResolved ..
  | .faultQueueResponse .. | .workgroupSave .. | .copySegmentLand .. | .fixupReplay .. | .copyEnd .. | .nmuRefresh ..
  | .nmuCommandComplete .. | .qsendArrival .. | .queueTake .. | .dispatch .. | .completionIncrement .. | .waitReevaluation ..
  | .reservedMessage .. | .goMessage .. | .goAck .. | .goTimeout .. | .abortMessage .. | .sliceEnd .. | .preemption ..
  | .restore .. | .runGrant .. | .sleepEnd .. | .relocationHonour .. | .relocationRemap .. | .slotRequestAnswer ..
  | .slotRequestRetry .. | .pannierArrival .. | .travelDrainEnd .. | .haltRaise .. | .skidEnd .. | .haltRecorded ..
  | .tandemCommit .. | .tandemTimeout .. | .rollback .. | .ueDetected .. | .accumulatorUe .. | .containmentLost ..
  | .patrolScrub .. | .linkReplay .. | .linkRetrain .. | .linkRateUp .. | .controlPortRetry | .periodicReport ..
  | .debugRightsExpiry .. | .invalidateBroadcast .. | .sync .. | .syncAck .. | .flitAcknowledged .. | .retrainingComplete ..
  | .leaseTermEnd .. | .withdrawEntry .. | .unknownCode .. => true

end Sys2Proof
end

