-- ==== Sys2Proof/Decode.lean ====
section
/-! DEFINITION. From 96-bit words to instructions and back (R28, R29, R36, R51 to R60 and the encoding tables of the
chapters). The encoder is the master: a word is the instruction i exactly when its fields parse to i, i is well formed and
the encoding of i is the word, so every field an instruction does not use must hold the value R36 states. -/

namespace Sys2Proof

/-- The fields of a word (R28). -/
structure Fields where
  op : Nat
  fn : Nat
  e : Bool
  d : Bool
  g : Nat
  n : Bool
  t : Nat
  dst : Nat
  sa : Nat
  sb : Nat
  sc : Nat
  mod : Nat
  imm : Nat
deriving DecidableEq, Repr

/-- The fields of a 96-bit word (R28). -/
def Fields.ofWord (w : IWord) : Fields :=
  let v := w.toNat
  { op := bits v 95 88, fn := bits v 87 84, e := bit v 83, d := bit v 82, g := bits v 81 77, n := bit v 76, t := bits v 75 72,
    dst := bits v 71 64, sa := bits v 63 56, sb := bits v 55 48, sc := bits v 47 40, mod := bits v 39 32, imm := bits v 31 0 }

/-- The 96-bit word of the fields (R28). -/
def Fields.toWord (f : Fields) : IWord :=
  BitVec.ofNat 96 (f.imm + 2 ^ 32 * (f.mod + 2 ^ 8 * (f.sc + 2 ^ 8 * (f.sb + 2 ^ 8 * (f.sa + 2 ^ 8 * (f.dst + 2 ^ 8 *
    (f.t + 2 ^ 4 * (b2n f.n + 2 * (f.g + 2 ^ 5 * (b2n f.d + 2 * (b2n f.e + 2 * (f.fn + 2 ^ 4 * f.op))))))))))))

/-! Codes of the enumerations (R59). -/

def Ty.code : Ty → Nat
  | .i8 => 0 | .i16 => 1 | .i32 => 2 | .i64 => 3 | .n8 => 4 | .n16 => 5 | .n32 => 6 | .n64 => 7 | .b32 => 8 | .b64 => 9
  | .f32 => 10 | .f16 => 11 | .bf16 => 12 | .e4m3 => 13 | .e5m2 => 14
def Ty.ofCode : Nat → Option Ty
  | 0 => some .i8 | 1 => some .i16 | 2 => some .i32 | 3 => some .i64 | 4 => some .n8 | 5 => some .n16 | 6 => some .n32
  | 7 => some .n64 | 8 => some .b32 | 9 => some .b64 | 10 => some .f32 | 11 => some .f16 | 12 => some .bf16 | 13 => some .e4m3
  | 14 => some .e5m2 | _ => none
def Rnd.code : Rnd → Nat
  | .rne => 0 | .rz => 1 | .rdn => 2 | .rup => 3
def Rnd.ofCode : Nat → Rnd
  | 0 => .rne | 1 => .rz | 2 => .rdn | _ => .rup
def Scope.code : Scope → Nat
  | .grp => 0 | .wg => 1 | .cl => 2 | .die => 3 | .dev => 4 | .dom => 5 | .sys => 6
def Scope.ofCode : Nat → Option Scope
  | 0 => some .grp | 1 => some .wg | 2 => some .cl | 3 => some .die | 4 => some .dev | 5 => some .dom | 6 => some .sys | _ => none
def Order.code : Order → Nat
  | .rlx => 0 | .acq => 1 | .rel => 2 | .ar => 3 | .sc => 4
def Order.ofCode : Nat → Option Order
  | 0 => some .rlx | 1 => some .acq | 2 => some .rel | 3 => some .ar | 4 => some .sc | _ => none
/-- TIER codes of the qualifier byte (R227); the private tier has none and encodes 0. -/
def Tier.code : Tier → Nat
  | .glob => 0 | .smem => 1 | .cmem => 2 | .dmem => 3 | .priv => 0
def Tier.ofCode : Nat → Option Tier
  | 0 => some .glob | 1 => some .smem | 2 => some .cmem | 3 => some .dmem | _ => none
/-- Width codes in FN (R54). -/
def Width.code : Width → Nat
  | .n8 => 0 | .i8 => 1 | .n16 => 2 | .i16 => 3 | .b32 => 4 | .b64 => 5
def Width.ofCode : Nat → Option Width
  | 0 => some .n8 | 1 => some .i8 | 2 => some .n16 | 3 => some .i16 | 4 => some .b32 | 5 => some .b64 | _ => none
/-- FN codes of ATOM (R54). -/
def RmwOp.atomCode : RmwOp → Nat
  | .add => 0 | .min => 1 | .max => 2 | .and => 3 | .or => 4 | .xor => 5 | .exch => 6 | .inc => 7 | .dec => 8 | _ => 15
def RmwOp.ofAtom : Nat → Option RmwOp
  | 0 => some .add | 1 => some .min | 2 => some .max | 3 => some .and | 4 => some .or | 5 => some .xor | 6 => some .exch
  | 7 => some .inc | 8 => some .dec | _ => none
/-- FN codes of ATOMF (R54). -/
def RmwOp.atomfCode : RmwOp → Nat
  | .fadd => 0 | .fmin => 1 | .fmax => 2 | _ => 15
def RmwOp.ofAtomf : Nat → Option RmwOp
  | 0 => some .fadd | 1 => some .fmin | 2 => some .fmax | _ => none
/-- FN codes of RED, NMA, NMAR and GRED (R54, R56). -/
def RmwOp.redCode : RmwOp → Nat
  | .add => 0 | .min => 1 | .max => 2 | .and => 3 | .or => 4 | .xor => 5 | .exch => 6 | .cas => 7 | .fadd => 8 | .fmin => 9
  | .fmax => 10 | _ => 15
def RmwOp.ofRed : Nat → Option RmwOp
  | 0 => some .add | 1 => some .min | 2 => some .max | 3 => some .and | 4 => some .or | 5 => some .xor | 6 => some .exch
  | 7 => some .cas | 8 => some .fadd | 9 => some .fmin | 10 => some .fmax | _ => none
def Rel.code : Rel → Nat
  | .eq => 0 | .ne => 1 | .lt => 2 | .le => 3 | .gt => 4 | .ge => 5
def Rel.ofCode : Nat → Option Rel
  | 0 => some .eq | 1 => some .ne | 2 => some .lt | 3 => some .le | 4 => some .gt | 5 => some .ge | _ => none
def FRel.code : FRel → Nat
  | .eq => 0 | .ne => 1 | .lt => 2 | .le => 3 | .gt => 4 | .ge => 5 | .ord => 6 | .unord => 7
def FRel.ofCode : Nat → FRel
  | 0 => .eq | 1 => .ne | 2 => .lt | 3 => .le | 4 => .gt | 5 => .ge | 6 => .ord | _ => .unord
def POp.code : POp → Nat
  | .and => 0 | .or => 1 | .xor => 2 | .andn => 3 | .not => 4
def POp.ofCode : Nat → Option POp
  | 0 => some .and | 1 => some .or | 2 => some .xor | 3 => some .andn | 4 => some .not | _ => none
def VoteKind.code : VoteKind → Nat
  | .all => 0 | .any => 1 | .same => 2 | .cnt => 3
def VoteKind.ofCode : Nat → Option VoteKind
  | 0 => some .all | 1 => some .any | 2 => some .same | 3 => some .cnt | _ => none
def ShflKind.code : ShflKind → Nat
  | .lane => 0 | .rotu => 1 | .rotd => 2 | .xor => 3
def ShflKind.ofCode : Nat → Option ShflKind
  | 0 => some .lane | 1 => some .rotu | 2 => some .rotd | 3 => some .xor | _ => none
def Shape.code : Shape → Nat
  | .ind => 0 | .w4 => 1 | .sq => 2 | .d4 => 3
def Shape.ofCode : Nat → Option Shape
  | 0 => some .ind | 1 => some .w4 | 2 => some .sq | 3 => some .d4 | _ => none
/-- Special register numbers, from code 0xC0 (R42). -/
def SReg.code : SReg → Nat
  | .lane => 0 | .group => 1 | .wg => 2 | .wgx => 3 | .wgy => 4 | .wgz => 5 | .ngroups => 6 | .core => 7 | .pcore => 8
  | .cluster => 9 | .die => 10 | .cyclelo => 11 | .cyclehi => 12 | .timelo => 13 | .timehi => 14 | .hop => 15 | .origin => 16
  | .ctx => 17 | .temp => 18 | .gang => 19 | .activelo => 20 | .activehi => 21
def SReg.ofCode : Nat → Option SReg
  | 0 => some .lane | 1 => some .group | 2 => some .wg | 3 => some .wgx | 4 => some .wgy | 5 => some .wgz | 6 => some .ngroups
  | 7 => some .core | 8 => some .pcore | 9 => some .cluster | 10 => some .die | 11 => some .cyclelo | 12 => some .cyclehi
  | 13 => some .timelo | 14 => some .timehi | 15 => some .hop | 16 => some .origin | 17 => some .ctx | 18 => some .temp
  | 19 => some .gang | 20 => some .activelo | 21 => some .activehi | _ => none

/-! Operand codes (R38). -/

/-- The code of a source; a literal leaves its field at 0xFF (R36 case 6). -/
def Src.code : Src → Nat
  | .x n => n
  | .s n => 0x80 + n
  | .sr r => 0xC0 + r.code
  | .p n => 0xE0 + n
  | .zero => 0xFF
  | .imm _ => 0xFF
def Src.ofCode (c : Nat) : Option Src :=
  if c < 0x80 then some (.x c)
  else if c < 0xC0 then some (.s (c - 0x80))
  else if c < 0xD6 then (SReg.ofCode (c - 0xC0)).map .sr
  else if c < 0xE0 then none
  else if c < 0xF8 then some (.p (c - 0xE0))
  else if c = 0xFF then some .zero
  else none
def Dst.code : Dst → Nat
  | .x n => n
  | .s n => 0x80 + n
  | .p n => 0xE0 + n
  | .none => 0xFF
def Dst.ofCode (c : Nat) : Option Dst :=
  if c < 0x80 then some (.x c)
  else if c < 0xC0 then some (.s (c - 0x80))
  else if c < 0xE0 then Option.none
  else if c < 0xF8 then some (.p (c - 0xE0))
  else if c = 0xFF then some .none
  else Option.none

/-- Whether source B is the literal (MOD[7], R43). -/
def Src.isImm : Src → Bool
  | .imm _ => true
  | _ => false
def Src.immVal : Src → Nat
  | .imm v => v.toNat
  | _ => 0

/-! Encoding. -/

/-- The control fields of a word with everything else at the unused values of R36. -/
def Ctl.base (c : Ctl) (op fn : Nat) : Fields :=
  { op, fn, e := c.e, d := c.d, g := (c.guard.map (·.p)).getD 31, n := (c.guard.map (·.neg)).getD false, t := c.t,
    dst := 0xFF, sa := 0xFF, sb := 0xFF, sc := 0xFF, mod := 0, imm := 0 }

/-- Classes 0 and 1 (R60); FN[3] is .ftz in class 1 (R52). -/
def Alu.enc (o : Alu) (c : Ctl) (op fn : Nat) : Fields :=
  { c.base op (fn + 8 * b2n o.ftz) with
    dst := o.dst.code, sa := o.a.code, sb := o.b.code, sc := o.c.code,
    mod := 128 * b2n o.b.isImm + 64 * b2n o.sat + 16 * o.rnd.code + o.ty.code, imm := o.b.immVal }

/-- Transaction barriers and QSEND (R256, R303). -/
def BarOps.enc (o : BarOps) (c : Ctl) (op fn : Nat) : Fields :=
  { c.base op fn with sa := o.base.code, sb := o.b.code, mod := b2n o.cm, imm := o.off.toNat }

/-- Class 3 with a qualifier byte (R226, R227); `ty` says whether TYPE is used. -/
def MemOps.enc (o : MemOps) (c : Ctl) (op fn : Nat) (ty : Bool) : Fields :=
  { c.base op fn with
    dst := o.dst.code, sa := o.base.code, sb := o.data.code,
    sc := 32 * o.tier.code + 16 * b2n o.remote + (if ty then o.ty.code else 0),
    mod := 16 * o.scope.code + 2 * o.order.code + b2n o.go, imm := o.off.toNat }
/-- The tier loads and stores, whose TIER field is 0 (R227). -/
def MemOps.encTier (o : MemOps) (c : Ctl) (op : Nat) : Fields :=
  { o.enc c op o.width.code false with sc := 16 * b2n o.remote }
/-- PREF, CCTL, SEAL and UNSEAL, whose SC is 0xFF (R227). -/
def MemOps.encBare (o : MemOps) (c : Ctl) (op fn : Nat) : Fields :=
  { o.enc c op fn false with sc := 0xFF }

/-- AWR, ALD and WPRE (R146, R272). -/
def TileOps.enc (o : TileOps) (c : Ctl) (op : Nat) : Fields :=
  { c.base op 0 with
    dst := o.dst.code, sa := o.addr.code, sb := o.origin.code, sc := o.slotBase,
    mod := 32 * o.q + 8 * o.slot + 4 * b2n o.dense + o.tw, imm := o.off.toNat + o.bar }

/-- The Tile layout (R146). -/
def AccOps.enc (o : AccOps) (c : Ctl) (op : Nat) : Fields :=
  { c.base op 0 with
    dst := o.dst.code, sa := o.a.code, sb := o.b.code, sc := o.slotBase,
    mod := 32 * o.q + 4 * o.acc + 2 * b2n o.clr, imm := o.off.toNat }

/-- NMA, NMAR, BDOT and GRED (R276, R277, R279). -/
def NmuOps.enc (o : NmuOps) (c : Ctl) (op fn : Nat) : Fields :=
  { c.base op fn with dst := o.dst.code, sa := o.base.code, sb := o.b.code, sc := o.c.code, mod := o.ty.code, imm := o.off.toNat }

/-- Copies (R263). -/
def CopyOps.enc (o : CopyOps) (c : Ctl) (op : Nat) (m : Bool) : Fields :=
  { c.base op 0 with
    dst := o.dst.code, sa := o.block.code,
    mod := 16 * o.scope.code + 4 * o.st + (if m then 2 * b2n o.dir + b2n o.edge else o.dt), imm := o.bar }

/-- MIGTO and MIGQ (R360). -/
def MigOps.enc (o : MigOps) (c : Ctl) (op : Nat) : Fields :=
  { c.base op 0 with dst := o.dst.code, sa := o.base.code, mod := b2n o.cm, imm := o.off.toNat }

/-- The fields of an instruction's word; none for a step that no word encodes. -/
def encodeFields : Instr → Option Fields
  | .iadd c o => some (o.enc c 0x01 0)
  | .isub c o => some (o.enc c 0x02 0)
  | .imul c o => some (o.enc c 0x03 0)
  | .imulHi c o => some (o.enc c 0x03 (if o.ty == .i32 then 1 else 2))
  | .imad c o => some (o.enc c 0x04 0)
  | .imadWide c o => some (o.enc c 0x04 1)
  | .imin c o => some (o.enc c 0x05 0)
  | .imax c o => some (o.enc c 0x05 1)
  | .iabs c o => some (o.enc c 0x06 0)
  | .ineg c o => some (o.enc c 0x06 1)
  | .and c o => some (o.enc c 0x07 0)
  | .or c o => some (o.enc c 0x07 1)
  | .xor c o => some (o.enc c 0x07 2)
  | .andn c o => some (o.enc c 0x07 3)
  | .orn c o => some (o.enc c 0x07 4)
  | .not c o => some (o.enc c 0x07 5)
  | .shl c o => some (o.enc c 0x08 0)
  | .shr c o => some (o.enc c 0x09 0)
  | .sar c o => some (o.enc c 0x0A 0)
  | .rol c o => some (o.enc c 0x0B 0)
  | .ror c o => some (o.enc c 0x0B 1)
  | .bfx c o => some (o.enc c 0x0C (if o.ty == .n32 || o.ty == .n64 then 0 else 1))
  | .bfi c o => some (o.enc c 0x0D 0)
  | .popc c o => some (o.enc c 0x0E 0)
  | .clz c o => some (o.enc c 0x0F 0)
  | .ctz c o => some (o.enc c 0x0F 1)
  | .brev c o => some (o.enc c 0x10 0)
  | .prmt c o => some (o.enc c 0x11 0)
  | .icmp c r o => some (o.enc c 0x12 r.code)
  | .isel c o => some (o.enc c 0x13 0)
  | .mov c o => some (o.enc c 0x14 0)
  | .movi c v o => some { o.enc c 0x15 0 with imm := v.toNat }
  | .lea c sh o => some { o.enc c 0x16 0 with sc := sh }
  | .plog c op o => some (o.enc c 0x17 op.code)
  | .pmovPack c n o => some { o.enc c 0x18 0 with imm := n }
  | .pmovUnpack c n o => some { o.enc c 0x18 1 with imm := n }
  | .fadd c o => some (o.enc c 0x20 0)
  | .fsub c o => some (o.enc c 0x20 1)
  | .fmul c o => some (o.enc c 0x21 0)
  | .fma c o => some (o.enc c 0x22 0)
  | .fmin c o => some (o.enc c 0x23 0)
  | .fmax c o => some (o.enc c 0x23 1)
  | .fcmp c r o => some (o.enc c 0x24 r.code)
  | .frnd c o => some (o.enc c 0x25 0)
  | .frcp c o => some (o.enc c 0x26 0)
  | .frsq c o => some (o.enc c 0x27 0)
  | .fsqrt c o => some (o.enc c 0x28 0)
  | .fexp2 c o => some (o.enc c 0x29 0)
  | .flog2 c o => some (o.enc c 0x2A 0)
  | .fsin c o => some (o.enc c 0x2B 0)
  | .fcos c o => some (o.enc c 0x2B 1)
  | .ftanh c o => some (o.enc c 0x2C 0)
  | .fsigm c o => some (o.enc c 0x2D 0)
  | .fclass c o => some (o.enc c 0x2E 0)
  | .fscale c o => some (o.enc c 0x2F 0)
  | .cvt c src o => some { o.enc c 0x30 0 with sc := src.code }
  | .cvti c src o => some { o.enc c 0x31 0 with sc := src.code }
  | .cvtf c src o => some { o.enc c 0x31 1 with sc := src.code }
  | .hadd2 c o => some (o.enc c 0x32 0)
  | .hmul2 c o => some (o.enc c 0x32 1)
  | .hfma2 c o => some (o.enc c 0x32 2)
  | .dot4 c o => some (o.enc c 0x33 0)
  | .mxpack c tag o => some { o.enc c 0x34 0 with sb := tag }
  | .mxunpk c o => some (o.enc c 0x35 0)
  | .nop c => some (c.base 0x40 0)
  | .dly c n => some { c.base 0x41 0 with imm := n }
  | .bra c v => some { c.base 0x42 0 with imm := v.toNat }
  | .brx c a => some { c.base 0x43 0 with sa := a.code }
  | .call c v => some { c.base 0x44 0 with imm := v.toNat }
  | .callReg c a => some { c.base 0x44 1 with sa := a.code }
  | .ret c => some (c.base 0x45 0)
  | .exit c => some (c.base 0x46 0)
  | .twait c n k => some { c.base 0x47 0 with imm := n + 16 * k }
  | .yield c => some (c.base 0x48 0)
  | .sleep c n => some { c.base 0x49 0 with imm := n }
  | .join c m => some { c.base 0x4A 0 with imm := m }
  | .leave c m => some { c.base 0x4B 0 with imm := m }
  | .mwait c m => some { c.base 0x4C 0 with imm := m }
  | .maskRd c d m => some { c.base 0x4D 0 with dst := d.code, imm := m }
  | .maskTst c d m => some { c.base 0x4D 1 with dst := d.code, imm := m }
  | .ballot c d a => some { c.base 0x4E 0 with dst := d.code, sa := a.code }
  | .vote c k d a => some { c.base 0x4F k.code with dst := d.code, sa := a.code }
  | .shfl c k seg d a b => some { c.base 0x50 k.code with
      dst := d.code, sa := a.code, sb := b.code, mod := 128 * b2n b.isImm + seg, imm := b.immVal }
  | .bar c n => some { c.base 0x51 0 with imm := n }
  | .cbar c n => some { c.base 0x52 0 with imm := n }
  | .binit c o => some (o.enc c 0x53 0)
  | .barrive c o => some (o.enc c 0x54 0)
  | .barriveTx c o => some (o.enc c 0x54 1)
  | .bwait c o => some (o.enc c 0x55 0)
  | .binval c o => some (o.enc c 0x56 0)
  | .qsend c o => some (o.enc c 0x57 0)
  | .qrecv c d b off => some { c.base 0x58 0 with dst := d.code, sa := b.code, imm := off.toNat }
  | .launch c d r q => some { c.base 0x59 0 with
      dst := d.code, sa := r.code, sb := q.code, mod := 128 * b2n q.isImm, imm := q.immVal }
  | .ldp c o => some (o.encTier c 0x60)
  | .stp c o => some (o.encTier c 0x61)
  | .lds c o => some (o.encTier c 0x62)
  | .sts c o => some (o.encTier c 0x63)
  | .ldc c o => some (o.encTier c 0x64)
  | .stc c o => some (o.encTier c 0x65)
  | .ldd c o => some (o.encTier c 0x66)
  | .std c o => some (o.encTier c 0x67)
  | .ldg c o => some (o.encTier c 0x68)
  | .stg c o => some (o.encTier c 0x69)
  | .cstore c o => some (o.enc c 0x6A o.width.code false)
  | .xload c o => some (o.enc c 0x6B o.width.code false)
  | .atom c op o => some (o.enc c 0x6C op.atomCode true)
  | .atomf c op o => some (o.enc c 0x6D op.atomfCode true)
  | .red c op o => some (o.enc c 0x6E op.redCode true)
  | .cas c o => some (o.enc c 0x6F o.width.code false)
  | .fence c o => some (o.enc c 0x70 0 false)
  | .pref c l1 o => some (o.encBare c 0x71 (b2n l1))
  | .cctlWb c o => some (o.encBare c 0x72 0)
  | .cctlInv c o => some (o.encBare c 0x72 1)
  | .cctlWbinv c o => some (o.encBare c 0x72 2)
  | .seal c o => some (o.encBare c 0x73 0)
  | .unseal c o => some (o.encBare c 0x74 0)
  | .amodeSto c q => some { c.base 0x80 0 with imm := q }
  | .amodeMul c q => some { c.base 0x80 1 with imm := q }
  | .acal c q => some { c.base 0x81 0 with imm := q }
  | .awr c o => some (o.enc c 0x82)
  | .ald c o => some (o.enc c 0x83)
  | .ard c o => some (o.enc c 0x84)
  | .mconv c k g3 g2 g1 g0 => some { c.base 0x85 0 with
      imm := g0 + 2 ^ 7 * g1 + 2 ^ 14 * g2 + 2 ^ 21 * g3 + 2 ^ 28 * k }
  | .mma c o => some { c.base 0x86 o.shape.code with
      sa := o.elems.code, sb := o.hdrs.code, sc := o.slotBase, mod := 16 * o.rep + 8 * b2n o.dense + o.sw,
      imm := 64 * o.qmask + 8 * o.kreg + o.acc }
  | .mzero c q a => some { c.base 0x87 0 with imm := q + 16 * a }
  | .mdrain c o => some (o.enc c 0x88)
  | .macc c o => some (o.enc c 0x89)
  | .mcks c o => some (o.enc c 0x8A)
  | .mloc c o => some (o.enc c 0x8B)
  | .mfix c o => some (o.enc c 0x8C)
  | .mretry c rep o => some { o.enc c 0x8D with imm := rep }
  | .ainfo c sel o => some { o.enc c 0x8E with sc := 0xFF, imm := sel + 256 * o.slotBase }
  | .bcopy c o => some (o.enc c 0xA0 false)
  | .bcopym c o => some (o.enc c 0xA1 true)
  | .broom c => some (c.base 0xA2 0)
  | .nma c o => some (o.enc c 0xA3 o.op.redCode)
  | .nmar c o => some (o.enc c 0xA4 o.op.redCode)
  | .bdot c o => some (o.enc c 0xA5 0)
  | .gred c o => some (o.enc c 0xA6 o.op.redCode)
  | .migset c l => some { c.base 0xA7 0 with
      sb := bits l.toNat 47 40, sc := bits l.toNat 39 32, imm := bits l.toNat 31 0 }
  | .migto c o => some (o.enc c 0xA8)
  | .migret c => some (c.base 0xA9 0)
  | .migq c o => some (o.enc c 0xAA)
  | .wpre c o => some (o.enc c 0xAB)
  | .trap c code => some { c.base 0xC0 0 with imm := code }
  | .tret c nx => some { c.base 0xC1 0 with imm := b2n nx }
  | .sysr c d i => some { c.base 0xC2 0 with dst := d.code, imm := i }
  | .sysw c a i => some { c.base 0xC3 0 with sa := a.code, imm := i }
  | .cntr c d n => some { c.base 0xC4 0 with dst := d.code, imm := n }
  | .brk c code => some { c.base 0xC5 0 with imm := code }
  | .halt c code => some { c.base 0xC6 0 with imm := code }
  | .tlbiVa c a b => some { c.base 0xC7 0 with sa := a.code, sb := b.code }
  | .tlbiAsid c b => some { c.base 0xC7 1 with sb := b.code }
  | .dbgw c o => some { c.base 0xC8 0 with dst := o.dst.code, sa := o.a.code, sb := o.b.code, imm := o.imm.toNat }
  | .dbgr c o => some { c.base 0xC9 0 with dst := o.dst.code, sa := o.a.code, sb := o.b.code, imm := o.imm.toNat }
  | .ckinjWrite .. | .dbgctlWrite .. | .getCert .. | .getAttest .. | .setPart .. | .setCtx .. | .setQueue .. | .setRelth ..
  | .setAccept .. | .setAcctl .. | .bindJob .. | .unbindJob .. | .report .. | .clearBerr .. | .clearFlag .. | .clearLink ..
  | .debugAuth .. | .commitSvn .. | .loadImage .. | .packageReset | .powerArbiterInterval .. | .hardThrottle .. | .thermalTrip ..
  | .sensorSample .. | .cadenceTick | .leaseWritebackDeadline .. | .leaseRecall .. | .leaseExpiry .. | .collapseComplete ..
  | .calibrationTrigger .. | .calibrationComplete .. | .modeChangeComplete .. | .tileWriteComplete .. | .mmaVerdict ..
  | .retryVerdict .. | .promotionProbeAnswer .. | .broomProbeReturn .. | .tokenCountdown .. | .shortMissResolved ..
  | .faultQueueResponse .. | .workgroupSave .. | .copySegmentLand .. | .fixupReplay .. | .copyEnd .. | .nmuRefresh ..
  | .nmuCommandComplete .. | .qsendArrival .. | .queueTake .. | .dispatch .. | .completionIncrement .. | .waitReevaluation ..
  | .reservedMessage .. | .goMessage .. | .goAck .. | .goTimeout .. | .abortMessage .. | .sliceEnd .. | .preemption ..
  | .restore .. | .runGrant .. | .sleepEnd .. | .relocationHonour .. | .relocationRemap .. | .slotRequestAnswer ..
  | .slotRequestRetry .. | .pannierArrival .. | .travelDrainEnd .. | .haltRaise .. | .skidEnd .. | .haltRecorded ..
  | .tandemCommit .. | .tandemTimeout .. | .rollback .. | .ueDetected .. | .accumulatorUe .. | .containmentLost ..
  | .patrolScrub .. | .linkReplay .. | .linkRetrain .. | .linkRateUp .. | .controlPortRetry | .periodicReport ..
  | .debugRightsExpiry .. | .invalidateBroadcast .. | .sync .. | .syncAck .. | .flitAcknowledged .. | .retrainingComplete ..
  | .leaseTermEnd .. | .withdrawEntry .. | .unknownCode .. => none

/-- The word of an instruction (R28); none for a step that no word encodes. -/
def encode (i : Instr) : Option IWord := (encodeFields i).map Fields.toWord

/-! Parsing. -/

/-- The guard of a word (R28); none where R36 case 8 holds. -/
def Fields.ctl (f : Fields) : Option Ctl :=
  if f.g = 31 then (if f.n then none else some { guard := none, e := f.e, d := f.d, t := f.t })
  else if f.g < 24 then some { guard := some { p := f.g, neg := f.n }, e := f.e, d := f.d, t := f.t }
  else none

/-- Source B, or the literal when MOD[7] = 1 (R43). -/
def Fields.srcB (f : Fields) : Option Src :=
  if bit f.mod 7 then some (.imm (BitVec.ofNat 32 f.imm)) else Src.ofCode f.sb

/-- The operands of classes 0 and 1, with source C given by the caller. -/
def Fields.aluC (f : Fields) (c : Src) : Option Alu := do
  let ty ← Ty.ofCode (bits f.mod 3 0)
  let dst ← Dst.ofCode f.dst
  let a ← Src.ofCode f.sa
  let b ← f.srcB
  some { ty, sat := bit f.mod 6, rnd := Rnd.ofCode (bits f.mod 5 4), ftz := decide (0x20 ≤ f.op) && bit f.fn 3, dst, a, b, c }
def Fields.alu (f : Fields) : Option Alu := do
  let c ← Src.ofCode f.sc
  f.aluC c

def Fields.barOps (f : Fields) : Option BarOps := do
  let base ← Src.ofCode f.sa
  let b ← Src.ofCode f.sb
  some { cm := bit f.mod 0, base, b, off := BitVec.ofNat 32 f.imm }

/-- Class 3 operands; `q` says whether SC is a qualifier byte (R227). -/
def Fields.memOps (f : Fields) (width : Width) (ty : Bool) (tier : Option Tier) (q : Bool) : Option MemOps := do
  let scope ← Scope.ofCode (bits f.mod 6 4)
  let order ← Order.ofCode (bits f.mod 3 1)
  let dst ← Dst.ofCode f.dst
  let base ← Src.ofCode f.sa
  let data ← Src.ofCode f.sb
  let tier ← (match tier with | some t => some t | none => if q then Tier.ofCode (bits f.sc 7 5) else some .glob)
  let t ← if ty then Ty.ofCode (bits f.sc 3 0) else some .i8
  some { width, ty := t, tier, scope, order, go := bit f.mod 0, remote := q && bit f.sc 4, dst, base, data, off := BitVec.ofNat 32 f.imm }
def Fields.memTier (f : Fields) (tier : Tier) : Option MemOps := do
  let w ← Width.ofCode f.fn
  f.memOps w false (some tier) true

def Fields.tileOps (f : Fields) (wpre : Bool) : Option TileOps := do
  let dst ← Dst.ofCode f.dst
  let addr ← Src.ofCode f.sa
  let origin ← Src.ofCode f.sb
  some { q := bits f.mod 6 5, slot := bits f.mod 4 3, dense := bit f.mod 2, tw := bits f.mod 1 0, slotBase := f.sc, dst, addr, origin,
         bar := if wpre then bits f.imm 1 0 else 0, off := if wpre then 0 else BitVec.ofNat 32 f.imm }

def Fields.accOps (f : Fields) : Option AccOps := do
  let dst ← Dst.ofCode f.dst
  let a ← Src.ofCode f.sa
  let b ← Src.ofCode f.sb
  some { q := bits f.mod 6 5, acc := bits f.mod 4 2, clr := bit f.mod 1, dst, a, b, slotBase := f.sc, off := BitVec.ofNat 32 f.imm }

def Fields.mmaOps (f : Fields) : Option MmaOps := do
  let shape ← Shape.ofCode f.fn
  let elems ← Src.ofCode f.sa
  let hdrs ← Src.ofCode f.sb
  some { shape, rep := bits f.mod 6 4, dense := bit f.mod 3, sw := bits f.mod 2 0, qmask := f.imm / 64,
         kreg := bits f.imm 5 3, acc := bits f.imm 2 0, slotBase := f.sc, elems, hdrs }

def Fields.nmuOps (f : Fields) (op : RmwOp) : Option NmuOps := do
  let ty ← Ty.ofCode (bits f.mod 3 0)
  let dst ← Dst.ofCode f.dst
  let base ← Src.ofCode f.sa
  let b ← Src.ofCode f.sb
  let c ← Src.ofCode f.sc
  some { op, ty, dst, base, b, c, off := BitVec.ofNat 32 f.imm }

def Fields.copyOps (f : Fields) (m : Bool) : Option CopyOps := do
  let scope ← Scope.ofCode (bits f.mod 6 4)
  let dst ← Dst.ofCode f.dst
  let block ← Src.ofCode f.sa
  some { scope, st := bits f.mod 3 2, dt := if m then 0 else bits f.mod 1 0, dir := m && bit f.mod 1, edge := m && bit f.mod 0,
         bar := bits f.imm 1 0, dst, block }

def Fields.migOps (f : Fields) : Option MigOps := do
  let dst ← Dst.ofCode f.dst
  let base ← Src.ofCode f.sa
  some { cm := bit f.mod 0, dst, base, off := BitVec.ofNat 32 f.imm }

def Fields.sysOps (f : Fields) : Option SysOps := do
  let dst ← Dst.ofCode f.dst
  let a ← Src.ofCode f.sa
  let b ← Src.ofCode f.sb
  some { dst, a, b, imm := BitVec.ofNat 32 f.imm }

/-- The instruction the fields name, before any legality check (R51 to R57); none where OP or FN is unassigned or an operand
code is reserved. -/
def parse (f : Fields) (c : Ctl) : Option Instr :=
  let fl := f.fn % 8
  match f.op with
  | 0x01 => f.alu.map (.iadd c)
  | 0x02 => f.alu.map (.isub c)
  | 0x03 => if f.fn = 0 then f.alu.map (.imul c) else f.alu.map (.imulHi c)
  | 0x04 => if f.fn = 0 then f.alu.map (.imad c) else f.alu.map (.imadWide c)
  | 0x05 => if f.fn = 0 then f.alu.map (.imin c) else f.alu.map (.imax c)
  | 0x06 => if f.fn = 0 then f.alu.map (.iabs c) else f.alu.map (.ineg c)
  | 0x07 => match f.fn with
    | 0 => f.alu.map (.and c) | 1 => f.alu.map (.or c) | 2 => f.alu.map (.xor c) | 3 => f.alu.map (.andn c)
    | 4 => f.alu.map (.orn c) | _ => f.alu.map (.not c)
  | 0x08 => f.alu.map (.shl c)
  | 0x09 => f.alu.map (.shr c)
  | 0x0A => f.alu.map (.sar c)
  | 0x0B => if f.fn = 0 then f.alu.map (.rol c) else f.alu.map (.ror c)
  | 0x0C => f.alu.map (.bfx c)
  | 0x0D => f.alu.map (.bfi c)
  | 0x0E => f.alu.map (.popc c)
  | 0x0F => if f.fn = 0 then f.alu.map (.clz c) else f.alu.map (.ctz c)
  | 0x10 => f.alu.map (.brev c)
  | 0x11 => f.alu.map (.prmt c)
  | 0x12 => do some (.icmp c (← Rel.ofCode f.fn) (← f.alu))
  | 0x13 => f.alu.map (.isel c)
  | 0x14 => f.alu.map (.mov c)
  | 0x15 => f.alu.map (.movi c (BitVec.ofNat 32 f.imm))
  | 0x16 => (f.aluC .zero).map (.lea c f.sc)
  | 0x17 => do some (.plog c (← POp.ofCode f.fn) (← f.alu))
  | 0x18 => if f.fn = 0 then f.alu.map (.pmovPack c f.imm) else f.alu.map (.pmovUnpack c f.imm)
  | 0x20 => if fl = 0 then f.alu.map (.fadd c) else f.alu.map (.fsub c)
  | 0x21 => f.alu.map (.fmul c)
  | 0x22 => f.alu.map (.fma c)
  | 0x23 => if fl = 0 then f.alu.map (.fmin c) else f.alu.map (.fmax c)
  | 0x24 => f.alu.map (.fcmp c (FRel.ofCode fl))
  | 0x25 => f.alu.map (.frnd c)
  | 0x26 => f.alu.map (.frcp c)
  | 0x27 => f.alu.map (.frsq c)
  | 0x28 => f.alu.map (.fsqrt c)
  | 0x29 => f.alu.map (.fexp2 c)
  | 0x2A => f.alu.map (.flog2 c)
  | 0x2B => if fl = 0 then f.alu.map (.fsin c) else f.alu.map (.fcos c)
  | 0x2C => f.alu.map (.ftanh c)
  | 0x2D => f.alu.map (.fsigm c)
  | 0x2E => f.alu.map (.fclass c)
  | 0x2F => f.alu.map (.fscale c)
  | 0x30 => do some (.cvt c (← Ty.ofCode f.sc) (← f.aluC .zero))
  | 0x31 => if fl = 0 then do some (.cvti c (← Ty.ofCode f.sc) (← f.aluC .zero))
            else do some (.cvtf c (← Ty.ofCode f.sc) (← f.aluC .zero))
  | 0x32 => match fl with
    | 0 => f.alu.map (.hadd2 c) | 1 => f.alu.map (.hmul2 c) | _ => f.alu.map (.hfma2 c)
  | 0x33 => f.alu.map (.dot4 c)
  | 0x34 => { f with sb := 0xFF }.alu.map (.mxpack c f.sb)
  | 0x35 => f.alu.map (.mxunpk c)
  | 0x40 => some (.nop c)
  | 0x41 => some (.dly c f.imm)
  | 0x42 => some (.bra c (BitVec.ofNat 32 f.imm))
  | 0x43 => do some (.brx c (← Src.ofCode f.sa))
  | 0x44 => if f.fn = 0 then some (.call c (BitVec.ofNat 32 f.imm)) else do some (.callReg c (← Src.ofCode f.sa))
  | 0x45 => some (.ret c)
  | 0x46 => some (.exit c)
  | 0x47 => some (.twait c (bits f.imm 3 0) (f.imm / 16))
  | 0x48 => some (.yield c)
  | 0x49 => some (.sleep c f.imm)
  | 0x4A => some (.join c f.imm)
  | 0x4B => some (.leave c f.imm)
  | 0x4C => some (.mwait c f.imm)
  | 0x4D => if f.fn = 0 then do some (.maskRd c (← Dst.ofCode f.dst) f.imm) else do some (.maskTst c (← Dst.ofCode f.dst) f.imm)
  | 0x4E => do some (.ballot c (← Dst.ofCode f.dst) (← Src.ofCode f.sa))
  | 0x4F => do some (.vote c (← VoteKind.ofCode f.fn) (← Dst.ofCode f.dst) (← Src.ofCode f.sa))
  | 0x50 => do some (.shfl c (← ShflKind.ofCode f.fn) (bits f.mod 2 0) (← Dst.ofCode f.dst) (← Src.ofCode f.sa) (← f.srcB))
  | 0x51 => some (.bar c f.imm)
  | 0x52 => some (.cbar c f.imm)
  | 0x53 => f.barOps.map (.binit c)
  | 0x54 => if f.fn = 0 then f.barOps.map (.barrive c) else f.barOps.map (.barriveTx c)
  | 0x55 => f.barOps.map (.bwait c)
  | 0x56 => f.barOps.map (.binval c)
  | 0x57 => f.barOps.map (.qsend c)
  | 0x58 => do some (.qrecv c (← Dst.ofCode f.dst) (← Src.ofCode f.sa) (BitVec.ofNat 32 f.imm))
  | 0x59 => do some (.launch c (← Dst.ofCode f.dst) (← Src.ofCode f.sa) (← f.srcB))
  | 0x60 => (f.memTier .priv).map (.ldp c)
  | 0x61 => (f.memTier .priv).map (.stp c)
  | 0x62 => (f.memTier .smem).map (.lds c)
  | 0x63 => (f.memTier .smem).map (.sts c)
  | 0x64 => (f.memTier .cmem).map (.ldc c)
  | 0x65 => (f.memTier .cmem).map (.stc c)
  | 0x66 => (f.memTier .dmem).map (.ldd c)
  | 0x67 => (f.memTier .dmem).map (.std c)
  | 0x68 => (f.memTier .glob).map (.ldg c)
  | 0x69 => (f.memTier .glob).map (.stg c)
  | 0x6A => do some (.cstore c (← f.memOps (← Width.ofCode f.fn) false none true))
  | 0x6B => do some (.xload c (← f.memOps (← Width.ofCode f.fn) false none true))
  | 0x6C => do some (.atom c (← RmwOp.ofAtom f.fn) (← f.memOps .n8 true none true))
  | 0x6D => do some (.atomf c (← RmwOp.ofAtomf f.fn) (← f.memOps .n8 true none true))
  | 0x6E => do some (.red c (← RmwOp.ofRed f.fn) (← f.memOps .n8 true none true))
  | 0x6F => do some (.cas c (← f.memOps (← Width.ofCode f.fn) false none true))
  | 0x70 => (f.memOps .n8 false none true).map (.fence c)
  | 0x71 => (f.memOps .n8 false none false).map (.pref c (bit f.fn 0))
  | 0x72 => match f.fn with
    | 0 => (f.memOps .n8 false none false).map (.cctlWb c)
    | 1 => (f.memOps .n8 false none false).map (.cctlInv c)
    | _ => (f.memOps .n8 false none false).map (.cctlWbinv c)
  | 0x73 => (f.memOps .n8 false none false).map (.seal c)
  | 0x74 => (f.memOps .n8 false none false).map (.unseal c)
  | 0x80 => if f.fn = 0 then some (.amodeSto c f.imm) else some (.amodeMul c f.imm)
  | 0x81 => some (.acal c f.imm)
  | 0x82 => (f.tileOps false).map (.awr c)
  | 0x83 => (f.tileOps false).map (.ald c)
  | 0x84 => f.accOps.map (.ard c)
  | 0x85 => some (.mconv c (f.imm / 2 ^ 28) (bits f.imm 27 21) (bits f.imm 20 14) (bits f.imm 13 7) (bits f.imm 6 0))
  | 0x86 => f.mmaOps.map (.mma c)
  | 0x87 => some (.mzero c (bits f.imm 3 0) (f.imm / 16))
  | 0x88 => f.accOps.map (.mdrain c)
  | 0x89 => f.accOps.map (.macc c)
  | 0x8A => f.accOps.map (.mcks c)
  | 0x8B => f.accOps.map (.mloc c)
  | 0x8C => f.accOps.map (.mfix c)
  | 0x8D => { f with imm := 0 }.accOps.map (.mretry c f.imm)
  | 0x8E => { f with imm := 0, sc := f.imm / 256 }.accOps.map (.ainfo c (bits f.imm 7 0))
  | 0xA0 => (f.copyOps false).map (.bcopy c)
  | 0xA1 => (f.copyOps true).map (.bcopym c)
  | 0xA2 => some (.broom c)
  | 0xA3 => do some (.nma c (← f.nmuOps (← RmwOp.ofRed f.fn)))
  | 0xA4 => do some (.nmar c (← f.nmuOps (← RmwOp.ofRed f.fn)))
  | 0xA5 => (f.nmuOps .add).map (.bdot c)
  | 0xA6 => do some (.gred c (← f.nmuOps (← RmwOp.ofRed f.fn)))
  | 0xA7 => some (.migset c (BitVec.ofNat 48 (f.imm + 2 ^ 32 * f.sc + 2 ^ 40 * f.sb)))
  | 0xA8 => f.migOps.map (.migto c)
  | 0xA9 => some (.migret c)
  | 0xAA => f.migOps.map (.migq c)
  | 0xAB => (f.tileOps true).map (.wpre c)
  | 0xC0 => some (.trap c f.imm)
  | 0xC1 => some (.tret c (bit f.imm 0))
  | 0xC2 => do some (.sysr c (← Dst.ofCode f.dst) f.imm)
  | 0xC3 => do some (.sysw c (← Src.ofCode f.sa) f.imm)
  | 0xC4 => do some (.cntr c (← Dst.ofCode f.dst) f.imm)
  | 0xC5 => some (.brk c f.imm)
  | 0xC6 => some (.halt c f.imm)
  | 0xC7 => if f.fn = 0 then do some (.tlbiVa c (← Src.ofCode f.sa) (← Src.ofCode f.sb)) else do some (.tlbiAsid c (← Src.ofCode f.sb))
  | 0xC8 => f.sysOps.map (.dbgw c)
  | 0xC9 => f.sysOps.map (.dbgr c)
  | _ => none

/-- OP values that the opcode map assigns (R51 to R58). -/
def opAssigned (op : Nat) : Bool :=
  (0x01 ≤ op && op ≤ 0x18) || (0x20 ≤ op && op ≤ 0x35) || (0x40 ≤ op && op ≤ 0x59) || (0x60 ≤ op && op ≤ 0x74)
    || (0x80 ≤ op && op ≤ 0x8E) || (0xA0 ≤ op && op ≤ 0xAB) || (0xC0 ≤ op && op ≤ 0xC9)

/-- Why a word is no instruction. All of them trap ILLEGAL_OP (R36). -/
inductive DecodeError where
  /-- OP is unassigned (R36 case 1, R58). -/
  | unassignedOp
  /-- G is 24 to 30, or N = 1 with G = 31 (R36 case 8). -/
  | badGuard
  /-- FN is unassigned or an operand field holds a reserved code (R36 cases 2, 3 and 7). -/
  | badField
  /-- A field breaks the instruction's table (R36 cases 2 to 7 and 9). -/
  | notPermitted
deriving DecidableEq, Repr

/-- The instruction of a word, or why it is none (R36). -/
def decode (w : IWord) : Except DecodeError Instr :=
  let f := Fields.ofWord w
  if !opAssigned f.op then .error .unassignedOp
  else match f.ctl with
    | none => .error .badGuard
    | some c =>
      match parse f c with
      | none => .error .badField
      | some i => if i.wf && encode i == some w then .ok i else .error .notPermitted

/-- The word stored in twelve bytes, the lowest address first (R29). -/
def wordOfBytes (bs : List Byte) : IWord :=
  BitVec.ofNat 96 (bs.foldr (fun b n => b.toNat + 256 * n) 0)
/-- The twelve bytes of a word (R29). -/
def bytesOfWord (w : IWord) : List Byte := (List.range 12).map fun i => BitVec.ofNat 8 (w.toNat >>> (8 * i))

/-- The instruction in the first twelve bytes of a list, with the rest of the list. -/
def decodeBytes (bs : List Byte) : Except DecodeError (Instr × List Byte) :=
  if bs.length < 12 then .error .badField
  else (decode (wordOfBytes (bs.take 12))).map fun i => (i, bs.drop 12)

/-- The instruction the decoder reads from a word given as bits numbered from the least significant bit of its first byte;
bits above nbits are 0. -/
def decodeTableWord (nbits w : Nat) : Option Instr :=
  match decodeBytes (bytesOfWord (BitVec.ofNat 96 (w % 2 ^ nbits))) with
  | .ok (i, _) => some i
  | .error _ => none

end Sys2Proof
end

