-- ==== Sys2Proof/Config.lean ====
section
/-! DEFINITION. What one implementation fixes and the spec leaves open: the free values (opaque constants with no body, so
that nothing can be proved about the value) and the constants of the implementation that the model names. -/

namespace Sys2Proof.Config

/-- The free values (log entry 3). The first argument is State.draws, a plain counter that every step advances, the second
the place of the value within the step. Every value that the spec leaves open is this function applied to such a pair. -/
opaque freeNat : Nat → Nat → Nat

/-- A free choice between two outcomes that the spec both allows. -/
def freeBool (n site : Nat) : Bool := freeNat n site % 2 == 1

/-- The private key of the Ikienyon root (R399), generated at manufacture: a number that, modulo one less than the curve's order, is one less
than the key; the public key is computed from it. -/
opaque rootKey : Nat
/-- The numbers that the root draws for a signature (R404): of a digest, the count of the record, and the attempt. -/
opaque signNumber : Nat → Nat → Nat → Nat
/-- The private key that belongs to the debug key whose digest is fused (R415); the machine uses its public key alone. -/
opaque debugKey : Nat
/-- Pletrisal's certificate for the key (R399, R401), not given by the spec: its length, which L tells in four bytes, and its bytes. -/
opaque certBits : BitVec 32
def certLength : Nat := certBits.toNat
opaque certByte : Nat → Byte
/-- The package at the far end of a scale-up port (R417), not given by the spec. -/
opaque peer : Nat → Nat
/-- The image of a kind that is stored at the first reset (R402): its bytes as one number, and its length. -/
opaque factoryImage : Nat → Nat × Nat
/-- The security version number of an image and whether its signature verifies (R402): its bytes and its length. The form of an
image and the image key are not given. -/
opaque imageSvn : Nat → Nat → Nat
opaque imageVerifies : Nat → Nat → Bool
/-- The fused minimum version of each kind of image before any COMMIT_SVN (R402). -/
opaque fusedSvn : Nat → Nat
/-- The bytes, and their number, over which an attestation report digests the fused core map and the partition configuration (R405), whose layout
is not given: of both as one number. -/
opaque configBytes : Nat → Nat × Nat

end Sys2Proof.Config
end

