-- ==== Sys2Proof/Machine/SMap.lean ====
section
/-! DEFINITION. Sparse maps as lists of key and value with keys strictly rising, and the list helpers the state uses. -/

namespace Sys2Proof.Machine

/-- The entry of a key, if listed. -/
def mfind {α : Type} : List (Nat × α) → Nat → Option α
  | [], _ => none
  | (k, v) :: m, n => if k = n then some v else mfind m n
/-- The value of a key; d where the key is not listed. -/
def mget {α : Type} (d : α) (m : List (Nat × α)) (n : Nat) : α := (mfind m n).getD d
/-- The map without a key. -/
def merase {α : Type} (m : List (Nat × α)) (n : Nat) : List (Nat × α) := m.filter fun e => e.1 != n
/-- The map with a key set, in key order. -/
def minsert {α : Type} : List (Nat × α) → Nat → α → List (Nat × α)
  | [], n, x => [(n, x)]
  | (k, v) :: m, n, x => if k = n then (n, x) :: m else if n < k then (n, x) :: (k, v) :: m else (k, v) :: minsert m n x
/-- The map with a key set to a value; the default value is not listed. -/
def mset {α : Type} [DecidableEq α] (d : α) (m : List (Nat × α)) (n : Nat) (x : α) : List (Nat × α) :=
  if x = d then merase m n else minsert m n x
/-- The entry of a key replaced by a function of it, where listed. -/
def mmod {α : Type} (m : List (Nat × α)) (n : Nat) (f : α → α) : List (Nat × α) :=
  m.map fun e => if e.1 = n then (e.1, f e.2) else e
/-- The keys are strictly rising, all above the bound, and no value is the default. -/
def msortedFrom {α : Type} [DecidableEq α] (d : α) : Option Nat → List (Nat × α) → Bool
  | _, [] => true
  | b, (k, v) :: m => (match b with | none => true | some x => decide (x < k)) && !decide (v = d) && msortedFrom d (some k) m
/-- The canonical form of a sparse map. -/
def mwf {α : Type} [DecidableEq α] (d : α) (m : List (Nat × α)) : Bool := msortedFrom d none m

/-- A list with the element at an index replaced by a function of it. -/
def lmod {α : Type} (l : List α) (n : Nat) (f : α → α) : List α := l.mapIdx fun i a => if i = n then f a else a
/-- The element at an index, or d. -/
def lget {α : Type} (d : α) (l : List α) (n : Nat) : α := l.getD n d
/-- The lanes whose bits are set, in ascending order. -/
def lanesOf (m : BitVec 64) : List Nat := (List.range 64).filter fun i => m.toNat.testBit i
/-- The mask of a set of lanes. -/
def maskOf (ls : List Nat) : BitVec 64 := BitVec.ofNat 64 (ls.foldl (fun a i => a ||| (1 <<< i)) 0)

end Sys2Proof.Machine
end

