-- ==== Sys2Proof/Machine/Types.lean ====
section
/-! DEFINITION. The records that State is made of on the issuing side of the machine: threads, groups, outstanding
operations, copies, workgroups (spec/11_execution_model.md, spec/12_control_instructions.md, spec/14_migration.md,
spec/17_traps.md R449 to R450 for the list of what a workgroup holds). -/

namespace Sys2Proof.Machine

/-- Thread states (R284). -/
inductive TState where
  | ready | mwaiting (m : Nat) | jwaiting (m : Nat) | signwait (k : Nat) | away | exited
deriving DecidableEq, Repr

/-- Where a guest thread comes from (R348): its context, logical origin core, group and lane; and the launch and number of its workgroup,
which tell it from another workgroup of the context that is placed on that core while it is saved. -/
structure Origin where
  ctx : Nat
  core : Nat
  group : Nat
  lane : Nat
  launch : Nat := 0
  wg : Nat := 0
deriving DecidableEq, Repr

/-- A trap (R419, R423, R424), before it is delivered. -/
structure Trap where
  cause : Nat
  reason : Nat := 0
  info : Nat := 0
  /-- Lowest failing lane. -/
  lane : Option Nat := none
  addr : Nat := 0
  xpc : Nat := 0
  /-- Resume PC where it is not the trapping instruction's. -/
  pc : Option DWord := none
  /-- Lanes not performed, by slot; none where the rule names the lanes of H. -/
  unperf : Option (BitVec 64) := none
  defer : Bool := false
  /-- Logical core at which a trap carried home was raised (R355). -/
  guest : Option Nat := none
  /-- Data addresses by slot, for traps that guest threads carry home (R355). -/
  addrs : List (Nat × Nat) := []
deriving DecidableEq, Repr

/-- A thread (R38, R282, R284, R286, R309, R361). `slot` is its lane in its own group, its guest slot in a guest group. -/
structure Thread where
  slot : Nat
  lane : Nat
  pc : DWord
  st : TState := .ready
  wait : Nat := 0
  x : List (Nat × Word) := []
  p : BitVec 24 := 0
  rstack : List DWord := []
  live : BitVec 48 := 0
  /-- Registers carried by the last hop (R346, R354). -/
  carried : List Nat := []
  hop : Nat := 0
  origin : Option Origin := none
  /-- Logical core where an AWAY thread is (R450 CUR). -/
  cur : Nat := 0
  /-- In the handler set (R421). -/
  inH : Bool := false
  /-- Set by TRET, cleared at the next issue it takes part in (R428, R435). -/
  exempt : Bool := false
  /-- The thread reached its PC by a transfer of control whose TGT check is made at issue: the transferring PC (R32, R35). -/
  target : Option DWord := none
  /-- It reached its PC by a RET or a TRET, whose target is not checked at issue: its PC (R396). -/
  returned : Option DWord := none
  /-- Latched high halves of %cycle and %time (R24). -/
  cycHigh : Option Word := none
  timeHigh : Option Word := none
  /-- It has made an acquire at .cl or wider: its loads of global data are performed at the home (R210, R301). -/
  acquired : Bool := false
  /-- A guest that is to go home once its operations are over (R355, R358, R359): with the trap it carries, or as its core is handed
  over. -/
  bound : Option (Option Trap) := none
deriving DecidableEq, Repr

/-- When a recent write of a register is in place for its reader (R44 to R48): after a remaining distance, or when the
count c of operations posted to a token since (itself included) has been waited on. -/
inductive Until where
  | dist (n : Nat) | tok (t c : Nat)
deriving DecidableEq, Repr

/-- A register whose last write is not yet waited on (R47, R48): the old value once the new one is in the register, whether
another write was made meanwhile, and the operation that writes it, for a token class. Hazards whose old value is known stand in the
order in which the registers were written. -/
structure Hazard where
  slot : Nat
  code : Nat
  old : Option Word
  till : Until
  op : Option Nat := none
  clob : Bool := false
  /-- The issue that makes the write, one more than its free-value argument, and that of the last write made meanwhile; 0 before they are
  entered. One issue's writes of a pair are seen and left whole (R87, R232). -/
  born : Nat := 0
  rival : Nat := 0
  /-- The pair is MXPACK's: separate reads of its halves by one instruction agree (R87). -/
  mx : Bool := false
deriving DecidableEq, Repr

/-- A register write that an outstanding operation will make. -/
structure RegWrite where
  slot : Nat
  code : Nat
  v : Word
deriving DecidableEq, Repr

/-- How far the travel of a lane's access is (R344 to R352): it does not travel; it is to be judged after the drain; its slot
was asked for n times and the last request is out, or was answered at a tick; its pannier is in flight; it fell back. -/
inductive Trav where
  | no | due | asked (n : Nat) | again (n since : Nat) | gone | fell
deriving DecidableEq, Repr

/-- One lane's access of an outstanding operation. `va` is its address in its tier; `key` the place of its lowest byte where
translation gives one; `leaf` the page-table entry; `lc` the logical core of a window; `grp` the group of a private slice. -/
structure LaneOp where
  slot : Nat
  lane : Nat := 0
  tier : Tier := .glob
  va : Nat
  size : Nat := 4
  lc : Nat := 0
  grp : Nat := 0
  /-- The gang member that a cluster address names: its launch and number (R179). -/
  mate : Option (Nat × Nat) := none
  key : Option Nat := none
  leaf : Nat := 0
  /-- The page size of that entry (R380). -/
  psize : Nat := 2 ^ 16
  /-- Store data or RMW operand; the new value of a CAS. -/
  v : DWord := 0
  v2 : DWord := 0
  /-- Performed where the byte lives; before that a store may be in the core's L1, with its order there (R198, R233). -/
  done : Bool := false
  l1 : Option Nat := none
  /-- In the replay buffer (R249): missed at issue; the page of a long miss (R395); the refusal met (R252). -/
  miss : Bool := false
  long : Option Nat := none
  refused : Option (Nat × Nat) := none
  trav : Trav := .no
  /-- The access asked to travel: GO, or the TRAVEL bit of its page (R344). -/
  go : Bool := false
  /-- The numbers of the invalidations of the page it was translated by, since then: twice the count, and one more for a TLBI's (R390, R392). -/
  invals : List Nat := []
deriving DecidableEq, Repr

/-- What a tile write has read of a block (R152): its bytes, none outside the record, or an uncorrectable error. -/
inductive RawIn where
  | block (bs : List Byte) | outside | bad (cls : Nat)
deriving DecidableEq, Repr

/-- An operation a group has issued that is not complete (R46, R233): the instruction with its operands, the PC, the token
it is counted on (none where it is not counted), its lanes, the register writes already known, and its stage. -/
structure Op where
  id : Nat := 0
  i : Instr
  pc : DWord := 0
  tok : Option Nat := none
  lanes : List LaneOp := []
  writes : List RegWrite := []
  /-- Threads of the issue (the active lanes) and its head set. -/
  act : List Nat := []
  head : List Nat := []
  /-- The D bit of the instruction (R49). -/
  d : Bool := false
  /-- Stages of the operations that need several events: 0 issued. -/
  stage : Nat := 0
  /-- Operand words the operation keeps from issue (records, bases, lengths). -/
  args : List Nat := []
  /-- Cores whose promotion probe has not been answered (R204). -/
  probes : List Nat := []
  /-- Ticket number in ticket mode (R214). -/
  ticket : Option Nat := none
  /-- Context the operation belongs to. -/
  ctx : Nat := 0
  /-- Lowest lane that met poison, its class and address (R454). -/
  ue : Option (Nat × Nat × Nat) := none
  /-- Tandem (R467): the shadow's operation that takes this one's results (core, group, identifier); and whether this is such a
  shadow, which is not performed itself. -/
  twin : Option (Nat × Nat × Nat) := none
  shadow : Bool := false
  /-- Launch and workgroup number, kept for an operation whose workgroup has retired (R477). -/
  launch : Nat := 0
  wg : Nat := 0
  /-- Launches of the away threads that issued it and have left the core since (R334, R355). -/
  left : List Nat := []
  /-- Pages whose misses the control node answered with REFUSED (R395); the page of a long miss that an operation without lanes waits for
  as a load does (R329). -/
  host : List Nat := []
  longs : Option Nat := none
  /-- Its place in the order of the issues: their free-value argument (R450). -/
  issued : Nat := 0
  /-- The gang member whose queue a send names: its launch and number (R325). -/
  mate : Option (Nat × Nat) := none
  /-- The blocks that a tile write has read so far, in their order: it resumes at the next (R152, R395). -/
  blocks : List RawIn := []
deriving DecidableEq, Repr

/-- A mask register (R294). -/
structure Mask where
  members : BitVec 64 := 0
  arrived : BitVec 64 := 0
deriving DecidableEq, Repr

/-- The workgroup that holds a transaction barrier (R253): its logical core, launch and number. -/
structure Home where
  lc : Nat
  launch : Nat
  wg : Nat
deriving DecidableEq, Repr

/-- Why a group is parked (R288, R450). -/
inductive Park where
  /-- TWAIT (R297), with its PC and head set for R161 case 3. -/
  | twait (t k : Nat) (pc : DWord) (head : List Nat)
  | drain
  | replay
  /-- BWAIT (R259): the home, the offset, the phase, and whether it names a cluster barrier. -/
  | bwait (home : Home) (off phase : Nat) (cm : Bool)
  | bar (n : Nat)
  | cbar (n : Nat)
  /-- QRECV (R326): the operation, which keeps the queue offset. -/
  | qrecv (op : Nat)
  /-- The drain of a travelling access (R346): the operation's identifier. -/
  | travel (op : Nat)
  /-- A fetch that met a long miss (R395): its page. -/
  | fetch (page : Nat)
deriving DecidableEq, Repr

/-- Why an instruction is held at issue (R293): a full token (R46), the limits of an array (R144), a tile being written (R153), verdicts
that an accumulator instruction waits for (R164), a ninth unstarted copy (R262), a barrier's home that does not answer (R258), a short
miss of a fetch or of a copy's record (R265, R308, R395), what keeps that record from being read meanwhile, a range lock or a full table before a
preload (R266), a guest's exit whose group cannot take it now (R356), a commit point of a tandem copy (R467). -/
inductive Hold where
  | token (t : Nat) | array (qs : List Nat) (mma : Bool) | tile (qs : List Nat) (tile : Nat) | verdicts (qs : List Nat) (tile : Nat)
  | copies | answer (home : Home) | page (ctx page : Nat) | read (key : Nat) | lock (srcs : List (Nat × Nat × Nat)) | origin | commit
deriving DecidableEq, Repr

/-- A run (R290 to R293): the instructions issued in it, the head set of the last one, whether it is held at issue, and why. -/
structure Run where
  count : Nat := 0
  head : List Nat := []
  held : Bool := false
  why : Option Hold := none
deriving DecidableEq, Repr

/-- A group (R11, R282, R288, R450); the guest group of a core has the same form (R353). -/
structure Group where
  threads : List Thread := []
  s : List (Nat × Word) := []
  tok : List (Nat × Nat) := []
  masks : List (Nat × Mask) := []
  hazards : List Hazard := []
  park : Option Park := none
  /-- The instruction that parked the group carried D: the drain follows (R49). -/
  thenDrain : Bool := false
  ops : List Op := []
  nextOp : Nat := 0
  run : Option Run := none
  /-- Runs granted over its head while it was ready (R291). -/
  passed : Nat := 0
  /-- YIELD issued, in this quadrant: lowest class at its next grant after the run (R313). -/
  yielded : Option Nat := none
  /-- Its workgroup is being pre-empted: it keeps its wait and is granted no run while its operations end (R342). -/
  leaving : Bool := false
  /-- Handler state (R422). -/
  handler : Bool := false
  /-- Deferred traps that fall due at its next issue (R37). -/
  deferred : List Trap := []
  /-- Bulk copies issued since placement (R262). -/
  copyNo : Nat := 0
  /-- Debug-stopped, by the group that trapped (R436). -/
  dbgStop : Option Nat := none
  /-- The pending trap of the skid (R439). -/
  skidTrap : Option (Trap × DWord) := none
  /-- Registers that hold an uncorrectable error: slot and operand code (R456). -/
  ueRegs : List (Nat × Nat) := []
  /-- The page of a fetch that the control node answered with REFUSED (R395). -/
  hostPage : Option Nat := none
  /-- A precise trap of an issued operation for which a tandem copy waits for its twin (R467): its PC and handler set. -/
  trapDue : Option (Trap × DWord × List Nat) := none
deriving DecidableEq, Repr

/-- A segment of a slice that is being written, 8 bytes at a time (R217): the units written, their places and lengths, and the places among
them that received poison, with its class. -/
structure SegPart where
  seg : Nat
  units : List Nat := []
  places : List (Nat × Nat) := []
  bad : List (Nat × Nat) := []
deriving DecidableEq, Repr

/-- One slice of a bulk copy (R262, R264, R269). -/
structure Slice where
  group : Nat
  i : Instr
  tok : Option Nat
  pc : DWord
  /-- Active lanes; empty for an empty slice. -/
  act : List Nat
  /-- The register block as read at issue (R263). -/
  block : List Word
  /-- Source and destination start, tiers and length; for BCOPYM the local address and the record. -/
  src : Nat := 0
  dst : Nat := 0
  len : Nat := 0
  gone : Bool := false
  /-- BCOPYM: the record as read at the start (R265). -/
  rcd : Option Nat := none
  /-- Segments written, and those begun. -/
  written : List Nat := []
  parts : List SegPart := []
  /-- Bytes written to the destination (R269 DONE). -/
  done : Nat := 0
  /-- Bytes already landed on the barrier (R267). -/
  landed : Nat := 0
deriving DecidableEq, Repr

/-- A bulk copy of a workgroup (R262), or a preload's source transfer. `no` is a number of its own, kept wherever it goes (R219). -/
structure Copy where
  k : Nat
  no : Nat := 0
  bcopym : Bool := false
  scope : Scope := .dev
  /-- Barrier kind 0, 1 or 2; the barrier offset, once set, and who holds that barrier. -/
  bar : Nat := 0
  barOff : Option Nat := none
  home : Option Home := none
  slices : List Slice := []
  started : Bool := false
  code : Nat := 0
  errGroup : Nat := 0
  /-- The class of the first poison that it wrote (R269 POISON, R477 CLASS). -/
  poison : Option Nat := none
  fixup : Bool := false
  /-- Whose copy it is: context, logical core, launch and workgroup number (R477). -/
  ctx : Nat := 0
  lcore : Nat := 0
  launch : Nat := 0
  wg : Nat := 0
  /-- The number of the first workgroup of its gang (R17). -/
  base : Nat := 0
  /-- Fix-up list: (slice group, segment) in order of entry (R268). -/
  fix : List (Nat × Nat) := []
  /-- Tandem (R467): not performed here, its status comes from the twin's copy. -/
  shadow : Bool := false
  /-- Pages whose misses the control node answered with REFUSED (R395). -/
  host : List Nat := []
  /-- Detached from its barrier (R257, R260): slices still to come count nowhere either. -/
  detached : Bool := false
deriving DecidableEq, Repr

/-- A range-lock entry (R218, R266, R493): owner, tiers' source and destination ranges (tier code, start, length). -/
structure Lock where
  opc : Nat
  k : Nat
  srcs : List (Nat × Nat × Nat)
  dsts : List (Nat × Nat × Nat)
  ctx : Nat := 0
deriving DecidableEq, Repr

/-- A transaction barrier's word (R254); PEND in bytes. -/
structure Barrier where
  valid : Bool := true
  inv : Bool := false
  err : Bool := false
  ovf : Bool := false
  phase : Nat := 0
  left : Nat
  expect : Nat
  pend : Int := 0
  /-- Phases in which an arrival from another core, or bytes of a copy at .cl or wider, were counted: what a wait that ends with them acquires
  goes beyond its core (R203, R217). -/
  wide : List Nat := []
deriving DecidableEq, Repr

/-- A workgroup placed on a core (R12, R17, R282, R322, R332). -/
structure Workgroup where
  ctx : Nat
  launch : Nat
  /-- Linear number and coordinates (R335). -/
  wg : Nat := 0
  wx : Nat := 0
  wy : Nat := 0
  wz : Nat := 0
  threads : Nat
  /-- Registers and private bytes per thread. -/
  regs : Nat
  priv : Nat := 0
  carve : Nat := 0
  cls : Nat := 0
  /-- Index within the gang and gang size. -/
  gang : Nat := 0
  gangSize : Nat := 1
  /-- Logical core; %core, %cluster and %die follow from it (R14). -/
  lcore : Nat := 0
  groups : List Group := []
  /-- Arrival sets of BAR and CBAR: barrier number to the groups of this workgroup that have arrived (R322, R323). -/
  bars : List (Nat × List Nat) := []
  cbars : List (Nat × List Nat) := []
  copies : List Copy := []
  persistent : Bool := false
  restartable : Bool := false
  /-- Part of a multi-package launch: never pre-empted (R339). -/
  multi : Bool := false
  /-- Tandem pair: whether this is the second copy, and the other's logical core (R465). -/
  tandem : Option (Bool × Nat) := none
  /-- Frozen on a long miss (R251). -/
  frozen : Bool := false
  /-- Relocation request (R367), the reserved target's physical core (R369) and whether it is honoured (R370). -/
  reloc : Bool := false
  target : Option Nat := none
  honoured : Bool := false
  /-- Launch queue and entry, for the frame header (R448). -/
  queue : Nat := 0
  entry : Nat := 0
deriving DecidableEq, Repr

/-- A quadrant's arbitration (R291): the group that holds the issue slot, the last group granted in each class, and the tick
until which SLEEP holds the slot, with the group that issued it (R314). -/
structure Quadrant where
  holder : Option Nat := none
  last : List (Nat × Nat) := []
  sleep : Option (Nat × Nat) := none
deriving DecidableEq, Repr

/-- A write that has reached the home of a replicated chunk (R191): a lane's, a copy segment's, a travelling access's, a tandem copy's held
writes, a launch's counter increment. -/
inductive Writer where
  | lane (p gi op slot : Nat) | segment (p k group seg : Nat) | pannier (n : Nat) | held (p : Nat) | counter (launch : Nat)
deriving DecidableEq, Repr

/-- A held write of a tandem copy (R465, R466): tier code, context, address, place (none while a miss of it stands), width in bytes and data;
the instruction that made it, with its group, lane, slot, PC and operation. -/
structure Held where
  tier : Nat
  ctx : Nat
  va : Nat
  key : Option Nat
  leaf : Nat := 0
  psize : Nat := 2 ^ 16
  size : Nat
  v : Nat
  i : Instr
  group : Nat
  lane : Nat
  slot : Nat
  pc : DWord
  op : Nat
  /-- The numbers of the invalidations of the page it was translated by, since then (R390, R392). -/
  invals : List Nat := []
deriving DecidableEq, Repr

/-- A commit point at which a tandem copy waits (R467): group, PC, the operation with its active lanes' operands, the operation's own held
writes, and the tick from which it waits; ticks it has waited in earlier placements count (R468). -/
structure Commit where
  group : Nat
  pc : DWord
  what : List Nat
  writes : List Held := []
  since : Nat
  before : Nat := 0
deriving DecidableEq, Repr

/-- An L1 line (R198): the place of its first byte, the bytes as they were when it was filled, the virtual address and
context it was filled for (R187), and its granules that were poisoned then, which it does not hold. -/
structure Line where
  key : Nat
  data : List Byte
  va : Nat
  ctx : Nat
  bad : List Nat := []
deriving DecidableEq, Repr

/-- A TLB entry (R386): ASID, page base, page size, and the leaf. -/
structure TlbEntry where
  asid : Nat
  base : Nat
  size : Nat
  leaf : Nat
deriving DecidableEq, Repr

/-- A pannier in flight (R347 to R349). -/
structure Pannier where
  kind : Nat
  cause : Nat := 0
  origin : Origin
  hop : Nat
  live : BitVec 48
  addr : Nat := 0
  pc : DWord
  p : BitVec 24
  memb : Nat := 0
  regs : List (Nat × Word)
  /-- Destination logical core and, for a guest, the reserved slot. -/
  dest : Nat
  slot : Nat := 0
  /-- The group that issued the travelling access: its logical core, group index and operation. -/
  fromCore : Nat := 0
  fromGroup : Nat := 0
  op : Option Nat := none
  /-- The trap carried home (KIND 2). -/
  trap : Option Trap := none
  /-- The lane's access (KIND 1), with its own stages before and after it (R204, R213, R214), and what it has answered once it is performed. -/
  acc : Option Op := none
  got : Option (Option DWord) := none
  /-- The latched halves of R24, which belong to the thread. -/
  cycHigh : Option Word := none
  timeHigh : Option Word := none
deriving DecidableEq, Repr

end Sys2Proof.Machine
end

