-- ==== Sys2Proof/Machine/ArrayTypes.lean ====
section
/-! DEFINITION. The records of the charge-sharing arrays of a core (spec/05_array_engine.md R122 to R141,
spec/06_matrix_instructions.md R143 to R174). -/

namespace Sys2Proof.Machine

/-- A block as it resides in a tile (R81, R123, R126): tag, scale, exponent X, the 32 aligned integers, and its class. -/
structure ABlock where
  tag : Nat := 0x80
  scale : Nat := 0
  x : Int := 0
  a : List Int := []
  zero : Bool := true
  nan : Bool := false
  special : Bool := false
  /-- Group-aligned, in dense residence (R125). -/
  grouped : Bool := false
deriving DecidableEq, Repr

/-- Why a tile is faulted (R153): its format, a refused translation or lost lease, or an uncorrectable error of a class. -/
inductive TileFault where
  | format | refused | ue (cls : Nat)
deriving DecidableEq, Repr

/-- The width of a TW or SW code (R146). -/
def widthOf : Nat → Nat
  | 1 => 6
  | 2 => 5
  | _ => 8
/-- A tile of the directory (R122, R123): its blocks (block (k, n) at 4n + k), whether it is being written, its fault. -/
structure Tile where
  base : Nat
  width : Nat
  dense : Bool
  blocks : List ABlock := []
  writing : Bool := true
  fault : Option TileFault := none
deriving DecidableEq, Repr

/-- A sub-array (R122 to R124, R139, R175). The trigger of the reset is held where the sub-array is in storage mode, so calibration is
due until the first one (R139; log entry 4). -/
structure SubArray where
  mul : Bool := false
  tiles : List Tile := []
  calDue : Bool := true
  samples : Nat := 0
  calTemp : Int := 0
  spares : Nat := 4
deriving DecidableEq, Repr

/-- A captured block of B (R156): header, none where its header lane does not supply; 32 element codes. -/
structure BBlock where
  hdr : Option Nat := none
  codes : List Nat := []
deriving DecidableEq, Repr

/-- What a lane supplied at its signature (R156): group, lane, element words of each block, its header. -/
structure Capture where
  group : Nat
  lane : Nat
  words : List Word
  hdr : Nat
deriving DecidableEq, Repr

/-- The fields of an MMA that its signers share (R157). -/
structure MmaRec where
  shape : Shape
  rep : Nat
  dense : Bool
  sw : Nat
  qmask : Nat
  kreg : Nat
  acc : Nat
  base : Nat
  /-- The first signer's instruction and PC. -/
  instr : Instr
  pc : DWord
deriving DecidableEq, Repr

/-- A convergence register (R155, R157): the groups of the quarters, declared and signed threads (group, lane), the record,
the captured lanes, and the operations of the signing groups (group, identifier). -/
structure KReg where
  groups : List (Option Nat) := []
  declared : List (Nat × Nat) := []
  signed : List (Nat × Nat) := []
  record : Option MmaRec := none
  caps : List Capture := []
  refs : List (Nat × Nat) := []
  /-- The groups that have signed, each with its T (R494). -/
  signs : List (Nat × Nat) := []
deriving DecidableEq, Repr

/-- An issued MMA (R158): its record, the captured B as blocks (row m, block k at 4 · nb · m + k), the operations it counts
on, its context, and the injection it takes (R174). -/
structure Job where
  rcd : MmaRec
  b : List BBlock
  refs : List (Nat × Nat)
  /-- The signing groups, each with its T (R494). -/
  signs : List (Nat × Nat) := []
  ctx : Nat
  inj : Option Word := none
  /-- The tiles it reads, by sub-array: no later write changes what it reads (R143). A tile that is being written at an issue by an exit is
  entered when the write ends (R157, R158). -/
  tiles : List (Nat × Tile) := []
deriving DecidableEq, Repr

/-- An operation in array order (R143): what it is, the group operation it counts down. -/
inductive AKind where
  | mode (mul : Bool)
  | cal
  | write (q base width : Nat)
  | ard (q base : Nat)
  | mma (j : Job)
  | mzero (acc : Nat)
  /-- MDRAIN or MACC: its elements are read at its issue (R164, R165). -/
  | drain
deriving DecidableEq, Repr
structure AOp where
  kind : AKind
  qmask : Nat
  group : Nat := 0
  op : Nat := 0
deriving DecidableEq, Repr

/-- What one sub-array converted in a pass (R129, R134): block integers in 1/16 counts by row m, column n, block k (at
(128 m + n) 4 + k, or 128 m + n where the group was converted whole); the high and low parts of the checksum-row results by (n, k) likewise. -/
structure Stage where
  q : Nat
  /-- The pass was in dense mode. -/
  dense : Bool
  d : List (Option Int)
  d17 : List (Option (Int × Int))
  /-- The staging tile met an uncorrectable error: its contribution fails its checks and is never single (R457). -/
  bad : Bool := false
deriving DecidableEq, Repr

/-- An unresolved failure (R136, R137, R160): the MMA with its staging contents, and the located element when single:
sub-array, block, row, column, deficit. -/
structure Fail where
  job : Job
  stages : List Stage
  single : Option (Nat × Nat × Nat × Nat × Int) := none
  /-- A running MRETRY: its repeat code and the operation it counts down. -/
  retry : Option (Nat × Nat × Nat) := none
deriving DecidableEq, Repr

/-- The array engine of a core. -/
structure ArrayCore where
  subs : List SubArray := [{}, {}, {}, {}]
  /-- Operations issued and not finished, in array order (R143, R144). -/
  ops : List AOp := []
  kregs : List (Nat × KReg) := []
  fails : List Fail := []
  /-- Accumulator elements by (8 q + a) 2048 + 128 m + n (R159, R164), and the tiles marked POISONED (R457). -/
  acc : List (Nat × Nat) := []
  poisoned : List Nat := []
  /-- Tiles marked TORN at a halt (R440). -/
  torn : List Nat := []
  /-- CKSTAT.SEEN and FALLBACK, CKINJ (R173, R174). -/
  seen : Nat := 0
  fallback : Nat := 0
  ckinj : Word := 0
deriving DecidableEq, Repr

/-- Sub-array q. -/
def ArrayCore.sub (a : ArrayCore) (q : Nat) : SubArray := lget {} a.subs q
def ArrayCore.modSub (a : ArrayCore) (q : Nat) (f : SubArray → SubArray) : ArrayCore := { a with subs := lmod a.subs q f }

/-- Whether an operation names a sub-array. -/
def AOp.names (o : AOp) (q : Nat) : Bool := o.qmask.testBit q

/-- The AMODEs issued and not finished on a sub-array, oldest first. -/
def ArrayCore.pendingModes (a : ArrayCore) (q : Nat) : List Bool :=
  a.ops.filterMap fun o => match o.kind with | .mode m => if o.names q then some m else none | _ => none
/-- The ordered mode of a sub-array (R144): whether it is multiply mode. -/
def ArrayCore.orderedMul (a : ArrayCore) (q : Nat) : Bool := ((a.pendingModes q).getLast?).getD (a.sub q).mul

/-- What an access to a sub-array's window meets at its issue (R150). An AMODE.sto that waits on a sub-array already in storage mode clears
nothing, and the access is ordinary (log entry 103). -/
inductive Window where
  | ordinary | free | busy
deriving DecidableEq, Repr
def ArrayCore.window (a : ArrayCore) (q : Nat) : Window :=
  if (a.sub q).mul then .busy else if (a.pendingModes q).contains true then .free else .ordinary

/-- The unresolved failure that a sub-array belongs to (R160). -/
def ArrayCore.failOn (a : ArrayCore) (q : Nat) : Option Fail := a.fails.find? fun f => f.job.rcd.qmask.testBit q
/-- The unfinished operations and MMAs of a sub-array (R144). -/
def ArrayCore.opsOn (a : ArrayCore) (q : Nat) : List AOp := a.ops.filter (·.names q)
def AOp.isDrain (o : AOp) : Bool := match o.kind with | .drain => true | _ => false
def AOp.isMma (o : AOp) : Bool := match o.kind with | .mma _ => true | _ => false
def ArrayCore.mmasOn (a : ArrayCore) (q : Nat) : Nat := ((a.opsOn q).filter (·.isMma)).length
/-- Whether an operation is held behind a failure (R160); drains of tiles that no failed or held MMA writes go on (R161). -/
def ArrayCore.heldOp (a : ArrayCore) (o : AOp) : Bool := !o.isDrain && (List.range 4).any fun q => o.names q && (a.failOn q).isSome
/-- Held MMAs of a failure (R166), or of one sub-array (R173). -/
def ArrayCore.heldOf (a : ArrayCore) (qmask : Nat) : Nat :=
  (a.ops.filter fun o => o.isMma && (List.range 4).any fun q => o.names q && qmask.testBit q).length
/-- The operations that stand behind a failure in array order, directly or behind another such operation (R160, R161), with the failure. -/
def ArrayCore.behind (a : ArrayCore) : List (AOp × Fail) :=
  a.ops.foldl (fun acc o =>
    if o.isDrain then acc
    else match ((List.range 4).findSome? fun q => if o.names q then (a.failOn q).orElse fun _ => (acc.find? (·.1.names q)).map (·.2) else none) with
      | some f => acc ++ [(o, f)]
      | none => acc) []
/-- Whether an operation is the first of the sub-array's array order. -/
def ArrayCore.firstOn (a : ArrayCore) (q : Nat) (o : AOp) : Bool := (a.ops.find? (·.names q)) == some o
/-- Whether an operation is first on every sub-array that it still names, and held on none. -/
def ArrayCore.canRun (a : ArrayCore) (o : AOp) : Bool :=
  (List.range 4).all fun q => !o.names q || (a.firstOn q o && (a.failOn q).isNone)
def ArrayCore.dropOp (a : ArrayCore) (o : AOp) : ArrayCore := { a with ops := a.ops.erase o }
/-- The tile based at b of a sub-array. -/
def SubArray.tile? (x : SubArray) (b : Nat) : Option Tile := x.tiles.find? (·.base == b)

end Sys2Proof.Machine
end

