-- ==== Sys2Proof/Machine/Flags.lean ====
section
/-! DEFINITION. Number formats, rounding, comparisons and NaN rules (spec/03_number_formats.md). The device keeps no status
flags (R72): what other machines put into flags is here the value of a comparison or of a rounding. -/

namespace Sys2Proof.Machine

/-! Integers (R66, R67). -/

/-- Width of an integer or raw type. -/
def tyWidth : Ty → Nat
  | .i8 | .n8 | .e4m3 | .e5m2 => 8
  | .i16 | .n16 | .f16 | .bf16 => 16
  | .i32 | .n32 | .b32 | .f32 => 32
  | .i64 | .n64 | .b64 => 64
def tySigned : Ty → Bool
  | .i8 | .i16 | .i32 | .i64 => true
  | _ => false
/-- The w low bits of a number as a signed value. -/
def signedOf (w n : Nat) : Int := let v := n % 2 ^ w; if 2 * v < 2 ^ w then v else (v : Int) - 2 ^ w
/-- A register value read as an integer of a type (R66, R88). -/
def intOf (ty : Ty) (v : DWord) : Int :=
  if tySigned ty then signedOf (tyWidth ty) v.toNat else ((v.toNat % 2 ^ tyWidth ty : Nat) : Int)
/-- The ends of a type's range (R66). -/
def tyMin (ty : Ty) : Int := if tySigned ty then -2 ^ (tyWidth ty - 1) else 0
def tyMax (ty : Ty) : Int := if tySigned ty then 2 ^ (tyWidth ty - 1) - 1 else 2 ^ tyWidth ty - 1
/-- Wrap (R67): the residue modulo 2^w. -/
def wrap (w : Nat) (v : Int) : Nat := (v % (2 ^ w : Int)).toNat
/-- Clamp (R67). -/
def clamp (lo hi v : Int) : Int := if v < lo then lo else if hi < v then hi else v
/-- Fit (R93): the value as the type holds it. -/
def fit (ty : Ty) (sat : Bool) (v : Int) : Int :=
  if sat then clamp (tyMin ty) (tyMax ty) v
  else if tySigned ty then signedOf (tyWidth ty) (wrap (tyWidth ty) v) else (wrap (tyWidth ty) v : Int)
/-- Write's extension of an integer result: to 32 bits, or to the pair (R66, R88). -/
def regOf (ty : Ty) (v : Int) : DWord :=
  BitVec.ofNat 64 (wrap (if tyWidth ty = 64 then 64 else 32) v)

/-- Integer relations (R98). -/
def relHolds (r : Rel) (a b : Int) : Bool :=
  match r with
  | .eq => a == b
  | .ne => a != b
  | .lt => a < b
  | .le => a ≤ b
  | .gt => b < a
  | .ge => b ≤ a

/-! Floating-point formats (R69). -/

/-- A format: exponent and fraction widths, bias, the code of the largest finite magnitude, whether it has infinities, and
whether it has NaNs. -/
structure Fmt where
  e : Nat
  f : Nat
  bias : Nat
  max : Nat
  inf : Bool
  nan : Bool
deriving DecidableEq, Repr

def fp32 : Fmt := ⟨8, 23, 127, 0x7F7FFFFF, true, true⟩
def fp16 : Fmt := ⟨5, 10, 15, 0x7BFF, true, true⟩
def fbf16 : Fmt := ⟨8, 7, 127, 0x7F7F, true, true⟩
def fe5m2 : Fmt := ⟨5, 2, 15, 0x7B, true, true⟩
def fe4m3 : Fmt := ⟨4, 3, 7, 0x7E, false, true⟩
def fe3m2 : Fmt := ⟨3, 2, 3, 0x1F, false, false⟩
def fe2m3 : Fmt := ⟨2, 3, 1, 0x1F, false, false⟩
def fe2m1 : Fmt := ⟨2, 1, 1, 0x7, false, false⟩

/-- The format of a type code. -/
def fmtOf : Ty → Fmt
  | .f16 => fp16
  | .bf16 => fbf16
  | .e4m3 => fe4m3
  | .e5m2 => fe5m2
  | _ => fp32

def Fmt.width (m : Fmt) : Nat := 1 + m.e + m.f
def Fmt.sign (m : Fmt) (c : Nat) : Bool := bit c (m.e + m.f)
def Fmt.signBit (m : Fmt) (s : Bool) : Nat := b2n s * 2 ^ (m.e + m.f)
/-- The magnitude bits of a code. -/
def Fmt.mag (m : Fmt) (c : Nat) : Nat := c % 2 ^ (m.e + m.f)
/-- The code of infinity's magnitude: exponent all ones. -/
def Fmt.infMag (m : Fmt) : Nat := (2 ^ m.e - 1) * 2 ^ m.f
/-- The canonical NaN (R73). -/
def Fmt.canon (m : Fmt) : Nat := if m.inf then m.infMag + 2 ^ (m.f - 1) else 0x7F
def Fmt.isInf (m : Fmt) (c : Nat) : Bool := m.inf && m.mag c == m.infMag
def Fmt.isNan (m : Fmt) (c : Nat) : Bool := m.nan && decide (if m.inf then m.infMag < m.mag c else m.mag c = 0x7F)
/-- A NaN made quiet (R74); E4M3's NaN is quiet (R73). -/
def Fmt.quiet (m : Fmt) (c : Nat) : Nat := if m.inf then c ||| 2 ^ (m.f - 1) else c
def Fmt.isQuiet (m : Fmt) (c : Nat) : Bool := !m.inf || bit c (m.f - 1)
def Fmt.isZero (m : Fmt) (c : Nat) : Bool := m.mag c == 0
def Fmt.isSub (m : Fmt) (c : Nat) : Bool := m.mag c != 0 && decide (m.mag c < 2 ^ m.f)
/-- Significand and exponent of a finite code: its magnitude is the significand times two to the exponent. -/
def Fmt.sig (m : Fmt) (c : Nat) : Nat := let g := m.mag c; if g < 2 ^ m.f then g else 2 ^ m.f + g % 2 ^ m.f
def Fmt.exp (m : Fmt) (c : Nat) : Int :=
  let x := m.mag c / 2 ^ m.f
  (if x = 0 then 1 else (x : Int)) - m.bias - m.f
/-- The zero of a sign. -/
def Fmt.zero (m : Fmt) (s : Bool) : Nat := m.signBit s
def Fmt.infinity (m : Fmt) (s : Bool) : Nat := m.signBit s + (if m.inf then m.infMag else 0x7F)
def Fmt.maxf (m : Fmt) (s : Bool) : Nat := m.signBit s + m.max

/-- Poison encodings (R75). -/
def isPoison (ty : Ty) (c : Nat) : Bool :=
  match ty with
  | .f32 => bits c 30 8 == 0x7FE000
  | .f16 => bits c 14 8 == 0x7F
  | .bf16 => bits c 14 0 == 0x7FE0
  | _ => false
/-- The poison NaN of a class in FP32 (R75). -/
def poisonWord (cls : Nat) : Word := BitVec.ofNat 32 (0x7FE00000 + cls % 256)

/-- A real number of the form ± m · 2^e. -/
structure Dy where
  s : Bool
  m : Nat
  e : Int
deriving DecidableEq, Repr

/-- m · 2^e with e made the exponent `t` or below. -/
def Dy.at (d : Dy) (t : Int) : Int :=
  let n : Int := (d.m : Int) * 2 ^ (d.e - t).toNat
  if d.s then -n else n
/-- Exact sum; an exact zero has the sign of `z`. -/
def Dy.add (a b : Dy) (z : Bool) : Dy :=
  let t := if a.e < b.e then a.e else b.e
  let v := a.at t + b.at t
  if v = 0 then ⟨if a.m = 0 && b.m = 0 && a.s == b.s then a.s else z, 0, t⟩ else ⟨decide (v < 0), v.natAbs, t⟩
/-- Exact product. -/
def Dy.mul (a b : Dy) : Dy := ⟨a.s != b.s, a.m * b.m, a.e + b.e⟩
/-- The value of a finite code. -/
def Fmt.dy (m : Fmt) (c : Nat) : Dy := ⟨m.sign c, m.sig c, m.exp c⟩

/-- The magnitude of a quotient rounded to an integer: `n` units with remainder compared as R77 rounds it. -/
def roundUnits (rnd : Rnd) (s : Bool) (n : Nat) (sh : Nat) : Nat :=
  let lo := n >>> sh
  let r := n % 2 ^ sh
  if r = 0 then lo
  else match rnd with
    | .rz => lo
    | .rdn => if s then lo + 1 else lo
    | .rup => if s then lo else lo + 1
    | .rne => if 2 * r < 2 ^ sh then lo else if 2 ^ sh < 2 * r then lo + 1 else lo + lo % 2

/-- OverflowValue (R77). -/
def Fmt.overflow (m : Fmt) (rnd : Rnd) (s : Bool) : Nat :=
  if !m.nan then m.maxf s
  else match rnd with
    | .rne => m.infinity s
    | .rz => m.maxf s
    | .rdn => if s then m.infinity s else m.maxf s
    | .rup => if s then m.maxf s else m.infinity s

/-- RoundToFormat (R77) of a value whose zero carries its sign (464 into E4M3: log entry 78). -/
def Fmt.round (m : Fmt) (rnd : Rnd) (sat : Bool) (v : Dy) : Nat :=
  if v.m = 0 then m.zero v.s
  else
    let top : Int := (Nat.log2 v.m : Int) + v.e
    let ex : Int := if top < 1 - (m.bias : Int) then 1 - (m.bias : Int) else top
    let q := ex - m.f
    let u := if q ≤ v.e then v.m <<< (v.e - q).toNat else roundUnits rnd v.s v.m (q - v.e).toNat
    -- u · 2^q: with ex = 1 - bias the code is u itself, above it each exponent step adds 2^f.
    let code := u + 2 ^ m.f * (ex - (1 - (m.bias : Int))).toNat
    if code ≤ m.max then m.signBit v.s + code
    else if sat then m.maxf v.s else m.overflow rnd v.s

/-- The sign of an exact zero sum (R70). -/
def zeroSign (rnd : Rnd) : Bool := rnd == .rdn

/-- .ftz on an input or a result (R71): FP32, FP16 and BF16 subnormals become zero of their sign. -/
def flush (ftz : Bool) (ty : Ty) (c : Nat) : Nat :=
  let m := fmtOf ty
  if ftz && m.isSub c && (ty == .f32 || ty == .f16 || ty == .bf16) then m.zero (m.sign c) else c

/-- RoundToFormat then .ftz of the result. -/
def roundFtz (ty : Ty) (rnd : Rnd) (sat ftz : Bool) (v : Dy) : Nat := flush ftz ty ((fmtOf ty).round rnd sat v)

/-- An infinite result: clamped under .sat (R78). -/
def Fmt.infSat (m : Fmt) (sat s : Bool) : Nat := if sat then m.maxf s else m.infinity s

/-- The first NaN of a list of operands, quiet (R74). -/
def firstNan (m : Fmt) (cs : List Nat) : Option Nat := (cs.find? m.isNan).map m.quiet

/-- a + b (R103). -/
def fAdd (ty : Ty) (rnd : Rnd) (sat ftz : Bool) (a b : Nat) : Nat :=
  let m := fmtOf ty
  match firstNan m [a, b] with
  | some n => n
  | none =>
    let a := flush ftz ty a; let b := flush ftz ty b
    match m.isInf a, m.isInf b with
    | true, true => if m.sign a == m.sign b then m.infSat sat (m.sign a) else m.canon
    | true, false => m.infSat sat (m.sign a)
    | false, true => m.infSat sat (m.sign b)
    | false, false => roundFtz ty rnd sat ftz ((m.dy a).add (m.dy b) (zeroSign rnd))
/-- A code with its sign inverted, a NaN kept (R103 FSUB). -/
def fNeg (ty : Ty) (a : Nat) : Nat :=
  let m := fmtOf ty
  if m.isNan a then a else m.mag a + m.signBit (!m.sign a)
/-- a × b (R103). -/
def fMul (ty : Ty) (rnd : Rnd) (sat ftz : Bool) (a b : Nat) : Nat :=
  let m := fmtOf ty
  match firstNan m [a, b] with
  | some n => n
  | none =>
    let a := flush ftz ty a; let b := flush ftz ty b
    let s := m.sign a != m.sign b
    if m.isInf a || m.isInf b then
      if m.isZero a || m.isZero b then m.canon else m.infSat sat s
    else roundFtz ty rnd sat ftz ((m.dy a).mul (m.dy b))
/-- a × b + c rounded once (R103, R85). -/
def fFma (ty : Ty) (rnd : Rnd) (sat ftz : Bool) (a b c : Nat) : Nat :=
  let m := fmtOf ty
  match firstNan m [a, b] with
  | some n => n
  | none =>
    let a := flush ftz ty a; let b := flush ftz ty b
    let bad := (m.isInf a && m.isZero b) || (m.isZero a && m.isInf b)
    -- R103: in FMA 0 × ∞ comes before a NaN c; in HFMA2 the NaN is returned by R74 (R113).
    if bad && (ty == .f32 || !m.isNan c) then m.canon
    else match firstNan m [c] with
    | some n => n
    | none =>
      let c := flush ftz ty c
      let s := m.sign a != m.sign b
      if m.isInf a || m.isInf b then
        if m.isInf c && m.sign c != s then m.canon else m.infSat sat s
      else if m.isInf c then m.infSat sat (m.sign c)
      else roundFtz ty rnd sat ftz (((m.dy a).mul (m.dy b)).add (m.dy c) (zeroSign rnd))

/-- Order of two codes that are not NaN, −0 below +0 (R104). -/
def fKey (m : Fmt) (c : Nat) : Int := if m.sign c then -(m.mag c : Int) - 1 else m.mag c
/-- FMIN and FMAX (R104). -/
def fMinMax (ty : Ty) (mx : Bool) (a b : Nat) : Nat :=
  let m := fmtOf ty
  if isPoison ty a then a
  else if isPoison ty b then b
  else match m.isNan a, m.isNan b with
    | true, true => m.quiet a
    | true, false => b
    | false, true => a
    | false, false => if (fKey m a < fKey m b) != mx then a else b
/-- FCMP (R105). -/
def fRel (r : FRel) (a b : Nat) : Bool :=
  let m := fp32
  let un := m.isNan a || m.isNan b
  let k (c : Nat) : Int := if m.sign c then -(m.mag c : Int) else m.mag c
  match r with
  | .ord => !un
  | .unord => un
  | .ne => un || k a != k b
  | .eq => !un && k a == k b
  | .lt => !un && decide (k a < k b)
  | .le => !un && decide (k a ≤ k b)
  | .gt => !un && decide (k b < k a)
  | .ge => !un && decide (k b ≤ k a)

/-- RoundToInteger (R111) of a finite value. -/
def roundInt (rnd : Rnd) (v : Dy) : Int :=
  let n := if 0 ≤ v.e then v.m <<< v.e.toNat else roundUnits rnd v.s v.m (-v.e).toNat
  if v.s then -(n : Int) else n

/-- FRND (R106). -/
def fRnd (rnd : Rnd) (ftz : Bool) (a : Nat) : Nat :=
  let m := fp32
  if m.isNan a then m.quiet a
  else
    let a := flush ftz .f32 a
    if m.isInf a || m.isZero a then a
    else let n := (roundInt rnd (m.dy a)).natAbs
      flush ftz .f32 (m.round .rz false ⟨m.sign a, n, 0⟩)
/-- FSCALE (R106): a × 2^k. -/
def fScale (rnd : Rnd) (sat ftz : Bool) (a : Nat) (k : Int) : Nat :=
  let m := fp32
  if m.isNan a then m.quiet a
  else
    let a := flush ftz .f32 a
    if m.isInf a then m.infSat sat (m.sign a)
    else if m.isZero a then a
    else
      -- Beyond these exponents the result no longer depends on k.
      let k := clamp (-600) 600 k
      let d := m.dy a
      roundFtz .f32 rnd sat ftz { d with e := d.e + k }
/-- FCLASS (R107). -/
def fClass (ty : Ty) (a : Nat) : Nat :=
  let m := fmtOf ty
  let s := m.sign a
  if m.isNan a then (if isPoison ty a then 2 ^ 10 + 2 ^ 9 else if m.isQuiet a then 2 ^ 9 else 2 ^ 8)
  else if m.isInf a then (if s then 1 else 2 ^ 7)
  else if m.isZero a then (if s then 2 ^ 3 else 2 ^ 4)
  else if m.isSub a then (if s then 2 ^ 2 else 2 ^ 5)
  else (if s then 2 else 2 ^ 6)

/-- A NaN converted between formats (R76). -/
def nanConvert (src dst : Ty) (a : Nat) : Nat :=
  let ms := fmtOf src
  let md := fmtOf dst
  let sg := md.signBit (ms.sign a)
  let frac := a % 2 ^ ms.f
  if isPoison src a then
    match src, dst with
    | .f32, .f16 => sg + 0x7F00 + a % 256
    | .f16, .f32 => sg + 0x7FE00000 + a % 256
    | .f32, .bf16 => sg + 0x7FE0
    | .bf16, .f32 => sg + 0x7FE00000
    | .f16, .bf16 => sg + 0x7FE0
    | .bf16, .f16 => sg + 0x7F00
    | _, .e4m3 => sg + 0x7F
    | _, _ => sg + 0x7E + b2n (bit frac (ms.f - 2))
  else match dst with
    | .e4m3 => sg + 0x7F
    | .e5m2 => sg + 0x7E + b2n (bit frac (ms.f - 2))
    | _ =>
      let fr := if md.f < ms.f then frac >>> (ms.f - md.f) else frac <<< (md.f - ms.f)
      let fr := fr ||| 2 ^ (md.f - 1)
      let c := sg + md.infMag + fr
      match dst with
      | .f16 => if md.f < ms.f || isPoison .f16 c then c - (if bit c 8 then 2 ^ 8 else 0) else c
      | .bf16 => if isPoison .bf16 c then c + 1 else c
      | _ => if isPoison .f32 c then c + 2 ^ 8 else c

/-- CVT (R110). -/
def fCvt (src dst : Ty) (rnd : Rnd) (sat ftz : Bool) (a : Nat) : Nat :=
  let ms := fmtOf src
  let md := fmtOf dst
  if ms.isNan a then nanConvert src dst a
  else if ms.isInf a then md.infSat sat (ms.sign a)
  else roundFtz dst rnd sat ftz (ms.dy (flush ftz src a))
/-- CVTI (R111). -/
def fToInt (src dst : Ty) (rnd : Rnd) (ftz : Bool) (a : Nat) : Int :=
  let ms := fmtOf src
  if ms.isNan a then 0
  else if ms.isInf a then (if ms.sign a then tyMin dst else tyMax dst)
  else clamp (tyMin dst) (tyMax dst) (roundInt rnd (ms.dy (flush ftz src a)))
/-- CVTF (R112). -/
def intToF (dst : Ty) (rnd : Rnd) (sat : Bool) (v : Int) : Nat :=
  (fmtOf dst).round rnd sat ⟨decide (v < 0), v.natAbs, 0⟩

/-- A sum of products and an addend by IEEE rules when an infinity is present (R82, R114): the infinities met. -/
def infSum (m : Fmt) (terms : List (Option Bool)) (bad : Bool) : Nat :=
  if bad || (terms.contains (some true) && terms.contains (some false)) then m.canon
  else m.infinity (terms.contains (some true))

/-- DOT4.e4m3 and DOT4.e5m2 (R114). -/
def fDot4 (ty : Ty) (rnd : Rnd) (sat : Bool) (a b c : Nat) : Nat :=
  let m := fmtOf ty
  let el (v i : Nat) : Nat := v >>> (8 * i) % 256
  let ps := (List.range 4).map fun i => (el a i, el b i)
  if ps.any fun p => m.isNan p.1 || m.isNan p.2 then fp32.canon
  else if fp32.isNan c then fp32.quiet c
  else if fp32.isInf c || ps.any fun p => m.isInf p.1 || m.isInf p.2 then
    let bad := ps.any fun p => (m.isInf p.1 && m.isZero p.2) || (m.isZero p.1 && m.isInf p.2)
    let ts := (ps.map fun p => if m.isInf p.1 || m.isInf p.2 then some (m.sign p.1 != m.sign p.2) else none)
      ++ [if fp32.isInf c then some (fp32.sign c) else none]
    let r := infSum fp32 ts bad
    if sat && fp32.isInf r then fp32.maxf (fp32.sign r) else r
  else
    let d := ps.map fun p => (m.dy p.1).mul (m.dy p.2)
    let v := d.foldl (fun s t => s.add t (zeroSign rnd)) (fp32.dy c)
    -- R114: an exact zero is −0 when every product and c are −0, or under .rdn; otherwise +0.
    let z := (d.all fun t => t.m == 0 && t.s) && fp32.isZero c && fp32.sign c
    let v := if v.m = 0 then { v with s := z || zeroSign rnd } else v
    fp32.round rnd sat v

/-! Tagged blocks (R79, R80). -/

/-- Element formats of a tag; none for INT8. -/
def tagFmt : Nat → Option Fmt
  | 0 => some fe4m3
  | 1 => some fe5m2
  | 2 => some fe3m2
  | 3 => some fe2m3
  | 4 => some fe2m1
  | _ => none
/-- Element width b, smallest slot and aligned width W of a tag (R80). -/
def tagBits : Nat → Nat
  | 2 | 3 => 6
  | 4 => 4
  | _ => 8
def tagSlot : Nat → Nat
  | 2 | 3 => 26
  | 4 | 0x80 => 18
  | _ => 34
def tagWidth : Nat → Nat
  | 2 | 3 => 6
  | 4 => 5
  | _ => 8
/-- A TAG of R80. -/
def tagKnown (t : Nat) : Bool := t < 6 || t == 0x80

/-- MXUNPK of one element (R116; under .sat an infinity becomes the largest finite value, R78, log entry 77); none where the tag is unknown. -/
def mxUnpack (rnd : Rnd) (sat : Bool) (code hdr : Nat) : Option Nat :=
  let tag := hdr % 256
  let sc := hdr / 256 % 256
  if tag = 0x80 then some 0
  else if !tagKnown tag then none
  else if sc = 0xFF then some fp32.canon
  else
    let shift : Int := (sc : Int) - 127
    match tagFmt tag with
    | none =>
      let i := signedOf 8 code
      some (fp32.round rnd sat ⟨decide (i < 0), i.natAbs, shift - 6⟩)
    | some m =>
      let c := code % 2 ^ tagBits tag
      let ty := if tag = 0 then Ty.e4m3 else .e5m2
      if m.isNan c then some (nanConvert ty .f32 c)
      else if m.isInf c then some (fp32.infSat sat (m.sign c))
      else let d := m.dy c
        some (fp32.round rnd sat { d with e := d.e + shift })

/-- EmaxElem (R115). -/
def emaxElem : Nat → Int
  | 0 => 8
  | 1 => 15
  | 2 => 4
  | 3 => 2
  | 4 => 2
  | _ => 0
/-- MXPACK of a block of FP32 values (R115): header and the element codes. -/
def mxPack (tag : Nat) (rnd : Rnd) (sat : Bool) (xs : List Nat) : Nat × List Nat :=
  if xs.any fun x => fp32.isNan x || fp32.isInf x then (tag + 256 * 0xFF, xs.map fun _ => 0)
  else if xs.all fp32.isZero then (0x80, xs.map fun _ => 0)
  else
    let mx := xs.foldl (fun a x => max a (fp32.mag x)) 0
    let X : Int := (Nat.log2 (fp32.sig mx) : Int) + fp32.exp mx - emaxElem tag
    let X := if X < -127 then -127 else X
    let code (x : Nat) : Nat :=
      let d := fp32.dy x
      match tagFmt tag with
      | none => wrap 8 (clamp (-127) 127 (roundInt rnd { d with e := d.e + 6 - X }))
      | some m => m.round rnd sat { d with e := d.e - X }
    (tag + 256 * (X + 127).toNat, xs.map code)

end Sys2Proof.Machine
end

