-- ==== Sys2Proof/Machine/State.lean ====
section
/-! DEFINITION. State as plain data: every piece of state the spec gives the package, the reasons a step can stop, and the
state after reset. INVENTORY.md lists each field with its rule and its reset value. -/

namespace Sys2Proof.Machine

/-- A core (R16): its workgroup, its guest group (R353), and what is held per core. -/
structure Core where
  wg : Option Workgroup := none
  guests : Group := {}
  /-- Carve-out in force (R182) and the context that last used the core (R398). -/
  carve : Nat := 0
  lastCtx : Option Nat := none
  quads : List Quadrant := []
  arr : ArrayCore := {}
  /-- Transaction-barrier directory: offset to barrier (R253). -/
  dir : List (Nat × Barrier) := []
  /-- Range-lock table: entry number to lock (R218, R266). -/
  locks : List (Nat × Lock) := []
  tlb : List TlbEntry := []
  l1 : List Line := []
  /-- Outstanding operations of workgroups that have retired from the core (R283). -/
  orphans : Group := {}
  /-- Copies of retired workgroups that have not ended, under numbers of their own (R269). -/
  past : List Copy := []
  /-- Tandem: held writes since the last commit point, in issue order; the commit point waited at; the one passed (R465 to
  R467). -/
  tbuf : List Held := []
  twait : Option Commit := none
  tgo : Option Commit := none
  /-- Sensor reading in quarter degrees (R26). -/
  temp : Int := 0
  /-- The core is held for a unit not yet placeable: context, launch (R338). -/
  held : Option (Nat × Nat) := none
  /-- Target of a relocation or restore in progress (R337). -/
  reserved : Bool := false
deriving DecidableEq, Repr

/-- A context descriptor (R375). -/
structure Desc where
  valid : Bool := false
  sys : Bool := false
  checked : Bool := false
  ticket : Bool := false
  part : Nat := 0
  asid : Nat := 0
  rstack : Nat := 0
  /-- Byte offset of the root table (bits 47:12). -/
  root : Nat := 0
  /-- In units of 64 KiB. -/
  dslimit : Nat := 0
  dsbase : Nat := 0
  /-- In slots of 8 MiB. -/
  frslots : Nat := 0
  frstack : Nat := 0
  frbase : Nat := 0
deriving DecidableEq, Repr

/-- A context: descriptor in force and written (R375, R376), and the registers held per context (R377). -/
structure Ctx where
  desc : Desc := {}
  /-- A written descriptor that has not taken effect (R376). -/
  pend : Option Desc := none
  /-- SCMODE.TICKET and checked mode in force (R215, R376). -/
  ticket : Bool := false
  checked : Bool := false
  tveclo : Word := 0
  tvechi : Word := 0
  trecbase : Word := 0
  /-- Debug registers by index 0x110 to 0x11F (R434). -/
  debug : List (Nat × Word) := []
  /-- CKTOL0 to CKTOL5 (R172). -/
  cktol : List (Nat × Word) := []
  /-- MIGCTL.OFF, NOFALL and FALLS (R366). -/
  migOff : Bool := false
  noFall : Bool := false
  falls : Nat := 0
  /-- Accounting counters 0 to 27 (R407) and ACSAT (R408, R410). -/
  counters : List (Nat × Nat) := []
  acsat : Nat := 0
  /-- Job tag (R406), DBGSEEN, PERIOD, the periodic report ring (R410, R401), its log size and reports made. -/
  job : Option Nat := none
  dbgSeen : Bool := false
  period : Nat := 0
  ringBase : Nat := 0
  ringLog : Nat := 0
  ringCount : Nat := 0
  nextReport : Nat := 0
  haltedSince : Bool := false
  /-- Accepted features (R412 to R414) and written ones not yet in effect. -/
  accept : Nat := 1
  acceptPend : Option Nat := none
  /-- Debug rights INJ, WATCH, STEP and their last tick (R415). -/
  inj : Bool := false
  watch : Bool := false
  step : Bool := false
  untilTick : Nat := 0
  /-- Frame slots taken (R397). -/
  slots : List Nat := []
  /-- Asynchronous fault queue producer index (R477). -/
  asyncProd : Nat := 0
deriving DecidableEq, Repr

/-- A raised halt line (R439 to R444). -/
structure Halt where
  cause : Nat
  tick : Nat
  /-- Every island's cycle count when the halt was raised: the skid is counted in a core's own cycles (R439). -/
  cycles : List Nat := []
  later : Nat := 0
  /-- Engine that raised it: KIND, DIE, INDEX (R444). -/
  kind : Nat := 1
  die : Nat := 0
  index : Nat := 0
  skidOver : Bool := false
  recorded : Bool := false
  /-- TRAPCAUSE, TRAPGROUP, TRAPPC and the physical core (R443). -/
  trapCause : Nat := 0
  trapGroup : Nat := 0
  trapPc : Nat := 0
  core : Nat := 0
deriving DecidableEq, Repr

/-- A saved unit (R343): the workgroups in %gang order with the frame slots that hold them. -/
structure Saved where
  ctx : Nat
  cls : Nat
  units : List (Workgroup × Nat)
  /-- Everything else the frame slot holds of each workgroup (R447), beside the workgroup. -/
  cores : List Core := []
  /-- Pages whose long misses the save waits on (R395). -/
  waits : List Nat := []
  /-- Panniers stored for the saved origin (R358). -/
  panniers : List Pannier := []
  longMiss : Bool := false
  /-- Granules of the slots that the save itself wrote as poison (R455, R460). -/
  bad : List Nat := []
deriving DecidableEq, Repr

/-- A launch record's fields (R332). -/
structure Record where
  done : Nat
  waits : List (Nat × Nat)
  coord : Nat
  gotmo : Nat
  npkg : Nat
  xid : Nat
  persistent : Bool
  restartable : Bool
  tandem : Bool
  gang : Nat
  array : Nat
  carve : Nat
  priv : Nat
  regs : Nat
  groups : Nat
  threads : Nat
  gx : Nat
  gy : Nat
  gz : Nat
  args : Nat
  kaddr : Nat
deriving DecidableEq, Repr

/-- A snapshot of a page (R470): its virtual base and size, the place of its frame, the frame slot and the place of the copy. -/
structure Snap where
  va : Nat
  size : Nat
  home : Nat
  slot : Nat
  copy : Nat
deriving DecidableEq, Repr

/-- A taken launch (R331, R334 to R336). -/
structure Launch where
  ctx : Nat
  queue : Nat
  entry : Nat
  cls : Nat
  rcd : Record
  /-- All waits were satisfied. -/
  ready : Bool := false
  /-- Next workgroup to dispatch. -/
  next : Nat := 0
  failed : Bool := false
  /-- The end's increment has been made. -/
  ended : Bool := false
  /-- Its own part is over and is kept only for what other packages still answer (R339). -/
  ownOver : Bool := false
  /-- Workgroups placed and not retired. -/
  live : Nat := 0
  /-- RESERVED sent; packages heard from; GO tick; GO-ACKs (R339). -/
  reserved : Bool := false
  heard : List Nat := []
  goTick : Option Nat := none
  acks : List Nat := []
  went : Bool := false
  /-- Restartable: pages copied and rollbacks made (R470 to R473). -/
  snaps : List Snap := []
  rollbacks : Nat := 0
  /-- A consumption has been met: the launch is being rolled back (R472); and the halt that ends before the replay (R473). -/
  rolling : Bool := false
  afterHalt : Bool := false
  /-- The pages of the long misses that its counters wait on (R395). -/
  longs : List Nat := []
  /-- Those that the control node answered with REFUSED (R395). -/
  host : List Nat := []
deriving DecidableEq, Repr

/-- Whether a launch runs: from its first dispatch to its end (R470). -/
def Launch.running (l : Launch) : Bool := (l.next != 0 || l.rollbacks != 0) && !l.ended

/-- A launch queue (R330, R331). -/
structure Queue where
  en : Bool := false
  devopen : Bool := false
  logcap : Nat := 0
  ctx : Nat := 0
  head : Nat := 0
  base : Nat := 0
  /-- Producer index of a DEVOPEN queue. -/
  prod : Nat := 0
  /-- Pages of a take whose misses the control node answered with REFUSED (R395). -/
  host : List Nat := []
  /-- The page of the long miss that a take waits on (R395). -/
  longs : Option Nat := none
  /-- The record at HEAD, once it is read: its place and value (R331). -/
  rcd : Option (Nat × Nat) := none
deriving DecidableEq, Repr

/-- A partition (R379, R341, R368, R180, R395, R442). -/
structure Part where
  size : Nat
  rho : Nat := 0
  /-- Slice length in ticks. -/
  slice : Nat := 4000000
  stopBase : Nat := 0
  fqBase : Nat := 0
  fqLog : Nat := 4
  fqProd : Nat := 0
  /-- Fault-queue entries not free: entry index to the miss (context, page, kind) (R395). -/
  fqBusy : List (Nat × Nat × Nat × Nat) := []
  /-- Misses that wait for a free entry: context, address, kind (R395). -/
  fqWait : List (Nat × Nat × Nat) := []
  relthOff : Bool := false
  cool : Nat := 320
  level : Nat := 380
  cur : Option Nat := none
  sliceEnd : Nat := 0
  /-- A slice end that waits for the old context's workgroups (R341). -/
  ending : Bool := false
  /-- Passed counts and the last queue of each class (R336). -/
  passed : List (Nat × Nat) := []
  rr : List (Nat × Nat) := []
  /-- The units that have been chosen and are not placed, with their classes (R338): a launch (0, its number), or a saved unit (1, the frame
  slot of its first workgroup); those for which lower classes make room. -/
  chosen : List (Nat × Nat × Nat) := []
  making : List (Nat × Nat × Nat) := []
  halt : Option Halt := none
  haltNo : Nat := 0
  lost : Bool := false
  /-- Health-log entries written (R461). -/
  health : Nat := 0
deriving DecidableEq, Repr

/-- A voltage/frequency island (R15, R23, R24, R26). -/
structure Island where
  /-- Clock in units of 25 MHz. -/
  clock : Nat := 100
  cycles : Nat := 0
  /-- Sub-cycle remainder, in 1/1000 of a cycle. -/
  rest : Nat := 0
  emergency : Bool := false
  /-- The tick of its last step down in an emergency (R26). -/
  stepped : Nat := 0
  /-- A core of it has tripped (R26): it is powered down once the stop records are written; and it is. -/
  tripped : Bool := false
  off : Bool := false
deriving DecidableEq, Repr

/-- A lease on a 128-byte line (R192 to R194): the line's place, the package that holds it, none for this one (log entry 97), whether it permits
writes, the tick it was granted, whether it is dirty, and the bytes of the line as the home last had them; the die whose core made it dirty. -/
structure Lease where
  line : Nat
  holder : Option Nat := none
  write : Bool
  since : Nat
  dirty : Bool := false
  home : List Byte := []
  die : Nat := 0
deriving DecidableEq, Repr

/-- A seal entry (R187): die, context, start, length; the reference count of R189 follows from the range locks. -/
structure Seal where
  die : Nat
  ctx : Nat
  start : Nat
  len : Nat
deriving DecidableEq, Repr

/-- A short miss being resolved (R394): context, virtual page base and size, whether an access is a write; once its frame is filled with zeros,
the place of the entry that is to be swapped and what was read there. -/
structure Miss where
  ctx : Nat
  page : Nat
  size : Nat := 2 ^ 16
  write : Bool
  swap : Option (Nat × Nat) := none
deriving DecidableEq, Repr

/-- A Hexter port (R417, R474 to R476): port 0 is the control port, ports 1 to 36 the scale-up ports. A die-to-die link (R474, R476) has the same
form, its entry made at its first use: 64 + 8 a + b names that between dies a and b, a below b. -/
structure Port where
  /-- The link carries traffic; trained lanes as a mask; lane rate code 0 to 2, or 3 down. -/
  up : Bool := false
  lanes : Nat := 0
  rate : Nat := 0
  /-- LINKERR (R417). -/
  crc : Nat := 0
  replay : Nat := 0
  retrain : Nat := 0
  /-- Flits sent and not acknowledged, at most 256 (R474). -/
  sent : Nat := 0
  /-- Ticks of the replays of the last 1 ms (R475), of the last replay, and of the start of the present rate. -/
  recent : List Nat := []
  quiet : Nat := 0
  /-- A retraining in progress: the rate it trains at. -/
  training : Option Nat := none
deriving DecidableEq, Repr

/-- A SYNC(n) not yet answered (R390), and the number of the last invalidation before it. -/
structure Sync where
  n : Nat
  upto : Nat
deriving DecidableEq, Repr

/-- What the package sends to the outside: one entry per message, oldest first. -/
inductive Out where
  | status (code status : Nat)
  | syncAck (n : Nat)
  | reserved (xid coord : Nat) | go (xid pkg : Nat) | goAck (xid coord : Nat) | abort (xid : Nat)
  /-- A signed record that no command named a buffer for (R406): its bytes as one number, and how many. -/
  | signed (record length : Nat)
deriving DecidableEq, Repr

/-- The management mailbox (R400, R401): the command last presented, and STATUS. -/
structure Mailbox where
  mail : Mail := ⟨0, 0, 0, 0⟩
  status : Nat := 0
deriving DecidableEq, Repr

/-- An entry of the remap CAM of a home (R462): what failed there (0 an HBM row, 1 an L2 line, 2 a sub-array column), the unit that holds it
(bank key; die and slice; physical core and sub-array), the number of what failed in it, and the spare that takes its place on every access. -/
structure Remap where
  kind : Nat
  die : Nat
  unit : Nat
  failed : Nat
  spare : Nat
deriving DecidableEq, Repr
/-- An entry of a containment structure (R462): of the poison record, the remap CAM, the retired-frame list. -/
inductive Keep where
  | poison (gran : Nat) | remap (r : Remap) | retired (frame : Nat)
deriving DecidableEq, Repr
/-- How a copy of such an entry reads under its SECDED (R462, R463). -/
inductive Secded where
  | good | correctable | bad
deriving DecidableEq, Repr
/-- The two copies in which an entry is held (R462): the primary's reading, whether the duplicate's parity holds, whether the two agree. -/
structure Twofold where
  primary : Secded := .good
  parity : Bool := true
  agree : Bool := true
deriving DecidableEq, Repr

/-- The conversion errors of one pass (R118) on a sub-array of a core, by block, row (16 and 17: the parts of the checksum row), column and
counts. -/
structure PassErrs where
  core : Nat
  q : Nat
  errs : List (Nat × Nat × Nat × Int)
  /-- An uncorrectable error in its staging tile (R457). -/
  staging : Bool := false
deriving DecidableEq, Repr

/-- The state of the package. -/
structure State where
  /-- Engine and environment steps that are due, oldest first (model: log entry 1). -/
  inbox : List Instr := []
  /-- Steps taken, the argument of the free values (model: log entry 3). -/
  draws : Nat := 0
  /-- Ticks that pass at each coming step; one where the list is empty (model: log entry 2). -/
  pace : List Nat := []
  /-- The physical core and the group index (64: the guest group) that issue next (model: log entry 1). -/
  focus : Nat × Nat := (0, 0)
  /-- %time and the cadence (R24, R213). -/
  ticks : Nat := 0
  cadence : Nat := 0
  islands : List Island := []
  /-- The tick of the power arbiter's last interval (R23). -/
  power : Nat := 0
  /-- All memory: stacks, scratchpads, private slices, die scratchpads, control node memory, leased lines. -/
  mem : List Host.Cell := []
  cores : List (Nat × Core) := []
  /-- The fuse map of a die: the physical indexes of its 128 enabled cores in logical order; 0 to 127 for an unlisted die (R13,
  R14; log entry 7). -/
  fuses : List (Nat × List Nat) := []
  /-- Logical core to physical core where it differs from the fuse map (R14, R371). -/
  lmap : List (Nat × Nat) := []
  /-- TLBs of the tensor walkers, by cluster (R386). -/
  walkers : List (Nat × List TlbEntry) := []
  ctxs : List (Nat × Ctx) := []
  parts : List (Nat × Part) := []
  queues : List (Nat × Queue) := []
  launches : List (Nat × Launch) := []
  nextLaunch : Nat := 0
  /-- RESERVED messages that came before the launch had been taken here: its identifier and the package (R339). -/
  heardEarly : List (Nat × Nat) := []
  saved : List Saved := []
  panniers : List (Nat × Pannier) := []
  nextPannier : Nat := 0
  misses : List (Nat × Miss) := []
  nextMiss : Nat := 0
  leases : List (Nat × Lease) := []
  /-- Regions of 64 KiB whose lost flag is set (R194). -/
  flagged : List Nat := []
  seals : List Seal := []
  /-- Replica lines: line (place div 128) to the dies whose L2 holds one (R190). -/
  replicas : List (Nat × List Nat) := []
  /-- Chunks whose collapse is in progress (R191). -/
  collapsing : List Nat := []
  /-- Writes that wait at a chunk's home, in the order in which they reached it (R191). -/
  stalls : List (Nat × Writer) := []
  syncs : List Sync := []
  /-- Invalidations made (R389, R392). -/
  invals : Nat := 0
  /-- Poisoned granules: granule (place div 32) to class (R452). -/
  poison : List (Nat × Nat) := []
  /-- The remap CAM's entries, and the entries of the containment structures whose two copies are not both good and equal (R462). -/
  remaps : List Remap := []
  kept : List (Keep × Twofold) := []
  /-- Dies whose containment was lost (R463). -/
  lostHomes : List Nat := []
  /-- Retired frames (R464), and frames in which one uncorrectable error is recorded. -/
  retired : List Nat := []
  ueFrames : List Nat := []
  /-- NMU_BERR by bank key (R274). -/
  berr : List (Nat × Word) := []
  /-- Columns that hold a single-bit error, which the next read of them corrects and counts (R451): what the cells of the stacks hold wrong is an
  input from outside (log entry 115). The model's own field. -/
  weak : List Nat := []
  /-- Places whose bank's CE has just reached 0xFF: the health log gets its entry before the next event (R461). -/
  ceDue : List Nat := []
  ports : List (Nat × Port) := []
  /-- The package's own writes to control node memory that wait for the lost control port (R476), oldest first: place, bytes, value. -/
  ctlWaits : List (Nat × Nat × Nat) := []
  pkgid : Nat := 0
  /-- Packages of the domain, minus 1 (R416). -/
  domain : Nat := 0
  /-- Next ticket and tickets performed (R214). -/
  ticketNext : Nat := 0
  ticketDone : Nat := 0
  /-- Signed-record count (R404), recovery state (R402), fused minima of the images' versions, stored images. -/
  seq : Nat := 0
  recovery : Nat := 0
  minSvns : List (Nat × Nat) := []
  images : List (Nat × Nat × Nat) := []
  /-- The images that were verified at the last reset: kind, bytes, length. -/
  running : List (Nat × Nat × Nat) := []
  mailbox : Mailbox := {}
  outbox : List Out := []
  /-- Conversion errors that the coming passes suffer (R118), pass by pass (model: log entry 10). -/
  convErrs : List PassErrs := []
deriving DecidableEq, Repr

/-- Why the machine stops with a fault. -/
inductive Fault where
  /-- An operation reached a physical place that the package does not have. No operation raises it: the spec takes a trap or a halt
  for every address that does not exist, and R383 refuses each page-table entry that would name such a place; safe. -/
  | noSuchPlace
deriving DecidableEq, Repr

/-- Why a step has no meaning. -/
inductive Refusal where
  /-- The instruction has no meaning in the model yet: raised by Dispatch alone; safe. -/
  | notModelled (mnemonic : String)
deriving DecidableEq, Repr

/-- The package after reset (R6, R24, R377, R402): log entries 4 and 5 name the values that the spec does not state. -/
def State.reset : State :=
  { islands := List.replicate 32 {} }

end Sys2Proof.Machine
end

