-- ==== Sys2Proof/Machine/Mem.lean ====
section
/-! DEFINITION. The one memory: places of bytes (keys), reads and writes of bytes and little-endian words, and the accessors
of cores, contexts and partitions (spec/01_machine.md R10 to R16, spec/07_memory_tiers.md R177 to R180). -/

namespace Sys2Proof.Machine

/-! Places. Each address space of the package has its own interval of keys (model: log entry 6). -/

/-- Offset `off` of stack `st` of this package (R10). -/
def stackKey (st off : Nat) : Nat := st * 2 ^ 36 + off
/-- A line homed in another package, by package ID, stack and offset (R381 LOC 1). -/
def remoteKey (pkg st off : Nat) : Nat := 2 ^ 52 + pkg * 2 ^ 40 + st * 2 ^ 36 + off
/-- A control node physical address (R381 LOC 2). -/
def ctlKey (a : Nat) : Nat := 2 ^ 54 + a
/-- Offset of the window of a physical core (R178). -/
def windowKey (pcore off : Nat) : Nat := 2 ^ 56 + pcore * 2 ^ 22 + off
/-- Byte of the private slice of a lane (R235). -/
def privKey (pcore group lane off : Nat) : Nat := 2 ^ 57 + ((pcore * 65 + group) * 64 + lane) * 512 + off
/-- Byte d of a die's scratchpad (R180). -/
def dieKey (die d : Nat) : Nat := 2 ^ 58 + die * 2 ^ 28 + d
/-- The slice in which byte d of a die's scratchpad lies, and its byte of that slice's reserved part (R180). -/
def dieSlice (d : Nat) : Nat := d / 128 % 256
def dieSliceByte (d : Nat) : Nat := 128 * (d / 32768) + d % 128

/-- Whether two ranges meet. -/
def rangesMeet (a la b lb : Nat) : Bool := a < b + lb && b < a + la

/-- What a byte that nothing has written reads as (log entry 5). -/
def memDefault : Byte := 0

/-- The canonical form of the memory. -/
def Memory.wf (m : List Host.Cell) : Bool := mwf memDefault m

/-- Read one byte. -/
def memGet (m : List Host.Cell) (k : Nat) : Byte := mget memDefault m k
/-- Write one byte. -/
def memSet (m : List Host.Cell) (k : Nat) (b : Byte) : List Host.Cell := mset memDefault m k b
/-- The n bytes from a place, the lowest first in the low bits (R5). -/
def memRead (m : List Host.Cell) (k : Nat) : Nat → Nat
  | 0 => 0
  | n + 1 => (memGet m k).toNat + 256 * memRead m (k + 1) n
/-- Write the low n bytes of a value from a place. -/
def memWrite (m : List Host.Cell) (k : Nat) : Nat → Nat → List Host.Cell
  | 0, _ => m
  | n + 1, v => memWrite (memSet m k (BitVec.ofNat 8 v)) (k + 1) n (v / 256)
/-- Write a list of bytes. -/
def memPut (m : List Host.Cell) (k : Nat) : List Byte → List Host.Cell
  | [] => m
  | b :: bs => memPut (memSet m k b) (k + 1) bs
/-- The n bytes from a place, as a list. -/
def memTake (m : List Host.Cell) (k n : Nat) : List Byte := (List.range n).map fun i => memGet m (k + i)
/-- The n bytes from a place read as zero (R182, R398, R394). -/
def memClear (m : List Host.Cell) (k n : Nat) : List Host.Cell := m.filter fun c => !(k ≤ c.1 && c.1 < k + n)
/-- The n bytes from place a, moved to place b; a reads as zero after it. -/
def memMove (m : List Host.Cell) (a b n : Nat) : List Host.Cell :=
  (m.filter fun c => a ≤ c.1 && c.1 < a + n).foldl (fun m' c => memSet m' (b + (c.1 - a)) c.2) (memClear (memClear m b n) a n)
/-- The bytes of places a and b exchanged. -/
def memSwap (m : List Host.Cell) (a b n : Nat) : List Host.Cell :=
  let ca := m.filter fun c => a ≤ c.1 && c.1 < a + n
  let cb := m.filter fun c => b ≤ c.1 && c.1 < b + n
  let m := memClear (memClear m a n) b n
  let m := ca.foldl (fun m' c => memSet m' (b + (c.1 - a)) c.2) m
  cb.foldl (fun m' c => memSet m' (a + (c.1 - b)) c.2) m

/-- Write the low n bytes of a value at a place. -/
def State.write (s : State) (k n v : Nat) : State := { s with mem := memWrite s.mem k n v }
/-- Read n bytes at a place. -/
def State.read (s : State) (k n : Nat) : Nat := memRead s.mem k n

/-! Cores and groups. -/

/-- A physical core; an unlisted one is empty. -/
def State.core (s : State) (p : Nat) : Core := mget {} s.cores p
def State.setCore (s : State) (p : Nat) (c : Core) : State := { s with cores := minsert s.cores p c }
def State.modCore (s : State) (p : Nat) (f : Core → Core) : State := s.setCore p (f (s.core p))

/-- The index of a core's guest group. -/
def guestIx : Nat := 64

/-- The index under which the operations of retired groups are kept. -/
def orphanIx : Nat := 65

/-- Group g of the core's workgroup, or its guest group, or what is left of its retired groups. -/
def Core.group? (c : Core) (g : Nat) : Option Group :=
  if g = guestIx then some c.guests else if g = orphanIx then some c.orphans else c.wg.bind fun w => w.groups[g]?
def Core.group (c : Core) (g : Nat) : Group := (c.group? g).getD {}
def Core.setGroup (c : Core) (gi : Nat) (g : Group) : Core :=
  if gi = guestIx then { c with guests := g } else if gi = orphanIx then { c with orphans := g }
  else { c with wg := c.wg.map fun w => { w with groups := lmod w.groups gi fun _ => g } }
def State.group (s : State) (p gi : Nat) : Group := (s.core p).group gi
def State.setGroup (s : State) (p gi : Nat) (g : Group) : State := s.setCore p ((s.core p).setGroup gi g)
def State.modGroup (s : State) (p gi : Nat) (f : Group → Group) : State := s.setGroup p gi (f (s.group p gi))
def State.modWg (s : State) (p : Nat) (f : Workgroup → Workgroup) : State :=
  s.modCore p fun c => { c with wg := c.wg.map f }

/-- The thread in a slot. -/
def Group.thread? (g : Group) (slot : Nat) : Option Thread := g.threads.find? (·.slot == slot)
def Group.modThread (g : Group) (slot : Nat) (f : Thread → Thread) : Group :=
  { g with threads := g.threads.map fun t => if t.slot = slot then f t else t }
def Group.modThreads (g : Group) (slots : List Nat) (f : Thread → Thread) : Group :=
  { g with threads := g.threads.map fun t => if slots.contains t.slot then f t else t }

/-- An outstanding operation replaced, by its identifier. -/
def Group.setOp (g : Group) (o : Op) : Group := { g with ops := g.ops.map fun x => if x.id = o.id then o else x }
/-- An outstanding operation removed. -/
def Group.dropOp (g : Group) (id : Nat) : Group := { g with ops := g.ops.filter fun x => x.id != id }
def Group.op? (g : Group) (id : Nat) : Option Op := g.ops.find? fun x => x.id == id

/-- A write of n bytes clears the poison of every granule that it covers whole (R452). -/
def State.clearPoison (s : State) (key n : Nat) : State :=
  { s with poison := s.poison.filter fun e => !(key ≤ e.1 * 32 && e.1 * 32 + 32 ≤ key + n) }
/-- Whether every thread has exited (R283). -/
def Group.ended (g : Group) : Bool := g.threads.all (·.st == .exited)
/-- READY threads that may join a head set; in handler state only those of H (R422); no guest that is on its way home. -/
def Group.readyThreads (g : Group) : List Thread :=
  g.threads.filter fun t => t.st == .ready && t.bound.isNone && (!g.handler || t.inH)

/-- The logical core that a workgroup's threads read: the primary's, in a tandem pair (R465). -/
def Workgroup.seenCore (w : Workgroup) : Nat :=
  match w.tandem with
  | some (true, other) => other
  | _ => w.lcore

/-! Numbering (R13 to R15). -/

/-- The fuse map: logical core to physical core (R14; log entry 7). -/
def State.fusePhys (s : State) (l : Nat) : Nat :=
  136 * (l / 128) + (match mfind s.fuses (l / 128) with | none => l % 128 | some m => m.getD (l % 128) 0)
/-- The place of a physical core in its die's fuse map; 128 or more where it is fused off (R13). -/
def State.fuseIndex (s : State) (p : Nat) : Nat := match mfind s.fuses (p / 136) with | none => p % 136 | some m => m.idxOf (p % 136)
/-- Whether a physical core is enabled (R13). -/
def State.enabled (s : State) (p : Nat) : Bool := decide (p / 136 < 8) && decide (s.fuseIndex p < 128)
/-- The physical core of a logical core (R371). -/
def State.phys (s : State) (l : Nat) : Nat := (mfind s.lmap l).getD (s.fusePhys l)
/-- The logical core that names a physical core. -/
def State.logical (s : State) (p : Nat) : Nat :=
  match s.lmap.find? (·.2 == p) with
  | some e => e.1
  | none => 128 * (p / 136) + s.fuseIndex p
def dieOf (lcore : Nat) : Nat := lcore / 128
def clusterOf (lcore : Nat) : Nat := lcore / 16
/-- The die of a physical core. -/
def pdie (p : Nat) : Nat := p / 136
/-- The island of a physical core, by its place in the fuse map (R15). -/
def State.islandOf (s : State) (p : Nat) : Nat := 4 * (p / 136) + s.fuseIndex p / 32

/-! Contexts and partitions. -/

def State.ctx (s : State) (c : Nat) : Ctx := mget {} s.ctxs c
def State.modCtx (s : State) (c : Nat) (f : Ctx → Ctx) : State := { s with ctxs := minsert s.ctxs c (f (s.ctx c)) }
/-- The partition that holds a die, by its lowest die. -/
def State.partOf (s : State) (die : Nat) : Option (Nat × Part) :=
  s.parts.find? fun e => e.1 ≤ die && die < e.1 + e.2.size
def State.part (s : State) (p : Nat) : Option Part := mfind s.parts p
def State.modPart (s : State) (p : Nat) (f : Part → Part) : State := { s with parts := mmod s.parts p f }
/-- The context that holds an ASID. -/
def State.ctxOfAsid (s : State) (a : Nat) : Option Nat := (s.ctxs.find? fun e => e.2.desc.valid && e.2.desc.asid == a).map (·.1)

/-- The context of an issuing group's threads: the workgroup's, or a guest's own (R353). -/
def State.ctxAt (s : State) (p gi slot : Nat) : Nat :=
  let c := s.core p
  if gi = guestIx then ((c.guests.thread? slot).bind (·.origin)).elim 0 (·.ctx) else c.wg.elim 0 (·.ctx)

/-- Whether a workgroup is the one that a guest comes from. -/
def Workgroup.owns (w : Workgroup) (o : Origin) : Bool := w.ctx == o.ctx && w.lcore == o.core && w.launch == o.launch && w.wg == o.wg
/-- The workgroup of a guest's origin where it is placed; and wherever it is, placed or saved. -/
def State.homeOf (s : State) (o : Origin) : Option Workgroup := (s.core (s.phys o.core)).wg.filter (·.owns o)
def State.originWg (s : State) (o : Origin) : Option Workgroup :=
  (s.homeOf o).orElse fun _ => s.saved.findSome? fun u => (u.units.find? fun x => x.1.owns o).map (·.1)

/-- Add to an accounting counter, saturating (R407, R408). -/
def Ctx.add (x : Ctx) (i n : Nat) : Ctx :=
  let v := mget 0 x.counters i + n
  { x with counters := mset 0 x.counters i (min (2 ^ 64 - 1) v), acsat := if v ≤ 2 ^ 64 - 1 then x.acsat else x.acsat ||| (1 <<< i) }
def State.count (s : State) (c i n : Nat) : State := s.modCtx c (·.add i n)

/-- The 64-bit cycle count of the island of a physical core (R24). -/
def State.cycles (s : State) (p : Nat) : Nat := (lget {} s.islands (s.islandOf p)).cycles

end Sys2Proof.Machine
end

