-- ==== Sys2Proof/Machine/Operands.lean ====
section
/-! DEFINITION. Operand forms (spec/02_instruction_word.md R38 to R50): reading x, s, predicate and special registers and
literals, writing destinations at each latency class, the under-waited reads of R48, and which registers an instruction
reads and writes. -/

namespace Sys2Proof

/-- The register codes of a destination of one or two words. -/
def Dst.codes (d : Dst) (words : Nat) : List Nat :=
  match d with
  | .none => []
  | d => (List.range words).map fun i => d.code + i

/-! Which registers an instruction reads and writes, by operand code (R39, R48, R354). -/

/-- The codes of a source of the given number of words. -/
def Src.codes (words : Nat) : Src → List Nat
  | .x n => (List.range words).map (n + ·)
  | .s n => (List.range words).map (0x80 + n + ·)
  | .p n => [0xE0 + n]
  | _ => []
def Src.special? : Src → Option SReg
  | .sr r => some r
  | _ => none
def Ty.words (t : Ty) : Nat := if t.is64 then 2 else 1
def Width.words (w : Width) : Nat := if w == .b64 then 2 else 1
/-- Bytes of an access width (R54). -/
def Width.bytes : Width → Nat
  | .n8 | .i8 => 1
  | .n16 | .i16 => 2
  | .b32 => 4
  | .b64 => 8
def Shape.groups : Shape → Nat
  | .ind | .w4 => 1
  | .sq => 2
  | .d4 => 4

/-- What an instruction reads (sources with their word counts) and writes (destination codes), its T aside. -/
structure Uses where
  srcs : List (Src × Nat) := []
  reads : List Nat := []
  writes : List Nat := []
deriving Repr

def Alu.uses (o : Alu) (wa wb wc wd : Nat) : Uses := { srcs := [(o.a, wa), (o.b, wb), (o.c, wc)], writes := Dst.codes o.dst wd }
def Alu.same (o : Alu) : Uses := o.uses o.ty.words o.ty.words o.ty.words o.ty.words
def BarOps.uses (o : BarOps) (wb : Nat) : Uses := { srcs := [(o.base, 1), (o.b, wb)] }
def tierWords : Tier → Nat
  | .glob => 2
  | _ => 1
def MemOps.uses (o : MemOps) (wb wd : Nat) : Uses :=
  { srcs := [(o.base, tierWords o.tier), (o.data, wb)], writes := Dst.codes o.dst wd }
def NmuOps.uses (o : NmuOps) (wb wd : Nat) : Uses := { srcs := [(o.base, 2), (o.b, wb), (o.c, 1)], writes := Dst.codes o.dst wd }
def MigOps.uses (o : MigOps) : Uses := { srcs := [(o.base, if o.cm then 1 else 2)], writes := Dst.codes o.dst 1 }

/-- The registers an instruction names. -/
def Instr.usesOf : Instr → Uses
  | .iadd _ o | .isub _ o | .imul _ o | .imulHi _ o | .imad _ o | .imin _ o | .imax _ o | .iabs _ o | .ineg _ o
  | .and _ o | .or _ o | .xor _ o | .andn _ o | .orn _ o | .not _ o | .brev _ o | .prmt _ o => o.same
  | .imadWide _ o => o.uses 1 1 2 2
  | .shl _ o | .shr _ o | .sar _ o | .rol _ o | .ror _ o => o.uses o.ty.words 1 1 o.ty.words
  | .bfx _ o => o.uses o.ty.words 1 1 o.ty.words
  | .bfi _ o => o.uses o.ty.words 1 o.ty.words o.ty.words
  | .popc _ o | .clz _ o | .ctz _ o => o.uses o.ty.words 1 1 1
  | .icmp _ _ o => o.uses o.ty.words o.ty.words 1 1
  | .isel _ o => o.uses o.ty.words o.ty.words 1 o.ty.words
  | .mov _ o => o.same
  | .movi _ _ o => { writes := (Dst.codes o.dst o.ty.words).drop (o.ty.words - 1) }
  | .lea _ _ o => o.uses 2 o.ty.words 1 2
  | .plog _ _ o => o.uses 1 1 1 1
  | .pmovPack _ n o => { reads := match o.a with | .p a => (List.range n).map (0xE0 + a + ·) | _ => [], writes := Dst.codes o.dst 1 }
  | .pmovUnpack _ n o => { srcs := [(o.a, 1)], writes := Dst.codes o.dst n }
  | .fadd _ o | .fsub _ o | .fmul _ o | .fma _ o | .fmin _ o | .fmax _ o | .fcmp _ _ o | .frnd _ o | .frcp _ o | .frsq _ o
  | .fsqrt _ o | .fexp2 _ o | .flog2 _ o | .fsin _ o | .fcos _ o | .ftanh _ o | .fsigm _ o | .fclass _ o | .fscale _ o
  | .cvt _ _ o | .hadd2 _ o | .hmul2 _ o | .hfma2 _ o | .dot4 _ o => o.uses 1 1 1 1
  | .cvti _ _ o => o.uses 1 1 1 o.ty.words
  | .cvtf _ src o => o.uses src.words 1 1 1
  | .mxpack _ _ o => { srcs := [(o.a, 1)], writes := Dst.codes o.dst 2 }
  | .mxunpk _ o => { srcs := [(o.a, 1), (o.b, 1)], writes := Dst.codes o.dst 1 }
  | .nop _ | .dly _ _ | .bra _ _ | .call _ _ | .ret _ | .exit _ | .twait _ _ _ | .yield _ | .sleep _ _ | .join _ _ | .leave _ _
  | .mwait _ _ | .bar _ _ | .cbar _ _ | .amodeSto _ _ | .amodeMul _ _ | .acal _ _ | .mconv _ _ _ _ _ _ | .mzero _ _ _
  | .broom _ | .migset _ _ | .migret _ | .trap _ _ | .brk _ _ | .halt _ _ => {}
  | .tret _ _ => { reads := [0x80 + 62, 0x80 + 63] }
  | .brx _ a | .callReg _ a => { srcs := [(a, 2)] }
  | .maskRd _ d _ => { writes := Dst.codes d 2 }
  | .maskTst _ d _ => { writes := Dst.codes d 1 }
  | .ballot _ d a => { srcs := [(a, 1)], writes := Dst.codes d 2 }
  | .vote _ _ d a => { srcs := [(a, 1)], writes := Dst.codes d 1 }
  | .shfl _ _ _ d a b => { srcs := [(a, 1), (b, 1)], writes := Dst.codes d 1 }
  | .binit _ o | .barrive _ o | .barriveTx _ o | .bwait _ o | .binval _ o => o.uses 1
  | .qsend _ o => o.uses 2
  | .qrecv _ d b _ => { srcs := [(b, 1)], writes := Dst.codes d 2 }
  | .launch _ d r q => { srcs := [(r, 2), (q, 1)], writes := Dst.codes d 1 }
  | .ldp _ o | .lds _ o | .ldc _ o | .ldd _ o | .ldg _ o | .xload _ o => o.uses 1 o.width.words
  | .stp _ o | .sts _ o | .stc _ o | .std _ o | .stg _ o => o.uses o.width.words 1
  | .cstore _ o => o.uses o.width.words 1
  | .atom _ _ o | .atomf _ _ o | .red _ _ o => o.uses o.ty.words o.ty.words
  | .cas _ o => { o.uses (2 * o.width.words) o.width.words with }
  | .fence _ o | .pref _ _ o | .cctlWb _ o | .cctlInv _ o | .cctlWbinv _ o => o.uses 1 1
  | .seal _ o | .unseal _ o => o.uses 1 1
  | .awr _ o => { srcs := [(o.addr, 1)] }
  | .ald _ o => { srcs := [(o.addr, 2), (o.origin, 1)] }
  | .ard _ o => { srcs := [(o.a, 1)], writes := Dst.codes o.dst 9 }
  | .mma _ o => { srcs := [(o.elems, 2 * o.shape.groups), (o.hdrs, 1)] }
  | .mdrain _ o => { srcs := [(o.a, 1), (o.b, 1)] }
  | .macc _ o => { srcs := [(o.a, 1)], writes := Dst.codes o.dst 4 }
  | .mcks _ o => { srcs := [(o.a, 1), (o.b, 1)], writes := Dst.codes o.dst 1 }
  | .mloc _ o => { srcs := [(o.a, 1), (o.b, 1)], writes := Dst.codes o.dst 2 }
  | .mfix _ o | .mretry _ _ o => { srcs := [(o.a, 1), (o.b, 1)], writes := Dst.codes o.dst 1 }
  | .ainfo _ _ o => { writes := Dst.codes o.dst 1 }
  | .bcopy _ o => { srcs := [(o.block, 6)], writes := Dst.codes o.dst 2 }
  | .bcopym _ o => { srcs := [(o.block, 8)], writes := Dst.codes o.dst 2 }
  | .nma _ o => o.uses o.ty.words 1
  | .nmar _ o => o.uses (if o.op == .cas then 2 * o.ty.words else o.ty.words) o.ty.words
  | .bdot _ o => o.uses 2 2
  | .gred _ o => o.uses 1 2
  | .migto _ o | .migq _ o => o.uses
  | .wpre _ o => { srcs := [(o.addr, 4)], writes := Dst.codes o.dst 2 }
  | .sysr _ d _ => { writes := Dst.codes d 1 }
  | .sysw _ a _ => { srcs := [(a, 1)] }
  | .cntr _ d _ => { writes := Dst.codes d 2 }
  | .tlbiVa _ a b => { srcs := [(a, 2), (b, 1)] }
  | .tlbiAsid _ b => { srcs := [(b, 1)] }
  | .dbgr _ o => { srcs := [(o.a, 1)], writes := Dst.codes o.dst 2 }
  | .dbgw _ o => { srcs := [(o.a, 1), (o.b, 1)], writes := Dst.codes o.dst 1 }
  | _ => {}

/-- What an active lane other than the lowest reads: nothing where the operands are those of the lowest active lane (R142, R236, R243, R256, R263,
R272, R277, R426; the group kind of R305), but for the sources that the rule gives to every lane (R236, R258, R325). -/
def Instr.laneUses (i : Instr) : Uses :=
  match i with
  | .awr .. | .ald .. | .mdrain .. | .mcks .. | .mloc .. | .mfix .. | .mretry .. | .seal .. | .unseal ..
  | .binit .. | .barrive .. | .bwait .. | .binval .. | .qrecv .. | .launch .. | .bcopy .. | .bcopym .. | .wpre .. | .bdot ..
  | .sysw .. | .tlbiVa .. | .tlbiAsid .. | .dbgr .. | .dbgw .. => { i.usesOf with srcs := [], reads := [] }
  | .barriveTx _ o => { i.usesOf with srcs := [(o.b, 1)] }
  | .qsend _ o => { i.usesOf with srcs := [(o.b, 2)] }
  | .cstore _ o => { i.usesOf with srcs := [(o.data, o.width.words)] }
  | .xload .. => { i.usesOf with srcs := [] }
  | i => i.usesOf
/-- The register codes that an instruction reads in a lane (R44, R48); `low` says that it is the lowest active one. -/
def Instr.readCodes (i : Instr) (low : Bool) : List Nat :=
  let u := if low then i.usesOf else i.laneUses
  (u.srcs.flatMap fun e => e.1.codes e.2) ++ u.reads

/-! What an instruction is as an access (spec/08_consistency.md). -/

/-- A scope as a level: 0 the group, 6 the system (R198). -/
def Scope.level : Scope → Nat
  | .grp => 0
  | .wg => 1
  | .cl => 2
  | .die => 3
  | .dev => 4
  | .dom => 5
  | .sys => 6

/-- Whether an order has an acquire or a release part (R201). -/
def Order.acquires : Order → Bool
  | .acq | .ar | .sc => true
  | _ => false
def Order.releases : Order → Bool
  | .rel | .ar | .sc => true
  | _ => false

/-- What an instruction is in the ordering rules: whether it reads and writes, its order and scope level, whether it is an
NMA (R221), and whether it has no access of its own and holds later ones (R242, R203). -/
structure AccKind where
  reads : Bool := false
  writes : Bool := false
  order : Order := .rlx
  level : Nat := 0
  nma : Bool := false
  fence : Bool := false
deriving DecidableEq, Repr

/-- The level of a barrier's or queue's tier (R203, R258, R325). -/
def cmLevel (cm : Bool) : Nat := if cm then 2 else 1

/-- An instruction as an access (R195, R201, R203, R217, R220, R328). -/
def Instr.accKind : Instr → Option AccKind
  | .ldp _ o | .lds _ o | .ldc _ o | .ldd _ o | .ldg _ o | .xload _ o => some { reads := true, order := o.order, level := o.scope.level }
  | .stp _ o | .sts _ o | .stc _ o | .std _ o | .stg _ o | .cstore _ o => some { writes := true, order := o.order, level := o.scope.level }
  | .atom _ _ o | .atomf _ _ o | .red _ _ o | .cas _ o => some { reads := true, writes := true, order := o.order, level := o.scope.level }
  | .fence _ o => some { order := o.order, level := o.scope.level, fence := true }
  | .awr .. | .ald .. => some { reads := true, level := 1 }
  | .mdrain .. => some { writes := true, level := 1 }
  | .nma .. => some { reads := true, writes := true, level := 4, nma := true }
  | .nmar .. => some { reads := true, writes := true, level := 4 }
  | .bdot .. | .gred .. => some { reads := true, level := 4 }
  | .bcopy _ o | .bcopym _ o => some { order := .rel, level := o.scope.level }
  | .mwait .. => some { order := .ar, level := 0, fence := true }
  | .bar .. => some { order := .ar, level := 1, fence := true }
  | .cbar .. => some { order := .ar, level := 2, fence := true }
  | .barrive _ o | .barriveTx _ o => some { order := .rel, level := cmLevel o.cm }
  | .qsend _ o => some { order := .rel, level := cmLevel o.cm }
  | .qrecv .. => some { reads := true, order := .acq, level := 2 }
  | .launch .. => some { reads := true, order := .rel, level := 6 }
  | .migto .. => some { order := .rel, level := 4 }
  | _ => none

/-- The writes that a tandem copy holds, those that are not its own tiers' (R465): stores, CSTOREs and REDs. -/
def Instr.heldWrite : Instr → Bool
  | .stg .. | .std .. => true
  | .cstore _ o | .red _ _ o => o.tier == .glob || o.tier == .dmem
  | _ => false

/-- The instructions with an address whose traps record none (R424): those of classes 2 and 4. -/
def Instr.addressless : Instr → Bool
  | .awr .. | .ald .. | .mdrain .. | .qsend .. | .qrecv .. | .launch .. => true
  | _ => false

/-- The tier of a class 3 or 5 access as its instruction names it. -/
def Instr.width : Instr → Nat
  | .ldp _ o | .lds _ o | .ldc _ o | .ldd _ o | .ldg _ o | .stp _ o | .sts _ o | .stc _ o | .std _ o | .stg _ o | .cstore _ o
  | .xload _ o | .cas _ o => o.width.bytes
  | .atom _ _ o | .atomf _ _ o | .red _ _ o => 4 * o.ty.words
  | .nma _ o | .nmar _ o => 4 * o.ty.words
  | .gred .. => 4
  | _ => 1

end Sys2Proof

namespace Sys2Proof.Machine

/-! The state an issue works on. -/

/-- An issue: the machine as it was before it, the issuing core and group, the head set, the active threads and the PC
(R50, R285). -/
structure Iss where
  s : State
  p : Nat
  gi : Nat
  g : Group
  w : Option Workgroup
  head : List Nat
  act : List Nat
  pc : DWord
  /-- The debug checks are made for this issue (R435). -/
  watched : Bool := false
deriving Repr

def Iss.guest (e : Iss) : Bool := e.gi == guestIx
def Iss.lowest (e : Iss) : Nat := e.act.headD 0
def Iss.thread (e : Iss) (slot : Nat) : Thread := (e.g.thread? slot).getD { slot := slot, lane := slot, pc := 0 }
/-- The context of the issue; the threads of a head set share one (R353). -/
def Iss.ctx (e : Iss) : Nat := e.s.ctxAt e.p e.gi (e.head.headD 0)
/-- The origin group of a guest: of one workgroup, whichever others have had its core (R115, R318). -/
def Origin.ofGroup (o : Origin) : Origin := { o with lane := 0 }
/-- Active threads that a thread's cross-lane instruction sees (R318): in a guest group those of the same origin group. -/
def Iss.peers (e : Iss) (slot : Nat) : List Nat :=
  if e.guest then
    e.act.filter fun n => (e.thread n).origin.map (·.ofGroup) == (e.thread slot).origin.map (·.ofGroup)
  else e.act

/-! Registers of a group. -/

/-- The value in a register, whatever is outstanding on it. Codes are those of R38. -/
def Group.reg (g : Group) (slot code : Nat) : Word :=
  if code < 0x80 then ((g.thread? slot).map fun t => mget 0 t.x code).getD 0
  else if code < 0xC0 then mget 0 g.s (code - 0x80)
  else ((g.thread? slot).map fun t => BitVec.ofNat 32 (b2n (t.p.toNat.testBit (code - 0xE0)))).getD 0

/-- Whether a register code names a uniform register (R38). -/
def uniformCode (code : Nat) : Bool := decide (0x80 ≤ code) && decide (code < 0xC0)
/-- A register that is written holds no uncorrectable error any more (R456). -/
def Group.heal (g : Group) (slot code : Nat) : Group :=
  { g with ueRegs := g.ueRegs.filter fun b => !(b.2 == code && (b.1 == slot || uniformCode code)) }
/-- Put a value into a register. -/
def Group.setReg (g : Group) (slot code : Nat) (v : Word) : Group :=
  let g := g.heal slot code
  if code < 0x80 then g.modThread slot fun t => { t with x := mset 0 t.x code v }
  else if code < 0xC0 then { g with s := mset 0 g.s (code - 0x80) v }
  else g.modThread slot fun t =>
    { t with p := if v.toNat.testBit 0 then t.p ||| BitVec.ofNat 24 (1 <<< (code - 0xE0))
                  else t.p &&& ~~~ BitVec.ofNat 24 (1 <<< (code - 0xE0)) }

/-- The place of the free choice whether a read sees a write not waited on (R48): one for each write, lane and read, so that both halves of
a pair are seen alike; one for all reads of the instruction where the pair is MXPACK's (R87). -/
def Hazard.site (h : Hazard) (slot site : Nat) : Nat := 2 ^ 40 + 4096 * h.born + 64 * slot + (if h.mx then 63 else site)
/-- What a read returns of the writes not waited on, the newest first: it goes back past each write that it does not see (R48). -/
def pickOld (unseen : Hazard → Bool) (v : Word) : List Hazard → Word
  | [] => v
  | h :: hs => if unseen h then pickOld unseen (h.old.getD v) hs else v
/-- One read of a register: the register's value, or by a free choice the one before a write not waited on (R48). -/
def Iss.reg (e : Iss) (slot code site : Nat) : Word :=
  pickOld (fun h => Config.freeBool e.s.draws (h.site slot site)) (e.g.reg slot code)
    (e.g.hazards.filter fun h => h.slot == slot && h.code == code && h.old.isSome).reverse

/-- Whether a fixed-latency write is in place at an issue of a head set (R44). -/
def Hazard.inPlace (head : List Nat) (weight : Nat) (h : Hazard) : Bool :=
  match h.till with
  | .dist n => head.contains h.slot && decide (n ≤ weight)
  | .tok _ _ => false
/-- Writes not waited on, without those in place and without those that a newer write in place has overwritten (R45). -/
def outstanding (done : Hazard → Bool) : List Hazard → List Hazard
  | [] => []
  | h :: hs =>
    if done h || (h.old.isSome && hs.any fun k => done k && k.slot == h.slot && k.code == h.code) then outstanding done hs
    else h :: outstanding done hs
/-- The issue's thread distances grow by the weight of the instruction; a fixed-latency result whose distance is reached is
in place (R44). -/
def Group.advance (g : Group) (head : List Nat) (weight : Nat) : Group :=
  { g with hazards := (outstanding (Hazard.inPlace head weight) g.hazards).map fun h =>
      match h.till with
      | .dist n => if head.contains h.slot then { h with till := .dist (n - weight) } else h
      | .tok _ _ => h }

/-- A fixed-latency write of a register at distance `lat` (R44, R45, R48). A token-class write that is made and not waited on stays, so that
both words of its pair are seen alike (R87). -/
def Group.putFixed (g : Group) (lat slot code : Nat) (v : Word) : Group :=
  let old := g.reg slot code
  let hs := g.hazards.map fun h =>
    if h.slot = slot && h.code = code then
      match h.till, h.old with
      | .dist n, _ => { h with till := .dist (min n lat) }
      | .tok _ _, some _ => h
      | .tok _ _, none => { h with clob := true, rival := 0 }
    else h
  { g.setReg slot code v with hazards := hs ++ [{ slot, code, old := some old, till := .dist lat }] }

/-- Count one more operation on a token; every earlier destination of the token has one more operation posted after it
(R46, R297). -/
def Group.post (g : Group) (t : Nat) : Group :=
  { g with tok := mset 0 g.tok t (mget 0 g.tok t + 1)
           hazards := g.hazards.map fun h =>
             match h.till with
             | .tok t' c => if t' = t then { h with till := .tok t' (c + 1) } else h
             | .dist _ => h }
/-- Count one operation of a token down. -/
def Group.unpost (g : Group) (t : Nat) : Group := { g with tok := mset 0 g.tok t (mget 0 g.tok t - 1) }

/-- A register is the destination of an operation just posted on a token (R47). -/
def Group.expect (g : Group) (op t slot code : Nat) : Group :=
  let hs := g.hazards.map fun h =>
    if h.slot = slot && h.code = code && h.old.isNone then { h with clob := true, rival := 0 } else h
  { g with hazards := hs ++ [{ slot, code, old := none, till := .tok t 1, op := some op }] }

/-- The writes that an issue has just entered are those of its number (R87). -/
def Group.stamp (g : Group) (n : Nat) (mx : Bool) : Group :=
  { g with hazards := g.hazards.map fun h =>
      { h with born := if h.born = 0 then n + 1 else h.born
               rival := if h.clob && h.rival == 0 then n + 1 else h.rival
               mx := if h.born = 0 then mx else h.mx } }

/-- Whether the value of another write made meanwhile stays when an operation's result lands: a free choice of each lane and each pair of
writes (R48, R87). -/
def Hazard.keeps (h : Hazard) (draws slot : Nat) : Bool := h.clob && Config.freeBool draws (2 ^ 39 + 64 * h.rival + slot)
/-- A hazard whose write is made: its old value is known, and it is the newest. -/
def Group.landHazards (g : Group) (p : Hazard → Bool) (old : Word) : List Hazard :=
  (g.hazards.filter fun h => !p h) ++ (g.hazards.filter p).map fun h => { h with old := some old }
/-- The write of an outstanding operation reaches its register (R46); where another write was made meanwhile, either value
stays (R48). -/
def Group.land (g : Group) (draws op slot code : Nat) (v : Word) : Group :=
  match g.hazards.find? fun h => h.slot == slot && h.code == code && h.op == some op with
  | none => g.setReg slot code v
  | some h =>
    let cur := g.reg slot code
    let g := if h.keeps draws slot then g else g.setReg slot code v
    { g with hazards := g.landHazards (fun h => h.slot == slot && h.code == code && h.op == some op) cur }

/-- A wait on a token at a threshold has completed: the destinations it covers may be read (R297). -/
def Group.waited (g : Group) (t k : Nat) : Group :=
  { g with hazards := g.hazards.filter fun h => match h.till with | .tok t' c => !(t' == t && decide (k + 1 ≤ c)) | .dist _ => true }

/-! Special registers (R42, R24 to R26). -/

/-- The lanes active for the instruction, as %activelo and %activehi give them to a thread; in a guest group those of the thread's own
origin group (log entry 76). -/
def Iss.activeMask (e : Iss) (slot : Nat) : BitVec 64 := maskOf ((e.peers slot).map fun n => (e.thread n).lane)

/-- A special register, and the thread after the read (the latches of R24). -/
def Iss.special (e : Iss) (t : Thread) (r : SReg) : Word × Thread :=
  let n (v : Nat) : Word × Thread := (BitVec.ofNat 32 v, t)
  let wg := e.w.getD { ctx := 0, launch := 0, threads := 0, regs := 0 }
  let core := match t.origin with | some o => o.core | none => wg.seenCore
  match r with
  | .lane => n t.lane
  | .group => n e.gi
  | .wg => n wg.wg
  | .wgx => n wg.wx
  | .wgy => n wg.wy
  | .wgz => n wg.wz
  | .ngroups => n wg.groups.length
  | .core => n wg.seenCore
  | .pcore => n e.p
  | .cluster => n (clusterOf wg.seenCore)
  | .die => n (dieOf wg.seenCore)
  | .cyclelo => let v := e.s.cycles e.p
      (BitVec.ofNat 32 v, { t with cycHigh := some (BitVec.ofNat 32 (v / 2 ^ 32)) })
  | .cyclehi => (t.cycHigh.getD (BitVec.ofNat 32 (e.s.cycles e.p / 2 ^ 32)), { t with cycHigh := none })
  | .timelo => (BitVec.ofNat 32 e.s.ticks, { t with timeHigh := some (BitVec.ofNat 32 (e.s.ticks / 2 ^ 32)) })
  | .timehi => (t.timeHigh.getD (BitVec.ofNat 32 (e.s.ticks / 2 ^ 32)), { t with timeHigh := none })
  | .hop => n t.hop
  | .origin => n core
  | .ctx => n (e.s.ctxAt e.p e.gi t.slot)
  | .temp => (BitVec.ofInt 32 (e.s.core e.p).temp, t)
  | .gang => n wg.gang
  | .activelo => n ((e.activeMask t.slot).toNat % 2 ^ 32)
  | .activehi => n ((e.activeMask t.slot).toNat / 2 ^ 32)

/-! Sources. -/

/-- How an operand is read: its width, and the extension of a literal to 64 bits (R43). -/
inductive RdAs where
  | w32 | w64z | w64s
deriving DecidableEq, Repr

def RdAs.of (ty : Ty) : RdAs :=
  match ty with
  | .n64 => .w64z
  | .i64 | .b64 => .w64s
  | _ => .w32

/-- One source of one thread (R38 to R43), zero-extended to 64 bits, and the thread after the read. -/
def Iss.src (e : Iss) (t : Thread) (site : Nat) (as : RdAs) (o : Src) : DWord × Thread :=
  let rd (code : Nat) : DWord :=
    match as with
    | .w32 => (e.reg t.slot code site).setWidth 64
    | _ => pairOf (e.reg t.slot code site) (e.reg t.slot (code + 1) site)
  match o with
  | .x n => (rd n, t)
  | .s n => (rd (0x80 + n), t)
  | .sr r => let (v, t) := e.special t r; (v.setWidth 64, t)
  | .p n => ((e.reg t.slot (0xE0 + n) site).setWidth 64, t)
  | .zero => (0, t)
  | .imm v => match as with
    | .w64s => (v.signExtend 64, t)
    | _ => (v.setWidth 64, t)

/-- The sources of one thread, read in order. -/
def Iss.srcs (e : Iss) (t : Thread) : Nat → List (RdAs × Src) → List DWord × Thread
  | _, [] => ([], t)
  | site, (a, o) :: os =>
    let (v, t) := e.src t site a o
    let (vs, t) := e.srcs t (site + 2) os
    (v :: vs, t)

/-- One lane's operand values. -/
structure LaneVals where
  slot : Nat
  vals : List DWord
deriving Repr

def LaneVals.a (l : LaneVals) : DWord := l.vals.getD 0 0
def LaneVals.b (l : LaneVals) : DWord := l.vals.getD 1 0
def LaneVals.c (l : LaneVals) : DWord := l.vals.getD 2 0

/-- The operands of every listed thread. -/
def Iss.read (e : Iss) (slots : List Nat) (os : List (RdAs × Src)) : List LaneVals :=
  slots.map fun n => ⟨n, (e.srcs (e.thread n) 0 os).1⟩

/-- The group after the reads of R24's halves by the listed threads. -/
def Iss.latch (e : Iss) (slots : List Nat) (os : List (RdAs × Src)) (g : Group) : Group :=
  if os.any fun o => match o.2 with | .sr .cyclelo | .sr .cyclehi | .sr .timelo | .sr .timehi => true | _ => false then
    g.modThreads slots fun t => let u := (e.srcs t 0 os).2; { t with cycHigh := u.cycHigh, timeHigh := u.timeHigh }
  else g

/-! Destinations. -/

/-- The word i of a value. -/
def wordOf (v : DWord) (i : Nat) : Word := BitVec.ofNat 32 (v.toNat / 2 ^ (32 * i))

/-- The register writes of a destination (R38 to R40): each active lane's value to its own x or p register, the lowest
active lane's to an s register. -/
def dstWrites (d : Dst) (words : Nat) (vals : List (Nat × DWord)) : List RegWrite :=
  match d with
  | .none => []
  | .s n => match vals with
    | [] => []
    | (slot, v) :: _ => (List.range words).map fun i => ⟨slot, 0x80 + n + i, wordOf v i⟩
  | d => vals.flatMap fun (slot, v) => (List.range words).map fun i => ⟨slot, d.code + i, wordOf v i⟩

/-- Fixed-latency writes; an s register's distance counts for every thread of the head set. -/
def Group.writeFixed (g : Group) (head : List Nat) (lat : Nat) (ws : List RegWrite) : Group :=
  ws.foldl (fun g w =>
    if 0x80 ≤ w.code && w.code < 0xC0 then
      let old := g.reg w.slot w.code
      let g := head.foldl (fun g n => { g.putFixed lat n w.code old with s := g.s }) g
      { g.heal w.slot w.code with s := mset 0 g.s (w.code - 0x80) w.v }
    else g.putFixed lat w.slot w.code w.v) g

/-- Which lanes' registers a token-class write concerns: every thread of the head set for an s register. -/
def Group.expectAll (g : Group) (head : List Nat) (op t : Nat) (ws : List (Nat × Nat)) : Group :=
  ws.foldl (fun g w =>
    if 0x80 ≤ w.2 && w.2 < 0xC0 then head.foldl (fun g n => g.expect op t n w.2) g else g.expect op t w.1 w.2) g

/-- Token-class writes land (R46). -/
def Group.landAll (g : Group) (draws op : Nat) (ws : List RegWrite) : Group :=
  ws.foldl (fun g w =>
    if 0x80 ≤ w.code && w.code < 0xC0 then
      let cur := g.reg w.slot w.code
      let keep := g.hazards.any fun h => h.code == w.code && h.op == some op && h.keeps draws 0
      { g.heal w.slot w.code with
        s := if keep then g.s else mset 0 g.s (w.code - 0x80) w.v
        hazards := g.landHazards (fun h => h.code == w.code && h.op == some op) cur }
    else g.land draws op w.slot w.code w.v) g

end Sys2Proof.Machine
end

