-- ==== Sys2Proof/Machine/ArrayMath.lean ====
section
/-! DEFINITION. The arithmetic of the charge-sharing arrays (spec/03_number_formats.md R79 to R83, spec/05_array_engine.md R117
to R138, spec/06_matrix_instructions.md R156 to R159, R172): blocks and their alignment, conversion, checks, terms and partial
sums. Block integers are kept in sixteenths of a count. -/

namespace Sys2Proof.Machine

/-! Blocks. -/

/-- A block as it is stored or captured: TAG, SCALE and 32 element codes (R79). -/
structure Raw where
  tag : Nat
  scale : Nat
  codes : List Nat
deriving DecidableEq, Repr

/-- The element codes of a payload (R79). -/
def codesOf (tag pay : Nat) : List Nat := (List.range 32).map fun i => (pay >>> (tagBits tag * i)) % 2 ^ tagBits tag
/-- A block slot read as bytes, lowest first. -/
def rawOf (bs : List Byte) : Raw :=
  let v := bs.foldr (fun b a => b.toNat + 256 * a) 0
  { tag := v % 256, scale := v / 256 % 256, codes := codesOf (v % 256) (v / 65536) }
/-- Whether an element is NaN or infinite (R81). -/
def specialCode (tag c : Nat) : Bool := match tagFmt tag with | none => false | some m => m.isNan c || m.isInf c

/-- AlignBlock and AlignGroup (R81, R126): aligned integers and the common exponent. -/
def alignCodes (tag : Nat) (codes : List Nat) : List Int × Int :=
  match tagFmt tag with
  | none => (codes.map (signedOf 8), -6)
  | some m =>
    let L := tagWidth tag - 2 - m.f
    let live := codes.filter fun c => !specialCode tag c && m.sig c != 0
    let emax := match live with
      | [] => 0
      | c :: cs => cs.foldl (fun a c => max a (m.exp c)) (m.exp c)
    let one (c : Nat) : Int :=
      if specialCode tag c || m.sig c = 0 then 0
      else
        let v : Int := ((m.sig c * 2 ^ L) >>> (emax - m.exp c).toNat : Nat)
        if m.sign c then -v else v
    (codes.map one, emax - L)

/-- A block aligned on its own (R81, R123); of a NaN block the integers and X are zeros (log entry 92). -/
def blockOf (r : Raw) : ABlock :=
  if r.tag = 0x80 then {}
  else if r.scale = 0xFF then { tag := r.tag, scale := 0xFF, a := List.replicate 32 0, zero := false, nan := true }
  else
    let (a, x) := alignCodes r.tag r.codes
    { tag := r.tag, scale := r.scale, x, a, zero := false, special := r.codes.any (specialCode r.tag) }
/-- Whether four blocks are all zero blocks (R126). -/
def groupEmpty (bs : List ABlock) : Bool := bs.all (·.zero)
/-- Whether they form an eligible group (R126). -/
def groupEligible (bs : List ABlock) : Bool :=
  bs.all fun b => !b.zero && !b.nan && !b.special && b.tag == (bs.headD {}).tag && b.scale == (bs.headD {}).scale
/-- The four blocks of a column or row in dense residence (R125): an eligible group is aligned as a whole. -/
def groupOf (rs : List Raw) : List ABlock :=
  let bs := rs.map blockOf
  if groupEligible bs then
    let (a, x) := alignCodes (bs.headD {}).tag (rs.flatMap (·.codes))
    bs.mapIdx fun k b => { b with x, a := (a.drop (32 * k)).take 32, grouped := true }
  else bs

/-- Whether a block is rejected by R80 or R122 in a slot and a tile width. -/
def blockRejected (slot width : Nat) (r : Raw) : Bool :=
  !tagKnown r.tag || decide (slot < tagSlot r.tag) || (r.tag != 0x80 && decide (width < tagWidth r.tag))

/-! The operand B (R127, R156). -/

/-- Block k of B that is block c of sub-array q's K range (R127). -/
def kOf (sh : Shape) (q c : Nat) : Nat :=
  match sh with
  | .ind | .w4 => c
  | .sq => 4 * (q / 2) + c
  | .d4 => 4 * q + c
/-- The captured blocks of B: row m, block k at 4 nb m + k; none where the header lane does not supply (R156). -/
def captureB (sh : Shape) (caps : List Capture) : List BBlock :=
  let nb := sh.groups
  (List.range 16).flatMap fun m => (List.range (4 * nb)).map fun k =>
    let j := k / nb; let c := k % nb
    let at_ (l : Nat) : Option Capture := caps.find? fun x => x.group % 4 == j && x.lane == l
    { hdr := (at_ (4 * m + c)).map (·.hdr)
      codes := (List.range 4).flatMap fun p => match at_ (4 * m + p) with
        | none => List.replicate 8 0
        | some x => (List.range 8).map fun i => ((x.words.getD (2 * c + i / 4) 0).toNat >>> (8 * (i % 4))) % 256 }
/-- A captured block as a raw block: element codes in their low bits; a missing header makes a zero block. -/
def BBlock.raw (b : BBlock) : Raw :=
  match b.hdr with
  | none => { tag := 0x80, scale := 0, codes := [] }
  | some h => let tag := h % 256; { tag, scale := h / 256 % 256, codes := b.codes.map (· % 2 ^ tagBits tag) }
/-- The four raw blocks of row m that sub-array q uses. -/
def Job.row (j : Job) (q m : Nat) : List Raw :=
  let nb := j.rcd.shape.groups
  (List.range 4).map fun c => (j.b.getD (4 * nb * m + kOf j.rcd.shape q c) {}).raw

/-! One sub-array's part of an MMA. -/

/-- What a pass works on in a sub-array: A by column and block, B by row and block, and whether it runs in dense mode. -/
structure PassIn where
  q : Nat
  dense : Bool
  a : Array (Array ABlock)
  b : Array (Array ABlock)
  raws : Array (Array Raw)

def ABlock.resolved (x : ABlock) : Bool := x.nan || x.special
def dotInts (a b : List Int) : Int := (a.zipWith (· * ·) b).foldl (· + ·) 0
/-- The pair's integer is converted (R128): neither block a zero block or resolved. -/
def converted (a b : ABlock) : Bool := !a.zero && !b.zero && !a.resolved && !b.resolved
/-- A resolved pair (R128). -/
def resolvedPair (a b : ABlock) : Bool := !a.zero && !b.zero && (a.resolved || b.resolved)

/-- The operands of an MMA in sub-array q, with the choice of R131. -/
def passIn (j : Job) (q : Nat) (t : Tile) : PassIn :=
  let a := ((List.range 128).map fun n => ((List.range 4).map fun k => t.blocks.getD (4 * n + k) {}).toArray).toArray
  let raws := (List.range 16).map (j.row q)
  let grouped := raws.map groupOf
  let ok (g : List ABlock) : Bool := groupEmpty g || groupEligible g
  let dense := j.rcd.dense && t.dense && a.toList.all (fun c => ok c.toList) && grouped.all ok
  { q, dense, a, b := ((if dense then grouped else raws.map fun r => r.map blockOf).map (·.toArray)).toArray
    raws := (raws.map (·.toArray)).toArray }
def PassIn.colA (x : PassIn) (n : Nat) : List ABlock := (x.a.getD n #[]).toList
def PassIn.rowB (x : PassIn) (m : Nat) : List ABlock := (x.b.getD m #[]).toList
/-- What one conversion covers: block k, or in dense mode the group. -/
def PassIn.parts (x : PassIn) : List Nat := if x.dense then [0] else [0, 1, 2, 3]
/-- The blocks of a column or row that one conversion covers, as one block. -/
def PassIn.join (x : PassIn) (bs : List ABlock) (k : Nat) : ABlock :=
  if x.dense then { bs.headD {} with a := bs.flatMap (·.a) } else bs.getD k {}

/-- The repeat n of a code (R59). -/
def repeatOf (code : Nat) : Nat := 2 ^ code
/-- R120's bound in quarter counts. -/
def boundQ : Nat → Nat
  | 0 => 8
  | 1 => 6
  | 2 => 4
  | 3 => 3
  | _ => 0
/-- The deviation of a dense conversion in sixteenths: a free multiple of 1/n within the bound (R120, R121). -/
def denseOff (draws place rep : Nat) : Int :=
  let n := repeatOf rep
  let b := boundQ rep * n / 4
  ((Config.freeNat draws place % (2 * b + 1) : Nat) - (b : Int)) * (16 / n : Nat)

/-- Injected and suffered errors of a conversion (R118, R174): counts at sub-array, block, row (16 and 17 the high and low
checksum parts) and column. -/
abbrev Errs := List (Nat × Nat × Nat × Nat × Int)
def errAt (es : Errs) (x : PassIn) (k m n : Nat) : Int :=
  es.foldl (fun s e => if e.1 = x.q && (x.dense || e.2.1 = k) && e.2.2.1 = m && e.2.2.2.1 = n then s + e.2.2.2.2 else s) 0
/-- The errors that an armed CKINJ stands for (R174). -/
def injErrs (v : Word) : Errs :=
  let w := v.toNat
  let e (n : Nat) : Nat × Nat × Nat × Nat × Int := (bits w 29 28, bits w 27 26, bits w 25 21, n, signedOf 8 w)
  e (bits w 20 14) :: if bit w 30 then [e ((bits w 20 14 + 64) % 128)] else []

/-- The checksum row of block k (R134): the sum of the rows that are not resolved. -/
def PassIn.checkRow (x : PassIn) (k : Nat) : List Int :=
  (List.range 16).foldl (fun s m =>
    let b := x.join (x.rowB m) k
    if b.resolved || b.zero then s else s.zipWith (· + ·) b.a) (List.replicate (if x.dense then 128 else 32) 0)

/-- Convert a sub-array's part (R128, R129, R134): its staging contents and the number of conversions. -/
def PassIn.convert (x : PassIn) (draws rep sw : Nat) (es : Errs) : Stage × Nat :=
  let free := x.dense && decide (rep < 4)
  let conv (place k m n : Nat) (d : Int) : Int :=
    16 * (d + errAt es x k m n) + (if free then denseOff draws (2 ^ 20 * (x.q + 1) + place) rep else 0)
  let np := x.parts.length
  let d := (List.range 16).flatMap fun m => (List.range 128).flatMap fun n => x.parts.map fun k =>
    let a := x.join (x.colA n) k; let b := x.join (x.rowB m) k
    if converted a b then some (conv ((128 * m + n) * np + k) k m n (dotInts a.a b.a)) else none
  let half : Int := 2 ^ (widthOf sw - 1)
  let rows := x.parts.map x.checkRow
  let d17 := (List.range 128).flatMap fun n => x.parts.map fun k =>
    let a := x.join (x.colA n) k
    if a.zero || a.resolved then none
    else
      let c := rows.getD k []
      let l := c.map (· % half)
      let h := c.map (· / half)
      some (conv (2 ^ 16 + 2 * (n * np + k)) k 16 n (dotInts a.a h), conv (2 ^ 16 + 2 * (n * np + k) + 1) k 17 n (dotInts a.a l))
  ({ q := x.q, dense := x.dense, d, d17 }, (d.filter (·.isSome)).length + 2 * (d17.filter (·.isSome)).length)

/-! Checks (R135 to R137, R172). -/

/-- A failed check: sub-array, block, row or column, deficit E − O in sixteenths, tolerance in 1/64 counts. -/
structure Bad where
  q : Nat
  k : Nat
  i : Nat
  delta : Int
  tau : Nat
deriving DecidableEq, Repr

/-- The tolerance of a check in 1/64 counts (R172): `w` is its weight, `tags` those of its A blocks. -/
def tauOf (cktol : Nat → Nat) (dense : Bool) (rep w : Nat) (tags : List Nat) : Nat :=
  tags.foldl (fun t g => max t (if dense then bits (cktol g) 23 16 * boundQ rep * w else 64 * bits (cktol g) 15 0)) 0
/-- The failed column and row checks of a sub-array. -/
def PassIn.checks (x : PassIn) (st : Stage) (cktol : Nat → Nat) (rep sw : Nat) : List Bad × List Bad :=
  let np := x.parts.length
  let d := st.d.toArray
  let d17 := st.d17.toArray
  let at_ (m n k : Nat) : Option Int := (d.getD ((128 * m + n) * np + k) none)
  let sum (l : List (Option Int)) : Int := l.foldl (fun s v => s + v.getD 0) 0
  let count (l : List (Option Int)) : Nat := (l.filter (·.isSome)).length
  let exceeds (delta : Int) (tau : Nat) : Bool := decide (tau < 4 * delta.natAbs)
  let cols := x.parts.flatMap fun k =>
    let good := (List.range 128).filter fun n => !(x.join (x.colA n) k).resolved
    let live := good.filter fun n => !(x.join (x.colA n) k).zero
    let sa := live.foldl (fun s n => s.zipWith (· + ·) (x.join (x.colA n) k).a) (List.replicate (if x.dense then 128 else 32) 0)
    let tags := (live.map fun n => (x.join (x.colA n) k).tag).eraseDups
    (List.range 16).filterMap fun m =>
      let b := x.join (x.rowB m) k
      if b.resolved then none
      else
        let os := good.map fun n => at_ m n k
        let e := if b.zero then 0 else 16 * dotInts b.a sa
        let tau := tauOf cktol x.dense rep (count os) tags
        if exceeds (e - sum os) tau then some { q := x.q, k, i := m, delta := e - sum os, tau } else none
  let rows := x.parts.flatMap fun k =>
    (List.range 128).filterMap fun n =>
      let a := x.join (x.colA n) k
      if a.resolved then none
      else
        let os := (List.range 16).map fun m => at_ m n k
        let (h, l) := (d17.getD (n * np + k) none).getD (0, 0)
        let e := h * 2 ^ (widthOf sw - 1) + l
        let tau := tauOf cktol x.dense rep (count os + 2 ^ (widthOf sw - 1) + 1) (if a.zero then [] else [a.tag])
        if exceeds (e - sum os) tau then some { q := x.q, k, i := n, delta := e - sum os, tau } else none
  (cols, rows)

/-- The located element of a single failure (R137): sub-array, block, row, column and the deficit in counts. -/
def singleOf (exact : Nat → Bool) (cols rows : List Bad) : Option (Nat × Nat × Nat × Nat × Int) :=
  match cols, rows with
  | [c], [r] =>
    if c.q = r.q && c.k = r.k && exact c.q && decide (4 * (c.delta - r.delta).natAbs ≤ max c.tau r.tau)
    then some (c.q, c.k, c.i, r.i, c.delta / 16) else none
  | _, _ => none

/-! Terms and sums (R83, R128, R130). -/

/-- The term of a converted pair, its integer in sixteenths (R130). -/
def termOf (d : Int) (sA sB : Nat) (xA xB : Int) : Nat :=
  fp32.round .rne false ⟨decide (d < 0), d.natAbs, (sA : Int) + sB - 254 + xA + xB - 4⟩
/-- The term of a resolved pair (R128). -/
def resolvedTerm (a b : ABlock) (raw : Raw) : Nat :=
  if b.nan || a.resolved then fp32.canon
  else match tagFmt raw.tag with
  | none => fp32.canon
  | some m =>
    if raw.codes.any m.isNan then fp32.canon
    else
      let infs := (raw.codes.zip a.a).filter fun e => m.isInf e.1
      if infs.any fun e => e.2 == 0 then fp32.canon
      else
        let signs := infs.map fun e => m.sign e.1 != decide (e.2 < 0)
        if signs.any (· != signs.headD false) then fp32.canon else fp32.infinity (signs.headD false)
/-- FP32 addition to nearest (R83). -/
def addRne (a b : Nat) : Nat := fAdd .f32 .rne false false a b
/-- The partial P of element (m, n) in a sub-array (R83, R130). -/
def PassIn.partialSum (x : PassIn) (d : Array (Option Int)) (m n : Nat) : Nat :=
  let np := x.parts.length
  x.parts.foldl (fun p k =>
    let a := x.join (x.colA n) k; let b := x.join (x.rowB m) k
    let t := match d.getD ((128 * m + n) * np + k) none with
      | some v => termOf v a.scale b.scale a.x b.x
      | none => if resolvedPair a b then resolvedTerm a b ((x.raws.getD m #[]).getD k { tag := 0x80, scale := 0, codes := [] }) else 0
    addRne p t) 0
/-- MACs of the pairs of a sub-array that are not zero pairs, by accounting counter (R176). -/
def PassIn.macs (x : PassIn) : List (Nat × Nat) :=
  (List.range 16).foldl (fun acc m => (List.range 128).foldl (fun acc n => x.parts.foldl (fun acc k =>
    let a := x.join (x.colA n) k; let b := x.join (x.rowB m) k
    if a.zero || b.zero then acc
    else
      let c := if x.dense then 6 + a.tag else a.tag
      minsert acc c (mget 0 acc c + if x.dense then 128 else 32)) acc) acc) []
/-- The accumulator tiles that an MMA writes (R159), as pairs of sub-array and accumulator. -/
def MmaRec.tiles (r : MmaRec) : List (Nat × Nat) :=
  let qs := match r.shape with
    | .ind | .w4 => (List.range 4).filter (r.qmask.testBit ·)
    | .sq => [0, 1]
    | .d4 => [0]
  qs.map fun q => (q, r.acc)
/-- The combined value S of element (m, n) of the tile of sub-array q (R83). -/
def combineOf (sh : Shape) (ps : Nat → Nat) (q : Nat) : Nat :=
  match sh with
  | .ind | .w4 => ps q
  | .sq => addRne (ps q) (ps (2 + q))
  | .d4 => addRne (addRne (addRne (ps 0) (ps 1)) (ps 2)) (ps 3)

end Sys2Proof.Machine
end

