-- ==== Sys2Proof/Machine/Logs.lean ====
section
/-! DEFINITION. The health log of a partition (spec/18_containment.md R461), what a read of a stack's columns records of errors
(spec/10_async_engines.md R274, spec/18_containment.md R451), and the columns and flits that an access moves (spec/16_identity_accounting.md
R407, R416; spec/18_containment.md R474). -/

namespace Sys2Proof.Machine

/-- The site of a free value: purpose and place. -/
def site (purpose k : Nat) : Nat := 8192 + 4096 * purpose + k

/-! The package's own writes to control node memory (R476). -/

/-- Whether the control port is lost, or trains: its traffic is held meanwhile (R475, R476). -/
def State.ctlLost (s : State) : Bool := (mfind s.ports 0).any fun p => !p.up && (p.rate == 3 || p.training.isSome)
/-- A write reaches control node memory. -/
def State.ctlPut (s : State) (x : Nat × Nat × Nat) : State := (s.clearPoison x.1 x.2.1).write x.1 x.2.1 x.2.2
/-- The package writes n bytes at a place of control node memory; while the control port is lost the write waits (R476). -/
def State.ctlWrite (s : State) (k n v : Nat) : State := if s.ctlLost then { s with ctlWaits := s.ctlWaits ++ [(k, n, v)] } else s.ctlPut (k, n, v)
/-- What has waited is written (R476). -/
def State.ctlDrain (s : State) : State := s.ctlWaits.foldl State.ctlPut { s with ctlWaits := [] }
/-- n bytes of control node memory with what the package has written there, held or not. -/
def State.ctlRead (s : State) (k n : Nat) : Nat := memRead (s.ctlWaits.foldl (fun m x => memWrite m x.1 x.2.1 x.2.2) s.mem) k n

/-! Rings (R461). -/

/-- Enter a 32-byte entry into a ring whose header holds HEAD in bytes 0 to 3 and LOST in bytes 4 to 7 (R461), both counted modulo 2^32;
answers the state and the entries made. SEQ is added here. -/
def State.ringPut (s : State) (base cap prod entry : Nat) : State × Nat :=
  if cap ≤ (prod % 2 ^ 32 + 2 ^ 32 - s.ctlRead (ctlKey base) 4) % 2 ^ 32 then
    (s.ctlWrite (ctlKey (base + 4)) 4 (s.ctlRead (ctlKey (base + 4)) 4 + 1), prod)
  else (s.ctlWrite (ctlKey (base + 32 * (1 + prod % cap))) 32 (entry + (prod + 1) % 2 ^ 32), prod + 1)
/-- Enter an event into the health log of the partition of a die (R461). -/
def State.healthLog (s : State) (die kind index addr detail : Nat) : State :=
  match s.partOf die with
  | none => s
  | some (k, q) =>
    let e := 2 ^ 32 * kind + 2 ^ 40 * die + 2 ^ 48 * index + 2 ^ 64 * s.ticks + 2 ^ 128 * addr + 2 ^ 192 * detail
    let (s, n) := s.ringPut (q.stopBase + 17 * 2 ^ 20) 32767 q.health e
    s.modPart k fun q => { q with health := n }

/-! Reads of columns (R274, R451). -/

/-- The bank key of a place in a stack (R273). -/
def bankKey (key : Nat) : Nat := 1024 * (key / 2 ^ 36) + bits (key % 2 ^ 36) 17 8
/-- One uncorrectable column read at a stack, as NMU_BERR of its bank records it (R274). -/
def State.bankUe (s : State) (key : Nat) : State :=
  if 2 ^ 40 ≤ key then s else
  let q := key % 2 ^ 36
  let old := (mget 0 s.berr (bankKey key)).toNat
  let col := bits q 20 18 * 8 + bits q 7 5
  let v := 2 ^ 31 + (if bit old 31 then 2 ^ 30 else 2 ^ 30 * bits old 30 30) + 2 ^ 24 * col + 2 ^ 8 * bits q 35 21 + bits old 7 0
  { s with berr := minsert s.berr (bankKey key) (BitVec.ofNat 32 v) }
/-- A corrected error in a bank: CE advances; that it has reached 0xFF is logged before the next step's event (R274, R461; log entry 115). -/
def State.bankCe (s : State) (key : Nat) : State :=
  let old := (mget 0 s.berr (bankKey key)).toNat
  if bits old 7 0 = 0xFF then s
  else
    { s with berr := minsert s.berr (bankKey key) (BitVec.ofNat 32 (old + 1))
             ceDue := if bits old 7 0 = 0xFE then s.ceDue ++ [key] else s.ceDue }
/-- The entries of the banks whose CE has reached 0xFF go into the log (R461). -/
def State.logDue (s : State) : State :=
  s.ceDue.foldl (fun s key => s.healthLog (key / 2 ^ 37) 2 (bankKey key) (key % 2 ^ 36) 0) { s with ceDue := [] }
/-- The 32-byte columns, or granules, that n bytes from a place touch. -/
def columnsOf (k n : Nat) : List Nat := (List.range ((k + n + 31) / 32 - k / 32)).map fun i => k / 32 + i
/-- One column of a stack is read, by whatever unit (R274, R451): an uncorrectable one is recorded, and a single-bit error is corrected and
counted (log entry 115). -/
def State.columnRead (s : State) (col : Nat) : State :=
  if (mfind s.poison col).isSome then s.bankUe (32 * col)
  else if s.weak.contains col then { s with weak := s.weak.erase col }.bankCe (32 * col)
  else s
/-- The columns of a stack among n bytes are read: those that hold an error are the ones that leave a trace. -/
def State.readUe (s : State) (key n : Nat) : State :=
  if 2 ^ 40 ≤ key then s
  else ((s.poison.map (·.1) ++ s.weak.eraseDups).filter fun c => decide (key < 32 * c + 32) && decide (32 * c < key + n)).foldl State.columnRead s

/-! What an access moves (R407). -/

/-- The lines that n bytes from a place touch. -/
def linesOf (k n : Nat) : List Nat := (List.range ((k + n + 127) / 128 - k / 128)).map fun i => k / 128 + i
/-- HBM bytes of an access to n bytes (R407 counters 17, 18): 32 for each column that moves. A line of a MEMSIDE page moves the columns
touched; caches stand before any other, and which columns of its lines are read, or written back, is free (log entry 65), but that a read of a poisoned
column goes to the stack. -/
def State.hbm (s : State) (ctx k n : Nat) (memside write : Bool) : State :=
  if 2 ^ 40 ≤ k then s else
  let near := (linesOf k n).flatMap fun l => columnsOf (128 * l) 128
  let bad (c : Nat) : Bool := !write && (columnsOf k n).contains c && (mfind s.poison c).isSome
  let free (c : Nat) : Bool := Config.freeBool s.draws (site 5 (2 * (c % 2048)))
  let rd := if memside && !write then columnsOf k n else near.filter fun c => bad c || free c
  let met := if memside && !write then columnsOf k n else near.filter fun c => bad c || (((mfind s.poison c).isSome || s.weak.contains c) && free c)
  let wr := if !write then [] else if memside then columnsOf k n
    else near.filter fun c => Config.freeBool s.draws (site 5 (2 * (c % 2048) + 1))
  ((met.foldl State.columnRead s).count ctx 17 (32 * rd.length)).count ctx 18 (32 * wr.length)

/-! Links (R416, R474). -/

/-- The ports that can take a flit for a place outside the package now: the control port, or the scale-up ports that are up, lead to its
package and have room in their replay buffers. -/
def State.portsTo (s : State) (key : Nat) : List Nat :=
  (s.ports.filter fun e => e.2.up && decide (e.2.sent < 256) &&
    (if key < 2 ^ 54 then e.1 != 0 && decide (e.1 ≤ 36) && Config.peer e.1 % 1024 == (key - 2 ^ 52) / 2 ^ 40 else e.1 == 0)).map (·.1)
/-- The port that takes it: traffic is spread over them (R416), by a free choice. -/
def State.portTo (s : State) (key : Nat) : Option Nat :=
  if key < 2 ^ 52 || 2 ^ 56 ≤ key then none
  else let ps := s.portsTo key; ps[Config.freeNat s.draws (2 ^ 201 + 4 * key) % ps.length]?
/-- The number of the link between two dies. -/
def dieLink (a b : Nat) : Nat := 64 + 8 * min a b + max a b
/-- The link that a die's traffic to a stack goes over: none to a stack of its own (R10, R474). -/
def linkTo (die key : Nat) : Option Nat := if key < 2 ^ 40 && key / 2 ^ 37 != die then some (dieLink die (key / 2 ^ 37)) else none
/-- A die-to-die link; it carries traffic from reset. -/
def State.dieLinkOf (s : State) (n : Nat) : Port := mget { up := true, lanes := 15 } s.ports n
/-- Whether an access of a die to a place can be made now: traffic to another package or to the control node waits while no port takes it, that to
another die's stack while the link's sender holds 256 flits, or retrains (R416, R474, R476). -/
def State.reaches (s : State) (die key : Nat) : Bool :=
  if key < 2 ^ 52 || 2 ^ 56 ≤ key then (linkTo die key).all fun n => (s.dieLinkOf n).up && decide ((s.dieLinkOf n).sent < 256)
  else !(s.portsTo key).isEmpty
/-- Flits sent over a link and kept until they are acknowledged (R474). -/
def State.sendFlits (s : State) (n out : Nat) : State :=
  { s with ports := minsert s.ports n { s.dieLinkOf n with sent := (s.dieLinkOf n).sent + out } }
/-- The flits of an access of a die outside it: those sent are kept until they are acknowledged (R474), and those of a scale-up port are
counted when the link takes them (R407 counters 19, 20). How many flits an access takes is free (log entry 65). -/
def State.flits (s : State) (die ctx key : Nat) : State :=
  match linkTo die key with
  | some n => s.sendFlits n (1 + Config.freeNat s.draws (2 ^ 201 + 4 * key + 1) % (256 - (s.dieLinkOf n).sent))
  | none =>
  match s.portTo key with
  | none => s
  | some n =>
    let room := 256 - (mget {} s.ports n).sent
    let out := 1 + Config.freeNat s.draws (2 ^ 201 + 4 * key + 1) % room
    let s := { s with ports := mmod s.ports n fun p => { p with sent := p.sent + out } }
    if key < 2 ^ 54 then (s.count ctx 19 (32 * out)).count ctx 20 (32 * Config.freeNat s.draws (2 ^ 201 + 4 * key + 2)) else s

end Sys2Proof.Machine
end

