-- ==== Sys2Proof/Machine/Xlate.lean ====
section
/-! DEFINITION. Translation (spec/15_translation.md R380 to R388, R393 to R396): page-table entries, the walk, the core TLB. -/

namespace Sys2Proof.Machine

/-- Access kinds of R384. -/
inductive Acc where
  | read | write | rmw | fetch
deriving DecidableEq, Repr

def Acc.writes : Acc → Bool
  | .write | .rmw => true
  | _ => false
def Acc.reads : Acc → Bool
  | .read | .rmw => true
  | _ => false

/-- A refusal: trap cause and reason (R396). -/
structure Refuse where
  cause : Nat
  reason : Nat
deriving DecidableEq, Repr

/-- What a walk finds (R393); or that it must wait, since another package holds a write lease on the line of an entry (R192, R387). -/
inductive Walk where
  | leaf (size pte : Nat) | short (size pte : Nat) (entry : Nat) | long | refused (r : Refuse) | wait
deriving DecidableEq, Repr

def badPte : Walk := .refused ⟨0x10, 2⟩

/-! Fields of an entry (R381). -/
def pteV (e : Nat) : Bool := bit e 0
def pteLeaf (e : Nat) : Bool := bit e 1
def pteState (e : Nat) : Nat := bits e 3 2
def pteR (e : Nat) : Bool := bit e 4
def pteW (e : Nat) : Bool := bit e 5
def pteX (e : Nat) : Bool := bit e 6
def pteDO (e : Nat) : Bool := bit e 9
def pteMemside (e : Nat) : Bool := bit e 10
def pteTravel (e : Nat) : Bool := bit e 11
def pteReplicate (e : Nat) : Bool := bit e 12
def pteSnapshot (e : Nat) : Bool := bit e 13
def pteLease (e : Nat) : Nat := bits e 15 14
def pteFrame (e : Nat) : Nat := bits e 47 16 * 2 ^ 16
def pteStack (e : Nat) : Nat := bits e 51 48
def pteLoc (e : Nat) : Nat := bits e 53 52
def ptePkg (e : Nat) : Nat := bits e 63 54

/-- The index of a virtual address at a level (R380). -/
def vaIndex (va : Nat) : Nat → Nat
  | 4 => bits va 56 48
  | 3 => bits va 47 39
  | 2 => bits va 38 30
  | 1 => bits va 29 21
  | _ => bits va 20 16
/-- The page size of a leaf at a level (R380). -/
def leafSize : Nat → Nat
  | 2 => 2 ^ 30
  | 1 => 2 ^ 21
  | _ => 2 ^ 16

/-- Whether a leaf entry (V = 1, or STATE FILL) is malformed at a level (R383, R416). -/
def leafBad (own level e : Nat) : Bool :=
  decide (3 ≤ level) || decide (pteLoc e = 3) || decide (2 ≤ pteLease e) || (pteLoc e == 0 && pteLease e != 0)
    || bits e 8 7 != 0 || (pteLoc e != 1 && ptePkg e != 0) || (pteLoc e == 1 && (ptePkg e == own || decide (576 ≤ ptePkg e)))
    || (pteLoc e == 2 && pteStack e != 0) || pteFrame e % leafSize level != 0 || (pteLoc e != 2 && bits e 47 36 != 0)
    || (pteW e && !pteR e) || (pteReplicate e && pteLoc e != 0) || (pteMemside e && (pteReplicate e || pteLoc e == 2))
    || (pteSnapshot e && (level == 2 || !pteW e))
/-- Whether a table entry (V = 1, LEAF = 0) is malformed at a level (R381, R383). -/
def tableBad (level e : Nat) : Bool :=
  level == 0 || pteLoc e != 0 || ptePkg e != 0 || bits e 7 2 != 0 || bits e 47 36 != 0
    || (decide (2 ≤ level) && bits e 11 8 != 0)

/-- Whether a page of this package meets the frame region of a valid context (R385). -/
def State.protectedPage (s : State) (st off size : Nat) : Bool :=
  s.ctxs.any fun e => let d := e.2.desc
    d.valid && d.frslots != 0 && d.frstack == st && decide (off < (d.frbase + d.frslots) * 2 ^ 23) && decide (d.frbase * 2 ^ 23 < off + size)

/-- Whether a place is homed behind a lost containment structure (R463): in a stack, or in the scratchpad, of its die. -/
def State.lostAt (s : State) (k : Nat) : Bool :=
  (decide (k < 2 ^ 40) && s.lostHomes.contains (k / 2 ^ 37)) || (decide (2 ^ 58 ≤ k) && s.lostHomes.contains ((k - 2 ^ 58) / 2 ^ 28))
/-- Whether some granule of a range of places is poisoned (R452): the class of the lowest, if any. Behind a lost containment
structure everything reads as poison (R463). -/
def State.poisonAt (s : State) (k n : Nat) : Option Nat :=
  if s.lostAt k then some 0x0F
  else (s.poison.find? fun e => k / 32 ≤ e.1 && e.1 * 32 < k + n).map (·.2)

/-- Whether n bytes of a stack meet a retired frame (R464). -/
def State.anyRetired (s : State) (k n : Nat) : Bool := s.retired.any fun f => rangesMeet (f * 2 ^ 16) (2 ^ 16) k n

/-- Whether an access to n bytes homed here must wait for a lease that another package holds on one of their lines: any access for a write
lease, a write for any, until the lease ends, expires or is recalled (R192, R194). -/
def State.leaseWaits (s : State) (key n : Nat) (write : Bool) : Bool :=
  s.leases.any fun e => (linesOf key n).contains e.2.line && e.2.holder.isSome && (write || e.2.write)

/-- The walk of R380, from the table at offset `base` of stack `st`. -/
def State.walkFrom (s : State) (va : Nat) : Nat → Nat → Nat → Walk
  | level, st, base =>
    let a := stackKey st (base + 8 * vaIndex va level)
    let e := s.read a 8
    if s.leaseWaits a 8 false then .wait
    else if (s.poisonAt a 8).isSome then .refused ⟨0x10, 3⟩
    else if pteV e then
      if pteLeaf e then
        if leafBad s.pkgid level e || pteState e != 0 then badPte
        else if pteLoc e == 0 && s.protectedPage (pteStack e) (pteFrame e) (leafSize level) then .refused ⟨0x11, 4⟩
        else .leaf (leafSize level) e
      else if tableBad level e then badPte
      else match level with
        | 0 => badPte
        | n + 1 => s.walkFrom va n (pteStack e) (bits e 47 8 * 2 ^ 8)
    else match pteState e with
      | 3 => .refused ⟨0x10, 1⟩
      | 2 =>
        if !pteLeaf e || leafBad s.pkgid level e || level == 2 || pteLoc e != 0 then badPte
        else if s.protectedPage (pteStack e) (pteFrame e) (leafSize level) then .refused ⟨0x11, 4⟩
        else if s.anyRetired (stackKey (pteStack e) (pteFrame e)) (leafSize level) then .refused ⟨0x10, 3⟩
        else .short (leafSize level) e a
      | _ => .long

/-- The walk of a context's tables. -/
def State.walk (s : State) (c va : Nat) : Walk :=
  let d := (s.ctx c).desc
  s.walkFrom va 4 d.rstack d.root

/-- The places of the entries that a walk reads, from the root. -/
def State.walkTrail (s : State) (va : Nat) : Nat → Nat → Nat → List Nat
  | level, st, base =>
    let a := stackKey st (base + 8 * vaIndex va level)
    let e := s.read a 8
    a :: match level with
      | 0 => []
      | n + 1 => if pteV e && !pteLeaf e && !tableBad (n + 1) e then s.walkTrail va n (pteStack e) (bits e 47 8 * 2 ^ 8) else []
/-- What a walk moves of the columns of the tables, for the context of its ASID, poisoned ones among them (R387, R407, R451). -/
def State.walkMoves (s : State) (c va : Nat) : State :=
  let d := (s.ctx c).desc
  (s.walkTrail va 4 d.rstack d.root).foldl (fun s a => s.hbm c a 8 false false) s

/-- The refusal of a leaf for want of permission (R384, R396). -/
def permRefuse (e : Nat) (a : Acc) : Option Refuse :=
  match a with
  | .fetch => if pteX e then none else some ⟨0x11, 3⟩
  | .read => if pteR e then none else some ⟨0x11, 1⟩
  | .write => if pteW e then none else some ⟨0x11, 2⟩
  | .rmw => if !pteR e then some ⟨0x11, 1⟩ else if !pteW e then some ⟨0x11, 2⟩ else none

/-- The place of a virtual address under a leaf (R381). -/
def leafKey (e size va : Nat) : Nat :=
  let off := pteFrame e + va % size
  match pteLoc e with
  | 0 => stackKey (pteStack e) off
  | 1 => remoteKey (ptePkg e) (pteStack e) off
  | _ => ctlKey off

/-- The TLB entry of an ASID that maps an address (R386). -/
def Core.tlbFind (c : Core) (asid va : Nat) : Option TlbEntry :=
  c.tlb.find? fun t => t.asid == asid && decide (t.base ≤ va) && decide (va < t.base + t.size)
/-- Enter a leaf, dropping the oldest entry of a full TLB (R386; the victim is log entry 8). -/
def Core.tlbFill (c : Core) (t : TlbEntry) : Core := { c with tlb := (c.tlb ++ [t]).drop (c.tlb.length + 1 - 512) }

/-- What a translation answers: a place with its leaf and page size, or why there is none yet; a miss names its page, a short one with its
size, a long one in the 64 KiB of the least page (log entry 28). -/
inductive Xlate where
  | hit (key leaf size : Nat) | refusedNow (r : Refuse) | missRefused (r : Refuse) | short (page size : Nat) | long (page : Nat)
deriving DecidableEq, Repr

/-- Whether a write meets a page that a running restartable launch of the context must still copy (R393, R470). -/
def State.snapDue (s : State) (c e va size : Nat) : Bool :=
  pteSnapshot e && s.launches.any fun l => l.2.ctx == c && l.2.rcd.restartable && l.2.running
    && !l.2.snaps.any fun p => p.va == va / size * size

/-- Whether a miss in 64 KiB of a context stands already, at the page engine or with the control node (R394, R395). -/
def State.missStands (s : State) (c page : Nat) : Bool :=
  (s.misses.any fun e => e.2.ctx == c && rangesMeet e.2.page e.2.size page (2 ^ 16))
    || s.parts.any fun e => e.2.fqBusy.any (fun x => x.2.1 == c && x.2.2.1 == page) || e.2.fqWait.any fun x => x.1 == c && x.2.1 / 2 ^ 16 * 2 ^ 16 == page
/-- What a walk that misses moves; while the miss stands its page is not walked for again (R407). -/
def State.missMoves (s : State) (c va : Nat) : State := if s.missStands c (va / 2 ^ 16 * 2 ^ 16) then s else s.walkMoves c va
/-- What a leaf in a TLB answers an access: the permissions, and the protection of the frame regions that are in effect now (R384, R385). -/
def State.leafRefuse (s : State) (leaf size : Nat) (a : Acc) : Option Refuse :=
  if pteLoc leaf == 0 && s.protectedPage (pteStack leaf) (pteFrame leaf) size then some ⟨0x11, 4⟩ else permRefuse leaf a
/-- The place that a leaf with the needed permission gives, unless the page must be copied first (R393, R470). -/
def State.leafHit (s : State) (c leaf size va : Nat) (a : Acc) : Xlate :=
  if a.writes && s.snapDue c leaf va size then .short (va / size * size) size else .hit (leafKey leaf size va) leaf size
/-- Translate an access of a context at a core (R384 to R388, R393); the state has the TLB filled by a
walk that found a leaf with the needed permission; no refused walk is entered (R386). A walk that waits is a short miss as far as its lanes go
(log entry 100). -/
def State.xlate (s : State) (p c va : Nat) (a : Acc) : State × Xlate :=
  let asid := (s.ctx c).desc.asid
  match (s.core p).tlbFind asid va with
  | some t => match s.leafRefuse t.leaf t.size a with
    | some r => (s, .refusedNow r)
    | none => (s, s.leafHit c t.leaf t.size va a)
  | none =>
    let m := s.walkMoves c va
    match s.walk c va with
    | .leaf size e => match permRefuse e a with
      | some r => (m, .missRefused r)
      | none => (m.modCore p (·.tlbFill ⟨asid, va / size * size, size, e⟩), s.leafHit c e size va a)
    | .short size _ _ => (s.missMoves c va, .short (va / size * size) size)
    | .long => (s.missMoves c va, .long (va / 2 ^ 16 * 2 ^ 16))
    | .refused r => (m, .missRefused r)
    | .wait => (s, .short (va / 2 ^ 16 * 2 ^ 16) (2 ^ 16))

/-! Demand misses as they are registered (R393 to R395). -/

/-- The fault-queue record of R395, without SEQ. -/
def faultRecord (asid ctx kind va : Nat) : Nat :=
  va % 2 ^ 57 * 2 ^ 135 + kind * 2 ^ 199 + ctx * 2 ^ 202 + asid * 2 ^ 208

/-- Write a long miss into the fault queue of a partition, or let it wait for a free entry (R395): one record for a page, with the
address that missed first. -/
def State.faultPut (s : State) (part ctx va kind : Nat) : State :=
  match s.part part with
  | none => s
  | some q =>
    let page := va / 2 ^ 16 * 2 ^ 16
    if q.fqBusy.any (fun e => e.2.1 == ctx && e.2.2.1 == page) || q.fqWait.any (fun e => e.1 == ctx && e.2.1 / 2 ^ 16 * 2 ^ 16 == page) then s
    else
      let idx := q.fqProd % 2 ^ q.fqLog
      if q.fqBusy.any (·.1 == idx) then s.modPart part fun q => { q with fqWait := q.fqWait ++ [(ctx, va, kind)] }
      else
        let asid := (s.ctx ctx).desc.asid
        let k := ctlKey (q.fqBase + 32 * idx)
        let s := s.ctlWrite k 32 (faultRecord asid ctx kind va + (q.fqProd + 1) % 2 ^ 32 * 2 ^ 224)
        s.modPart part fun q => { q with fqProd := q.fqProd + 1, fqBusy := q.fqBusy ++ [(idx, ctx, page, kind)] }

/-- A long miss of a context at an address (R395). -/
def State.longMiss (s : State) (ctx va kind : Nat) : State :=
  s.faultPut (s.ctx ctx).desc.part ctx va kind

/-- What an attempt that met a miss leaves: its misses and translations, and none of its reads, which are made again. -/
def State.missesOf (s t : State) : State :=
  { s with misses := t.misses, nextMiss := t.nextMiss, parts := t.parts, mem := t.mem, ctlWaits := t.ctlWaits, poison := t.poison, walkers := t.walkers }
/-- A short miss of a context's page is given to the page engine (R394); several misses of one page wait for one resolution. -/
def State.shortMiss (s : State) (ctx page size : Nat) (write : Bool) : State :=
  match s.misses.find? fun e => e.2.ctx == ctx && e.2.page == page && e.2.size == size with
  | some (k, m) => { s with misses := minsert s.misses k { m with write := m.write || write } }
  | none => { s with misses := minsert s.misses s.nextMiss { ctx, page, size, write }, nextMiss := s.nextMiss + 1 }

end Sys2Proof.Machine
end

