-- ==== Sys2Proof/Machine/Ops.lean ====
section
/-! DEFINITION. The named operations over the machine that every meaning is written with: halts, taking a trap and returning
from one (spec/17_traps.md R418 to R428, R439), runs (spec/11_execution_model.md R285 to R293) and the frame of an issue
(spec/02_instruction_word.md R35 checks 5 to 7, R44, R46, R49, R50). -/

namespace Sys2Proof.Machine

/-- The answer of a step. -/
abbrev Out1 := Host.Outcome State Fault Refusal

/-- Why an instruction ends without its effect. -/
inductive Stop where
  | trap (t : Trap) | hold (h : Hold) | fault (f : Fault)
  /-- A transfer whose target line misses, or a BCOPYM whose record does (R308, R265): a short miss holds the issue, a long one, of a KIND of
  R395, leaves it unissued. -/
  | shortMiss (page size : Nat) | longMiss (va kind : Nat)
  /-- A WPRE whose record meets a long miss is held and not parked (R266, R272; log entry 85). -/
  | longHold (va kind : Nat)
deriving Repr

/-- What the effect of an instruction answers: the state after it and whether it ends the run. -/
abbrev Eff := Except Stop (State × Bool)

/-! Trap causes (R419). -/

def trapIllegal : Trap := { cause := 0x01 }
def trapHazard (code lane : Nat) : Trap := { cause := 0x02, info := code, lane := some lane }
def trapMisaligned : Trap := { cause := 0x03 }
def trapAway (code : Nat) (lane : Option Nat) : Trap := { cause := 0x08, info := code, lane }
def trapPrivilege : Trap := { cause := 0x1B }

/-! Sizes (R178, R182). -/

/-- Scratchpad bytes of a carve-out code (R182). -/
def carveBytes : Nat → Nat
  | 0 => 0
  | 1 => 64 * 1024
  | 2 => 192 * 1024
  | 3 => 320 * 1024
  | _ => 448 * 1024

/-- The valid transaction barrier whose mirror meets a range of the scratchpad part (R253). -/
def Core.mirrorHit (c : Core) (off len : Nat) : Option Nat :=
  (c.dir.find? fun e => e.2.valid && e.1 < off + len && off < e.1 + 16).map (·.1)
/-- The range-lock entry that an access of a tier trips (R218): a locked destination always, a locked source on a write.
Cluster addresses that name the core itself and its scratchpad offsets name the same bytes (R195); `self` is the core's
cluster address base. -/
def Core.lockHit (c : Core) (ctx tier a len : Nat) (wr : Bool) (self : Nat) : Option Nat :=
  let norm (t x : Nat) : Nat × Nat := if t == 2 && x / 2 ^ 22 == self then (1, x % 2 ^ 22) else (t, x)
  let (tier, a) := norm tier a
  let hit (rs : List (Nat × Nat × Nat)) : Bool := rs.any fun r =>
    let (t, x) := norm r.1 r.2.1
    t == tier && rangesMeet x r.2.2 a len
  (c.locks.find? fun e => ((tier != 0 && tier != 3) || e.2.ctx == ctx) && (hit e.2.dsts || (wr && hit e.2.srcs))).map (·.1)

/-! Halts (R439). -/

/-- Raise the halt line of the partition of a die; later causes are counted (R439, R444). -/
def State.raiseHalt (s : State) (die : Nat) (h : Halt) : State :=
  match s.partOf die with
  | none => s
  | some (k, _) =>
    let s := s.modPart k fun q =>
      match q.halt with
      | none => { q with halt := some { h with tick := s.ticks, cycles := s.islands.map (·.cycles) }, haltNo := q.haltNo + 1, lost := q.lost || h.cause == 0x82 }
      | some h' => { q with halt := some { h' with later := h'.later + 1 }, lost := q.lost || h.cause == 0x82 }
    { s with ctxs := s.ctxs.map fun e => if e.2.desc.part = k then (e.1, { e.2 with haltedSince := true }) else e }

/-- Whether the halt line of the partition of a die is raised. -/
def State.halted (s : State) (die : Nat) : Bool := (s.partOf die).any fun e => e.2.halt.isSome

/-! Runs. -/

/-- A group's run ends and its quadrant's slot is returned (R290). -/
def State.endRun (s : State) (p gi : Nat) : State :=
  s.modCore p fun c =>
    { c.setGroup gi { c.group gi with run := none } with
      quads := c.quads.map fun q => if q.holder = some gi then { q with holder := none } else q }

/-- The head set of a group (R285); in a guest group, of the threads that R285 selects, those that share context and live set with the one
of the lowest slot (R353). -/
def Group.headSet (g : Group) (guest : Bool) : List Nat :=
  let rdy := g.readyThreads
  let stv := rdy.filter fun t => 1024 ≤ t.wait
  let pool := if stv.isEmpty then rdy else stv
  match pool with
  | [] => []
  | t :: ts =>
    let pc := ts.foldl (fun m u => if u.pc.toNat < m then u.pc.toNat else m) t.pc.toNat
    let at_ := rdy.filter fun u => u.pc.toNat == pc
    if guest then
      match at_ with
      | [] => []
      | u :: us =>
        let f := us.foldl (fun a b => if b.slot < a.slot then b else a) u
        (at_.filter fun u => u.origin.map (·.ctx) == f.origin.map (·.ctx) && u.live == f.live).map (·.slot)
    else at_.map (·.slot)

/-- A run of a core's guest group none of whose threads is READY any more is over, with the sleep that it may be in (R290, R314). -/
def State.endIdle (s : State) (p : Nat) : State :=
  let g := (s.core p).guests
  if g.run.any (!·.held) && (g.headSet true).isEmpty then
    (s.endRun p guestIx).modCore p fun c => { c with quads := c.quads.map fun q => if q.sleep.any (·.2 == guestIx) then { q with sleep := none } else q }
  else s

/-- NextPC (R308). -/
def nextPC (pc : DWord) : DWord := if pc.toNat % 64 = 48 then pc + 16 else pc + 12

/-- PC alignment (R34). -/
def pcAligned (pc : DWord) : Bool := [0, 12, 24, 36, 48].contains (pc.toNat % 64)

/-! Taking a trap and returning from it. -/

/-- The cause word of s60 (R423). -/
def causeWord (t : Trap) (reclost : Bool) : Nat :=
  t.cause + 2 ^ 8 * t.reason + 2 ^ 16 * (t.lane.getD 0 % 64) + 2 ^ 22 * b2n t.lane.isSome + 2 ^ 23 * b2n t.defer
    + 2 ^ 24 * b2n t.guest.isSome + 2 ^ 25 * b2n reclost

/-- The memory trap record as one 128-byte number (R424). -/
def trapRecord (t : Trap) (cause pc hset time : Nat) (unperf : BitVec 64) : Nat :=
  pc + 2 ^ 64 * t.xpc + 2 ^ 128 * t.addr + 2 ^ 192 * unperf.toNat + 2 ^ 256 * cause + 2 ^ 288 * t.info + 2 ^ 320 * hset
    + 2 ^ 384 * time + 2 ^ 448 * (t.guest.getD 0)

/-- A guest thread leaves its core: its slot is freed; what its operations still do no longer reaches a register (R355). Their thread number tells
the group of its origin from then on. -/
def Group.dropGuest (g : Group) (slot : Nat) : Group :=
  let launch : List Nat := ((g.thread? slot).bind (·.origin)).elim [] fun x => [x.launch]
  let away := slot + 1000 * (1 + ((g.thread? slot).bind (·.origin)).elim 0 (·.group))
  { g with threads := g.threads.filter fun t => t.slot != slot
           hazards := g.hazards.filter fun h => h.slot != slot
           ops := g.ops.map fun o =>
             { o with writes := o.writes.filter fun w => w.slot != slot
                      left := if o.act.contains slot then o.left ++ launch else o.left
                      act := o.act.map fun n => if n = slot then away else n
                      head := o.head.filter (· != slot)
                      lanes := o.lanes.map fun l => if l.slot = slot then { l with slot := away } else l } }

/-- The registers of a thread with their values. -/
def Thread.regsOf (t : Thread) (rs : List Nat) : List (Nat × Word) := rs.map fun r => (r, mget 0 t.x r)

/-- An away thread is to carry a trap home (R355), with its own part of what the trap names, UNPERF being the lanes of H there (R424); it
leaves after the drain of a departure (R222, R359). -/
def State.trapHome (s : State) (p : Nat) (t : Trap) (pc : DWord) (th : Thread) : State :=
  let own : Trap :=
    { t with guest := some (s.logical p), lane := t.lane.map fun _ => th.lane
             addr := (t.addrs.find? fun e => e.1 == th.slot).elim t.addr (·.2), addrs := []
             unperf := none }
  (s.modGroup p guestIx fun g => g.modThread th.slot fun u => { u with pc, bound := some (some own) }).endIdle p

/-- Whether a MEMORY_UE of a workgroup is a consumption of its restartable launch (R472, R473). -/
def State.consumable (s : State) (launch : Nat) : Bool :=
  (mfind s.launches launch).any fun l => l.rcd.restartable && decide (l.rollbacks < 3) && !l.ended
/-- A launch is to be rolled back (R472): it dispatches no further unit. -/
def State.consume (s : State) (launch : Nat) : State :=
  { s with launches := mmod s.launches launch fun l => { l with rolling := true } }
/-- Take a trap raised at a PC for the handler set H of a group (R421 to R424); the guest group's threads carry theirs home
(R355); with the halt line raised the trap is only kept (R439). -/
def takeTrap (s : State) (p gi : Nat) (H : List Nat) (pc : DWord) (t : Trap) : State :=
  let die := pdie p
  let c := s.core p
  let g := c.group gi
  if s.halted die then
    -- The threads of a guest group carry theirs home as the halt settles (R355, R439).
    let s := if gi = guestIx && g.skidTrap.isNone then
        H.foldl (fun s n => match (s.core p).guests.thread? n with | some th => s.trapHome p t pc th | none => s) s else s
    (s.endRun p gi).modGroup p gi fun g => { g with skidTrap := some (g.skidTrap.getD (t, pc)) }
  else if t.cause = 0x17 && gi != guestIx && c.wg.any (fun w => s.consumable w.launch) then
    (s.endRun p gi).consume (c.wg.elim 0 (·.launch))
  else if gi = guestIx then
    H.foldl (fun s n => match (s.core p).guests.thread? n with | some th => s.trapHome p t pc th | none => s) (s.endRun p gi)
  else
    let x := s.ctx (s.ctxAt p gi 0)
    let tvec : DWord := BitVec.ofNat 64 (x.tveclo.toNat / 2 * 2 + x.tvechi.toNat % 2 ^ 25 * 2 ^ 32)
    if !bit x.tveclo.toNat 0 || !pcAligned tvec || g.handler then
      (s.endRun p gi).raiseHalt die
        { cause := if g.handler then 0x81 else 0x80, tick := s.ticks, kind := 1, die := die, index := p % 136, core := p
          trapCause := t.cause, trapGroup := gi, trapPc := pc.toNat }
    else
      let resume := t.pc.getD pc
      let rec_ := bit x.trecbase.toNat 0
      let off := bits x.trecbase.toNat 21 7 * 128 + 128 * gi
      let lc := s.logical p
      let writable := off + 128 ≤ carveBytes c.carve && (c.mirrorHit off 128).isNone
        && !(c.locks.any fun e => e.2.dsts.any fun r =>
              (r.1 == 1 && rangesMeet r.2.1 r.2.2 off 128)
              || (r.1 == 2 && r.2.1 / 2 ^ 22 == lc % 16 && rangesMeet (r.2.1 % 2 ^ 22) r.2.2 off 128))
      let cw := causeWord t (rec_ && !writable)
      let hset := maskOf H
      let s := s.endRun p gi
      let s := if rec_ && writable then
          (s.clearPoison (windowKey p off) 128).write (windowKey p off) 128 (trapRecord t cw resume.toNat hset.toNat s.ticks (t.unperf.getD hset))
        else s
      let set (g : Group) (n v : Nat) : Group :=
        { g.heal 0 (0x80 + n) with s := mset 0 g.s n (BitVec.ofNat 32 v), hazards := g.hazards.filter fun h => h.code != 0x80 + n }
      let s := s.modGroup p gi fun g =>
        let g := set (set (set (set g 60 cw) 61 t.info) 62 (resume.toNat % 2 ^ 32)) 63 (resume.toNat / 2 ^ 32)
        { (g.modThreads H fun u => { u with pc := tvec, inH := true, target := some pc }) with handler := true, hostPage := none }
      if [0x1D, 0x1E, 0x1F].contains t.cause && bit (mget 0 x.debug 0x11F).toNat 30 then
        s.modWg p fun w => { w with groups := w.groups.mapIdx fun i h => if i = gi then h else { h with dbgStop := some gi } }
      else s

/-- Handler state ends when H is empty; the groups it debug-stopped are released (R422, R428, R436). -/
def State.leaveHandler (s : State) (p gi : Nat) : State :=
  let g := s.group p gi
  if g.handler && !g.threads.any (·.inH) then
    (s.modGroup p gi fun g => { g with handler := false }).modWg p fun w =>
      { w with groups := w.groups.map fun h => if h.dbgStop = some gi then { h with dbgStop := none } else h }
  else s

/-- The return of the active threads from the handler (R428): their PC, H and EXEMPT. -/
def State.trapReturn (s : State) (p gi : Nat) (act : List Nat) (at_ target : DWord) : State :=
  (s.modGroup p gi fun g =>
    g.modThreads act fun t => { t with pc := target, inH := false, exempt := true, returned := some at_ }).leaveHandler p gi

/-! The frame of an issue. -/

/-- Features an instruction belongs to (R413). -/
def featureOf : Instr → Option Nat
  | .awr _ o | .ald _ o | .wpre _ o => if o.dense then some 1 else none
  | .mma _ o => if o.dense then some 1 else none
  | .migset .. | .migto .. | .migret .. | .migq .. => some 2
  | .ldc _ o | .stc _ o | .ldg _ o | .stg _ o | .atom _ _ o | .atomf _ _ o | .cas _ o => if o.go then some 2 else none
  | .nma .. | .nmar .. | .bdot .. | .gred .. => some 3
  | .launch .. => some 5
  | _ => none

/-- A tile write's plane slots end within the sub-array (R152, R272): a condition on the word alone, so one of decode (R36). -/
def tileFits : Instr → Bool
  | .awr _ o | .ald _ o | .wpre _ o => decide (o.slotBase + widthOf o.tw ≤ 256)
  | _ => true
/-- Decode legality that depends on the kernel and the context (R36 case 10, R39, R361), and that of a tile write's slots. -/
def legalFor (v accept : Nat) (i : Instr) : Bool :=
  let u := i.usesOf
  tileFits i && (u.writes ++ u.reads ++ u.srcs.flatMap fun e => e.1.codes e.2).all (fun c => decide (0x80 ≤ c) || decide (c < v))
    && (match i with | .migset _ l => (liveRegs l).all (· < v) | _ => true)
    && (match featureOf i with | some f => bit accept f | none => true)

/-- Instructions that trap AWAY_UNIFORM when issued for an away thread, whatever they name (R145, R181, R230, R261, R264,
R277, R306, R426). -/
def barredAway : Instr → Bool
  | .call .. | .callReg .. | .ret .. | .join .. | .leave .. | .mwait .. | .maskRd .. | .maskTst .. | .bar .. | .cbar ..
  | .qsend .. | .qrecv .. | .launch .. => true
  | .ldp .. | .stp .. | .lds .. | .sts .. | .cstore .. | .xload .. | .seal .. | .unseal .. => true
  | .binit .. | .barrive .. | .barriveTx .. | .bwait .. | .binval .. => true
  | .amodeSto .. | .amodeMul .. | .acal .. | .awr .. | .ald .. | .ard .. | .mconv .. | .mma .. | .mzero .. | .mdrain .. | .macc ..
  | .mcks .. | .mloc .. | .mfix .. | .mretry .. | .ainfo .. => true
  | .bcopy .. | .bcopym .. | .bdot .. | .wpre .. => true
  | .tret .. | .sysr .. | .sysw .. | .cntr .. | .halt .. | .tlbiVa .. | .tlbiAsid .. | .dbgr .. | .dbgw .. => true
  | .atom _ _ o | .atomf _ _ o | .red _ _ o | .cas _ o => o.tier == .smem
  | _ => false

/-- Special registers an away thread may read (R354). -/
def awayReadable : SReg → Bool
  | .lane | .pcore | .cyclelo | .cyclehi | .timelo | .timehi | .hop | .origin | .ctx | .temp | .activelo | .activehi => true
  | _ => false

/-- What an instruction names that the guest threads of an issue cannot reach (R354): the operand code and the lowest lane. -/
def awayBreak (i : Instr) (ts : List Thread) : Option (Nat × Nat) :=
  let u := i.usesOf
  let codes := (u.srcs.flatMap fun e => match e.1 with
      | .sr r => if awayReadable r then [] else [0xC0 + r.code]
      | o => o.codes e.2) ++ u.reads ++ u.writes
  let bad (t : Thread) : Option Nat :=
    if barredAway i then some 0xFF
    else match codes.find? fun c => (decide (c < 0x80) && !t.carried.contains c) || (decide (0x80 ≤ c) && decide (c < 0xE0)) with
      | some c => some c
      | none => match i with
        | .migset _ l => if (liveRegs l).all t.carried.contains then none else some 0xFF
        | _ => none
  ts.findSome? fun t => (bad t).map fun c => (c, t.lane)

/-- The register and slot for which an issue traps HAZARD in checked mode (R48): an under-waited read or guard, or a write of a
register that a token-class operation still writes. Where several are under-waited the spec gives no order: the guard of any lane comes first,
then the lowest active lane's sources in the order of its operands, its destinations, and so the next lane's (log entry 98). -/
def hazardBreak (g : Group) (c : Ctl) (i : Instr) (head act : List Nat) : Option (Nat × Nat) :=
  let on (slot code : Nat) (tokOnly : Bool) : Bool := g.hazards.any fun h =>
    h.slot == slot && h.code == code && (match h.till with | .tok _ _ => true | .dist _ => !tokOnly)
  let gcode := c.guard.map (0xE0 + ·.p)
  match gcode.bind fun k => (head.find? fun n => on n k false).map fun n => (k, n) with
  | some r => some r
  | none => act.findSome? fun n =>
      match (i.readCodes (act.head? == some n)).find? (on n · false) with
      | some k => some (k, n)
      | none => (i.usesOf.writes.find? (on n · true)).map fun k => (k, n)

/-- Whether a register holds an uncorrectable error for a thread (R456); a uniform register is one for all of them. -/
def Group.ueReg (g : Group) (slot code : Nat) : Bool :=
  g.ueRegs.any fun b => b.2 == code && (b.1 == slot || uniformCode code)
/-- The register with an uncorrectable error that an issue reads, and the lowest slot that it affects (R456): the guard's predicate before the
sources (log entry 98). -/
def ueBreak (g : Group) (c : Ctl) (i : Instr) (head act : List Nat) : Option (Nat × Nat) :=
  match c.guard.bind fun q => (head.find? (g.ueReg · (0xE0 + q.p))).map fun n => (n, 0xE0 + q.p) with
  | some r => some r
  | none => act.findSome? fun n => ((i.readCodes (act.head? == some n)).find? (g.ueReg n)).map fun k => (n, k)

/-- The debug checks of an issue (R435). -/
def debugBreak (x : Ctx) (gi : Nat) (pc : DWord) : Option Trap :=
  let d (i : Nat) : Nat := (mget 0 x.debug i).toNat
  if bit (d 0x11F) 31 && bits (d 0x11F) 5 0 == gi then some { cause := 0x1F }
  else ((List.range 4).find? fun n =>
      bit (d (0x110 + 2 * n)) 0 && pc.toNat == d (0x110 + 2 * n) / 2 * 2 + bits (d (0x111 + 2 * n)) 24 0 * 2 ^ 32).map
        fun n => { cause := 0x1D, reason := 1, info := n }

/-- Whether a core has come to the end of its skid: 512 of its own cycles after the halt was raised (R439). -/
def State.skidPast (s : State) (p : Nat) : Bool :=
  let x := lget {} s.islands (s.islandOf p)
  (s.partOf (pdie p)).any fun e => e.2.halt.any fun h =>
    h.skidOver || x.off || decide (h.cycles.getD (s.islandOf p) 0 + 512 < x.cycles)

/-- The issue of the group in focus as it stands before its own conditions are judged: distances, Wait counts, PCs and the
run's count are those after the issue; none where nothing can issue (R44, R285, R286, R308). -/
def State.begin (s : State) (c : Ctl) (weight : Nat) : Option Iss :=
  let (p, gi) := s.focus
  match (s.core p).group? gi with
  | none => none
  | some g0 =>
    let head := g0.headSet (gi == guestIx)
    if head.isEmpty || g0.park.isSome || s.skidPast p then none else
    let g1 := g0.advance head weight
    let pc := (g0.thread? (head.headD 0)).elim 0 (·.pc)
    let e0 : Iss := { s, p, gi, g := g1, w := (s.core p).wg, head, act := head, pc }
    let act := match c.guard with
      | none => head
      | some q => head.filter fun n => (e0.reg n (0xE0 + q.p) 60 != 0) != q.neg
    let g2 := { g1 with
      threads := g1.threads.map fun t =>
        if head.contains t.slot then
          { t with wait := 0, pc := nextPC t.pc, exempt := false, target := none, returned := none }
        else if t.st == .ready && (!g0.handler || t.inH) then { t with wait := t.wait + 1 } else t
      run := some { (g0.run.getD {}) with count := (g0.run.getD {}).count + 1, head := head, held := false, why := none } }
    some { e0 with
      s := s.setGroup p gi g2, g := g2, act := act
      watched := !g0.handler && !(head.all fun n => (g0.thread? n).any (·.exempt)) }

/-- Park a group (R288). -/
def State.park (s : State) (p gi : Nat) (k : Park) : State := s.modGroup p gi fun g => { g with park := some k }

/-- Whether every token is zero (R49). -/
def Group.drained (g : Group) : Bool := g.tok.all fun e => e.2 == 0
/-- The end of a park: the drain of a D bit follows where one is due. A group waiting for its D bit is unparked once every
token is zero; its results are then all in place (R49, R288). -/
def Group.unpark (g : Group) : Group :=
  if g.thenDrain && !g.drained then { g with park := some .drain, thenDrain := false }
  else if g.thenDrain then { g with park := none, thenDrain := false, hazards := [], passed := 0 }
  else { g with park := none, passed := 0 }
def Group.settle (g : Group) : Group :=
  if g.leaving then g else
  match g.park with
  | some .drain => if g.drained then { g with park := none, thenDrain := false, hazards := [], passed := 0 } else g
  | some (.twait t k _ _) => if mget 0 g.tok t ≤ k then (g.waited t k).unpark else g
  | _ => g

/-- The drain that a D bit asks for, at once or after the wait that the instruction itself began (R49). -/
def State.dBit (s : State) (p gi : Nat) (c : Ctl) : State :=
  if !c.d then s
  else if (s.group p gi).park.isNone then s.park p gi .drain
  else s.modGroup p gi fun g => { g with thenDrain := true }
/-- A wait that is over already ends. -/
def State.settleGroup (s : State) (p gi : Nat) : State := s.modGroup p gi fun g => { g.settle with hostPage := none }
/-- Whether an issue ends its run (R290): the instruction or its E bit, a park, or none of the last head set in the next. -/
def State.runOver (s : State) (p gi : Nat) (c : Ctl) (endRun : Bool) : Bool :=
  let g := s.group p gi
  let last := (g.run.map (·.head)).getD []
  endRun || c.e || c.d || g.park.isSome || !((g.headSet (gi == guestIx)).any last.contains)
/-- After an issue: the D bit, and the ends of the run (R49, R290). -/
def State.finish (s : State) (p gi : Nat) (c : Ctl) (endRun : Bool) : State :=
  let t := (s.dBit p gi c).settleGroup p gi
  if t.runOver p gi c endRun then t.endRun p gi else t

/-- A held issue: the run is suspended and the slot is given to other groups (R293). -/
def State.holdIssue (s : State) (p gi : Nat) (h : Hold) : State :=
  s.modCore p fun x =>
    let g := x.group gi
    { x.setGroup gi { g with run := some { (g.run.getD {}) with held := true, why := some h } } with
      quads := x.quads.map fun q => if q.holder = some gi then { q with holder := none } else q }

/-- A long miss of a fetch: the run ends, the group is parked and the workgroup waits to be saved (R395, R251). -/
def State.parkFetch (s : State) (p gi page : Nat) : State :=
  ((s.endRun p gi).park p gi (.fetch page)).modWg p fun w => { w with frozen := true }

/-! Tandem (R465 to R467). -/

/-- Whether an issue belongs to a workgroup that runs in tandem. -/
def Iss.tandem (e : Iss) : Bool := !e.guest && e.w.any (·.tandem.isSome)
/-- Whether a group of a core may pass a commit point at a PC now. -/
def Core.passed (c : Core) (gi : Nat) (pc : DWord) : Bool := c.tgo.any fun x => x.group == gi && x.pc == pc
/-- Reach a commit point: the copy waits there for its twin (R467). -/
def State.reachCommit (s : State) (p gi : Nat) (pc : DWord) (what : List Nat) (writes : List Held := []) : State :=
  s.modCore p fun c => if c.twait.isSome || c.tgo.isSome then c else { c with twait := some { group := gi, pc, what, writes, since := s.ticks } }
/-- Leave a commit point that has been passed. -/
def State.leaveCommit (s : State) (p : Nat) : State := s.modCore p fun c => { c with tgo := none }
/-- What the two copies compare of an operation: its word and each active lane's operands (R467). -/
def Iss.operands (e : Iss) (i : Instr) : List Nat :=
  let special (n : Nat) (q : Src × Nat) : List Nat := match q.1 with | .sr r => [(e.special (e.thread n) r).1.toNat] | _ => []
  ((encode i).map (·.toNat)).getD 0 :: e.act.flatMap fun n =>
    let low := e.lowest == n
    n :: (i.readCodes low).map (fun k => (e.g.reg n k).toNat) ++ (if low then i.usesOf else i.laneUses).srcs.flatMap (special n)
/-- The commit points among the instructions (R467), beside those of a release at .cl or wider. -/
def commitKind : Instr → Bool
  | .atom .. | .atomf .. | .cas .. | .nma .. | .nmar .. | .bdot .. | .gred .. | .launch .. | .sysw .. | .cctlWb .. | .cctlInv ..
  | .cctlWbinv .. | .seal .. | .unseal .. | .broom .. | .tlbiVa .. | .tlbiAsid .. | .halt .. => true
  | _ => false
/-- Whether an issue is a commit point; the write that would be the 8,192nd held is one. -/
def Iss.commits (e : Iss) (i : Instr) : Bool :=
  let k := i.accKind.getD {}
  !e.act.isEmpty && (commitKind i || (k.order.releases && decide (2 ≤ k.level)) || (e.s.core e.p).passed e.gi e.pc
    || (i.heldWrite && decide (8192 ≤ (e.s.core e.p).tbuf.length + e.act.length)))
/-- The operations that the primary performs for both copies (R467). -/
def Iss.shared (e : Iss) (i : Instr) : Bool :=
  e.tandem && e.commits i && (match i with
    | .nma .. | .nmar .. | .bdot .. | .gred .. | .launch .. | .seal .. | .unseal .. => true
    | .atom _ _ o | .atomf _ _ o | .red _ _ o | .cas _ o => o.tier == .glob || o.tier == .dmem
    | .stg .. | .std .. => true
    | .cstore _ o => o.tier == .glob || o.tier == .dmem
    | _ => false)
/-- The kernel's .regs count for an issue (R36, R39): the workgroup's, or those of the guests' own kernels, the least of them where threads of
several kernels share a head set (log entry 79). -/
def Iss.regLimit (e : Iss) : Nat :=
  if e.guest then e.head.foldl (fun m n => min m (((e.thread n).origin.bind e.s.originWg).elim 128 (·.regs))) 128
  else e.w.elim 128 (·.regs)
/-- The instructions whose away check is made for every issue, since every thread of it takes part (R36, R157, R262). -/
def everyThread : Instr → Bool
  | .mma .. | .bcopy .. | .bcopym .. => true
  | _ => false
/-- An operation's writes as a tandem copy holds them, in lane order (R465, R466): its lanes' addresses, widths and data. -/
def Op.heldWrites (o : Op) (gi : Nat) : List Held :=
  o.lanes.map fun l => { tier := l.tier.code, ctx := o.ctx, va := l.va, key := l.key, leaf := l.leaf, psize := l.psize, size := l.size, v := l.v.toNat % 256 ^ l.size
                         i := o.i, group := gi, lane := l.lane, slot := l.slot, pc := o.pc, op := o.id }
/-- Not yet linked to the shadow's operation. -/
def unlinked : Nat := 2 ^ 64
/-- Link the operation just posted with its twin: the shadow's is not performed, the primary's waits for it. -/
def State.linkTwin (s : State) (p gi id : Nat) (w : Workgroup) : State :=
  match w.tandem with
  | none => s
  | some (second, other) =>
    let q := s.phys other
    match (s.group p gi).op? id with
    | none => s
    | some o =>
      if second then
        let s := s.modGroup p gi (·.setOp { o with shadow := true })
        match (s.group q gi).ops.find? fun x => x.pc == o.pc && x.twin == some (p, gi, unlinked) with
        | some x => s.modGroup q gi (·.setOp { x with twin := some (p, gi, id) })
        | none => s
      else
        let mate := (s.group q gi).ops.find? fun x => x.pc == o.pc && x.shadow
          && !(s.group p gi).ops.any fun y => y.twin == some (q, gi, x.id)
        s.modGroup p gi (·.setOp { o with twin := some (q, gi, (mate.map (·.id)).getD unlinked) })

/-- How an issue is stopped before the instruction's own conditions: by a trap, by a register with an uncorrectable error (R456), by what
an away thread cannot reach (R354). -/
inductive Early where
  | trap (t : Trap) | ue (lane code : Nat) | away (code lane : Nat)
deriving Repr
/-- The checks that precede the instruction's own conditions, in their order (log entry 80): checks 5 and 6 of R35 (R36, R48), registers with an
uncorrectable error (R456), the debug checks (R435), RUN_LENGTH (R292) and the away checks (R354). -/
def Iss.early (e : Iss) (c : Ctl) (i : Instr) : Option Early :=
  let x := e.s.ctx e.ctx
  if !legalFor e.regLimit x.accept i then some (.trap trapIllegal)
  else match (if x.checked then hazardBreak e.g c i e.head e.act else none) with
  | some (k, n) => some (.trap (trapHazard k (e.thread n).lane))
  | none =>
  match ueBreak e.g c i e.head e.act with
  | some (n, k) => some (.ue (e.thread n).lane k)
  | none =>
  match (if e.watched then debugBreak x e.gi e.pc else none) with
  | some t => some (.trap t)
  | none =>
  if (e.g.run.elim 0 (·.count)) = 24 && !c.e then some (.trap { cause := 0x07 })
  else match (if e.guest then awayBreak i ((if everyThread i then e.head else e.act).map e.thread) else none) with
  | some (k, l) => some (.away k l)
  | none => none
/-- Whether a group of a core must wait for its twin before it takes a trap at a PC (R467). -/
def State.trapWaits (s : State) (p gi : Nat) (pc : DWord) : Bool :=
  gi != guestIx && (s.core p).wg.any (·.tandem.isSome) && !(s.core p).passed gi pc && !s.halted (pdie p)
/-- Take a trap; a tandem copy waits for its twin first (R467). -/
def State.trapIn (s : State) (p gi : Nat) (H : List Nat) (pc : DWord) (t : Trap) : State :=
  if s.trapWaits p gi pc then (s.reachCommit p gi pc [t.cause]).holdIssue p gi .commit
  else takeTrap (s.leaveCommit p) p gi H pc t
/-- A trap of an issue. The state is the one before the issue. -/
def Iss.trapAt (e : Iss) (s : State) (t : Trap) : State := s.trapIn e.p e.gi e.head e.pc t
/-- An issue that is stopped early. -/
def Iss.stopEarly (e : Iss) (s : State) : Early → State
  | .trap t => e.trapAt s t
  | .ue lane k =>
    -- R456: the register is rewritten as poison in every affected lane before the handler begins.
    let heal (s : State) : State := s.modGroup e.p e.gi fun g =>
      (g.ueRegs.filter (·.2 == k)).foldl (fun g b => g.setReg b.1 b.2 0x7FE00007#32) g
    e.trapAt (if s.trapWaits e.p e.gi e.pc then s else heal s) { cause := 0x17, info := 7, lane := some lane }
  | .away k l => takeTrap s e.p e.gi e.head e.pc { trapAway k (some l) with unperf := some (maskOf e.act) }
/-- The state after the instruction's own effect; a commit point of a tandem copy waits for its twin (R467). -/
def Iss.done (e : Iss) (s : State) (c : Ctl) (i : Instr) (s' : State) (er : Bool) : State :=
  if !(e.tandem && e.commits i) then s'.finish e.p e.gi c er
  else if !(s.core e.p).passed e.gi e.pc then
    let own := if i.heldWrite then ((s'.group e.p e.gi).op? (s.group e.p e.gi).nextOp).elim [] (·.heldWrites e.gi) else []
    (s.reachCommit e.p e.gi e.pc (e.operands i) own).holdIssue e.p e.gi .commit
  else
    let s' := s'.leaveCommit e.p
    let s' := match e.w with
      | some w => if e.shared i then s'.linkTwin e.p e.gi (s.group e.p e.gi).nextOp w else s'
      | none => s'
    s'.finish e.p e.gi c er
/-- What an issue answers, from what its own effect answers. A trap leaves everything as it was before the issue (R35, R44). -/
def Iss.conclude (e : Iss) (s : State) (c : Ctl) (i : Instr) : Eff → Out1
  | .ok (s', er) => .next (e.done s c i s' er)
  | .error (.trap t) =>
    .next (e.trapAt s { t with unperf := some (t.unperf.getD (maskOf e.act)), addr := if i.addressless then 0 else t.addr })
  | .error (.hold h) => .next (s.holdIssue e.p e.gi h)
  | .error (.shortMiss page size) => .next ((s.shortMiss e.ctx page size false).holdIssue e.p e.gi (.page e.ctx page))
  | .error (.longMiss va kind) => .next ((s.longMiss e.ctx va kind).parkFetch e.p e.gi (va / 2 ^ 16 * 2 ^ 16))
  | .error (.longHold va kind) => .next ((s.longMiss e.ctx va kind).holdIssue e.p e.gi (.page e.ctx (va / 2 ^ 16 * 2 ^ 16)))
  | .error (.fault f) => .fault f
/-- An issue, and the state before it, with the next free value's argument. -/
def Iss.drawn (e : Iss) (n : Nat) : Iss := { e with s := { e.s with draws := n + 1 } }
/-- Issue an instruction of the group in focus: the checks before its own conditions, then the instruction's own effect. -/
def issue (c : Ctl) (i : Instr) (weight : Nat) (s : State) (body : Iss → Eff) : Out1 :=
  match s.begin c weight with
  | none => .next s
  | some b =>
    let e := b.drawn s.draws
    let s := { s with draws := s.draws + 1 }
    match e.early c i with
    | some x => .next (e.stopEarly s x)
    | none => e.conclude s c i (body e)

/-- The group after an issue's fixed-latency writes. -/
def Iss.write (e : Iss) (lat : Nat) (ws : List RegWrite) (os : List (RdAs × Src)) : State :=
  e.s.setGroup e.p e.gi (((e.latch e.act os e.g).writeFixed e.head lat ws).stamp e.s.draws false)

/-- Post an operation on a token (R46): held at a count of 63; T = 0 counts on t0; with no active thread nothing is added. -/
def Iss.post (e : Iss) (s : State) (c : Ctl) (o : Op) (dsts : List (Nat × Nat)) : Eff :=
  if e.act.isEmpty then .ok (s, false)
  else if 63 ≤ mget 0 e.g.tok c.t then .error (.hold (.token c.t))
  else
    let g := s.group e.p e.gi
    let id := g.nextOp
    let g := ((g.post c.t).expectAll e.head id c.t dsts).stamp e.s.draws (match o.i with | .mxpack .. => true | _ => false)
    .ok (s.setGroup e.p e.gi { g with ops := g.ops ++ [{ o with id, tok := some c.t, pc := e.pc, head := e.head, d := c.d, act := e.act, ctx := e.ctx, issued := e.s.draws }], nextOp := id + 1 }, false)

/-- Enter an operation that is counted on no token. -/
def Iss.enter (e : Iss) (s : State) (c : Ctl) (o : Op) : State :=
  s.modGroup e.p e.gi fun g =>
    { g with ops := g.ops ++ [{ o with id := g.nextOp, pc := e.pc, head := e.head, d := c.d, act := e.act, ctx := e.ctx, issued := e.s.draws }], nextOp := g.nextOp + 1 }
/-- Register writes of an operation reach its group; those to a group that has ended are discarded (R283). -/
def Group.landLive (g : Group) (draws op : Nat) (ws : List RegWrite) : Group := if g.ended then g else g.landAll draws op ws
/-- Register writes of an outstanding operation, delivered to its twin as well (R46, R467). -/
def State.landRegs (s : State) (p gi : Nat) (o : Op) (ws : List RegWrite) : State :=
  let s := s.modGroup p gi (·.landLive s.draws o.id ws)
  match o.twin with
  | some (q, qi, id) => s.modGroup q qi (·.landLive s.draws id ws)
  | none => s
/-- An operation, and its twin, through a change of its group. -/
def State.withTwin (s : State) (p gi : Nat) (o : Op) (f : Group → Op → Group) : State :=
  let s := s.modGroup p gi (f · o)
  match o.twin with
  | some (q, qi, id) => match (s.group q qi).op? id with
    | some x => s.modGroup q qi (f · x)
    | none => s
  | none => s
/-- Remove a completed operation and count its token down (R46); a group waiting for it goes on. -/
def State.complete (s : State) (p gi : Nat) (o : Op) : State :=
  s.withTwin p gi o fun g o =>
    let g := g.dropOp o.id
    let g := match o.tok with | some t => g.unpost t | none => g
    g.settle

/-- An outstanding operation's results reach their registers, and the operation completes (R46). -/
def State.landOp (s : State) (p gi : Nat) (o : Op) (ws : List RegWrite) : State :=
  (s.landRegs p gi o ws).complete p gi o

end Sys2Proof.Machine
end

