-- ==== Sys2Proof/Machine/Tensor.lean ====
section
/-! DEFINITION. Tensor records (spec/07_memory_tiers.md R184, R185) and the blocks of a tile that they name (spec/06_matrix_instructions.md
R152). -/

namespace Sys2Proof.Machine

/-- The slot bytes of a SLOT code (R146). -/
def slotBytes : Nat → Nat
  | 1 => 26
  | 2 => 18
  | _ => 34
/-- A tensor record (R184). -/
structure TRec where
  w : Nat
deriving DecidableEq, Repr
def TRec.base (r : TRec) : Nat := bits r.w 56 0
def TRec.kind (r : TRec) : Nat := bits r.w 67 64
def TRec.slotCode (r : TRec) : Nat := bits r.w 69 68
def TRec.rank (r : TRec) : Nat := bits r.w 71 70 + 1
def TRec.esize (r : TRec) : Nat := bits r.w 75 72
def TRec.ext (r : TRec) (j : Nat) : Nat := if j < r.rank then bits r.w (159 + 32 * j) (128 + 32 * j) else 1
def TRec.str (r : TRec) (j : Nat) : Nat := if j < r.rank then bits r.w (319 + 64 * (j - 1)) (256 + 64 * (j - 1)) else 0
/-- The unit in bytes. -/
def TRec.unit (r : TRec) : Nat := if r.kind = 1 then slotBytes r.slotCode else 2 ^ r.esize
/-- A malformed record (R185). -/
def TRec.bad (r : TRec) : Bool :=
  bits r.w 63 57 != 0 || bits r.w 127 76 != 0 || bits r.w 511 448 != 0 || decide (1 < r.kind)
    || (r.kind == 0 && (r.slotCode != 0 || decide (3 < r.esize))) || (r.kind == 1 && (r.esize != 0 || r.slotCode == 3))
    || (List.range r.rank).any (fun j => r.ext j == 0)
    || r.base % r.unit != 0 || (List.range r.rank).any (fun j => j != 0 && r.str j % r.unit != 0)
/-- The virtual address of a unit; a sum of 2^57 or more wraps (log entry 81). -/
def TRec.at (r : TRec) (i0 i1 i2 i3 : Nat) : Nat := (r.base + i0 * r.unit + i1 * r.str 1 + i2 * r.str 2 + i3 * r.str 3) % 2 ^ 57
/-- The units of a record, and the address of the one with a linear index (R186). -/
def TRec.total (r : TRec) : Nat := r.ext 0 * r.ext 1 * r.ext 2 * r.ext 3
def TRec.unitAt (r : TRec) (l : Nat) : Nat :=
  r.at (l % r.ext 0) (l / r.ext 0 % r.ext 1) (l / (r.ext 0 * r.ext 1) % r.ext 2) (l / (r.ext 0 * r.ext 1 * r.ext 2))
/-- Whether a unit is inside the record. -/
def TRec.inside (r : TRec) (i0 i1 i2 i3 : Nat) : Bool :=
  decide (i0 < r.ext 0) && decide (i1 < r.ext 1) && decide (i2 < r.ext 2) && decide (i3 < r.ext 3)
def natOfBytes (bs : List Byte) : Nat := bs.foldr (fun b a => b.toNat + 256 * a) 0

/-- The blocks of an ALD or WPRE that lie in the record, with their addresses, in the order 4 n + k. -/
def TRec.tileBlocks (r : TRec) (k0 n0 : Nat) : List (Option Nat) :=
  (List.range 128).flatMap fun n => (List.range 4).map fun k =>
    if r.inside (k0 + k) (n0 + n) 0 0 then some (r.at (k0 + k) (n0 + n) 0 0) else none
/-- The global ranges of a tile's blocks. -/
def TRec.tileRanges (r : TRec) (k0 n0 : Nat) : List (Nat × Nat) :=
  if r.bad || r.kind != 1 then [] else (r.tileBlocks k0 n0).filterMap fun a => a.map fun v => (v, r.unit)

end Sys2Proof.Machine
end

