-- ==== Sys2Proof/Machine/Order.lean ====
section
/-! DEFINITION. The order in which outstanding accesses are performed (spec/08_consistency.md R195 to R224): what each
instruction is as an access, which earlier accesses of a thread must come first, stores that are in an L1 and not yet at
their home, and the windows and places of the tiers (spec/07_memory_tiers.md R177 to R181). -/

namespace Sys2Proof.Machine

/-- The scope level of an access for a thread of a group: an away thread's is at least .dev (R200). -/
def levelFor (gi level : Nat) : Nat := if gi = guestIx then max 4 level else level

/-- Whether a lane's access has been performed at a scope level: a store in the issuing core's L1 is performed for .grp and
.wg (R198, R233). -/
def LaneOp.doneAt (l : LaneOp) (level : Nat) : Bool := l.done || (decide (level ≤ 1) && l.l1.isSome)

/-- Whether an operation still has, for one of its threads, something not performed at a level; an .sc access
is pending until its second fence is complete (R213). -/
def Op.pendingAt (o : Op) (slot level : Nat) : Bool :=
  o.act.contains slot && (o.lanes.isEmpty || (o.i.accKind.getD {}).order == .sc
    || o.lanes.any fun l => l.slot == slot && !l.doneAt level)

/-- Two lane accesses through the same tier and alias that share a byte (R197). -/
def LaneOp.overlaps (a b : LaneOp) : Bool := a.tier == b.tier && rangesMeet a.va a.size b.va b.size
/-- Two lane accesses that share a byte, or may: of two global ones of which one is not translated, the offsets in the least page tell
(R196). -/
def LaneOp.mayMeet (a b : LaneOp) : Bool :=
  a.tier == b.tier && (match a.key, b.key with
    | some x, some y => rangesMeet x a.size y b.size
    | _, _ => if a.tier == .glob then rangesMeet (a.va % 2 ^ 16) a.size (b.va % 2 ^ 16) b.size else rangesMeet a.va a.size b.va b.size)

/-- The record that a tile write has read, once it is read (R185). -/
def Op.rcd (o : Op) : Option Nat :=
  match o.i with
  | .ald .. => o.args[2]?
  | .wpre .. => o.args[8]?
  | _ => none
/-- The global ranges that an operation reads for its thread beside its lanes (R152, R197, R277): the vectors of a BDOT, the record and the
blocks of an ALD; none while a record that names them is not read. -/
def Op.ranges (o : Op) : Option (List (Nat × Nat)) :=
  match o.i with
  | .bdot _ a => let n := o.args.getD 2 0 * (tyWidth a.ty / 8)
                 some [(o.args.getD 0 0, n), (o.args.getD 1 0, n)]
  | .ald .. => o.rcd.map fun w => (TRec.tileRanges ⟨w⟩ (o.args.getD 0 0) (o.args.getD 1 0))
  | _ => some []

/-- Whether the access of a thread by operation `o` must wait for an earlier access of the thread (R197, R201, R221, R224,
R242): `k` is what it is as an access, `lane` the lane's access, none for operations that have no access of their own; `home`
where it is to be performed where the byte lives. -/
def Group.blockedAs (g : Group) (gi : Nat) (k : AccKind) (o : Op) (slot : Nat) (lane : Option LaneOp) (home : Bool) : Bool :=
    let lvl := levelFor gi k.level
    (g.ops.takeWhile fun e => e.id != o.id).any fun e =>
      match e.i.accKind with
      | none => false
      | some ek =>
        e.act.contains slot &&
          (((ek.fence || ek.order == .sc || (ek.order.acquires && ek.reads)) && e.pendingAt slot 6)
           || (k.order.releases && (ek.reads || ek.writes || ek.fence) && e.pendingAt slot lvl && (!ek.nma || decide (4 ≤ lvl)))
           || (k.fence && k.order == .acq && ek.reads && e.pendingAt slot 6)
           || (match lane with
               | none => false
               | some l => (e.lanes.any fun m => m.slot == slot && m.overlaps l && !m.doneAt (if home then 6 else 1))
                   || (l.tier == .glob && e.act.head? == some slot && e.ranges.elim true (·.any fun r => rangesMeet l.va l.size r.1 r.2))))

/-- The same, the operation taken as what its instruction is. -/
def Group.blocked (g : Group) (gi : Nat) (o : Op) (slot : Nat) (lane : Option LaneOp) (home : Bool) : Bool :=
  match o.i.accKind with
  | none => false
  | some k => g.blockedAs gi k o slot lane home

/-- Whether what an operation reads for its thread at some ranges must wait: loads of that thread, in its issue order (R152, R197). -/
def Group.readWaits (g : Group) (gi : Nat) (o : Op) (ranges : List (Nat × Nat)) : Bool :=
  o.act.head?.any fun n => ranges.any fun r =>
    g.blockedAs gi (o.i.accKind.getD { reads := true, level := 1 }) o n (some { slot := n, va := r.1, size := r.2 }) true

/-! Stores in an L1. -/

/-- Insert a store by its order number. -/
def bySeq (x : Nat × Nat × Nat × Nat) : List (Nat × Nat × Nat × Nat) → List (Nat × Nat × Nat × Nat)
  | [] => [x]
  | y :: ys => if x.1 < y.1 then x :: y :: ys else y :: bySeq x ys
/-- The operations outstanding on a core, of every group. -/
def Core.allOps (c : Core) : List Op :=
  (c.wg.elim [] fun w => w.groups.flatMap (·.ops)) ++ c.guests.ops ++ c.orphans.ops
/-- The operations outstanding in the package: on its cores, and those of saved workgroups. -/
def State.everyOp (s : State) : List Op :=
  (s.cores.flatMap (·.2.allOps)) ++ s.saved.flatMap fun u => u.units.flatMap fun x => x.1.groups.flatMap (·.ops)
/-- The stores of a core that are in its L1 and not at their home, in the order in which they entered it (order number, place,
size, value). -/
def Core.l1Stores (c : Core) : List (Nat × Nat × Nat × Nat) :=
  c.allOps.foldl (fun acc o => o.lanes.foldl (fun acc l =>
    match l.l1, l.key with
    | some q, some k => if l.done then acc else bySeq (q, k, l.size, l.v.toNat) acc
    | _, _ => acc) acc) []

/-- Whether a store that has entered the L1 of a core, before order number q where one is given, still has bytes of a range
to bring to their home. -/
def Core.l1Pending (c : Core) (q : Option Nat) (k n : Nat) : Bool :=
  c.l1Stores.any fun e => rangesMeet e.2.1 e.2.2.1 k n && q.all fun q => decide (e.1 < q)
/-- Whether every store that has entered the L1 of a core, before order number q where one is given, is at its home. -/
def Core.l1Drained (c : Core) (q : Option Nat) : Bool := c.l1Stores.all fun e => q.any fun q => decide (q ≤ e.1)
/-- What the L1 answers a load from the core's own stores that it holds (R197, R208): none where no store meets the bytes; the bytes of the
latest of them where it has them all; else the load waits. -/
def Core.forward (c : Core) (k n : Nat) : Option (Option Nat) :=
  ((c.l1Stores.filter fun e => rangesMeet e.2.1 e.2.2.1 k n).getLast?).map fun e =>
    if e.2.1 ≤ k && decide (k + n ≤ e.2.1 + e.2.2.1) then some (e.2.2.2 % 256 ^ e.2.2.1 / 256 ^ (k - e.2.1) % 256 ^ n) else none

/-- What a release of a core at .cl or wider waits for beside its thread's accesses: every store that was in the L1 before it, whosever it
is, since a synchronisation on the core may have put it before the release (R203, R205); at .dom and wider the links that lines written under
a lease go back by (R193, R198). -/
def State.relWaits (s : State) (p level : Nat) (q : Option Nat) : Bool :=
  (decide (2 ≤ level) && !(s.core p).l1Drained q) || (decide (5 ≤ level) && s.leases.any fun e => e.2.dirty && e.2.holder.isNone && !s.halted e.2.die && !s.reaches e.2.die (128 * e.1))
/-- Whether the access of a thread must wait now: for earlier accesses of its thread, and as a release. -/
def State.waitsAs (s : State) (p gi : Nat) (k : AccKind) (o : Op) (slot : Nat) (lane : Option LaneOp) : Bool :=
  (s.group p gi).blockedAs gi k o slot lane true || (k.order.releases && s.relWaits p (levelFor gi k.level) (lane.bind (·.l1)))
/-- The same, the operation taken as what its instruction is. -/
def State.waits (s : State) (p gi : Nat) (o : Op) (slot : Nat) (lane : Option LaneOp) : Bool :=
  match o.i.accKind with
  | none => false
  | some k => s.waitsAs p gi k o slot lane
/-- Whether any thread of an operation without accesses of its own must wait. -/
def State.waitsAny (s : State) (p gi : Nat) (o : Op) : Bool := o.act.any fun n => s.waits p gi o n none
/-- A release at .dom or wider has been performed: the lines written under a lease are written back (R193, R198). -/
def State.publish (s : State) (level : Nat) : State :=
  if level < 5 then s
  else { s with leases := s.leases.map fun e =>
    if e.2.dirty && e.2.holder.isNone && !s.halted e.2.die then (e.1, { e.2 with dirty := false, home := memTake s.mem (128 * e.1) 128 }) else e }

/-- Overlay a store on the bytes of a line. -/
def overlay (base : Nat) (bs : List Byte) (k n v : Nat) : List Byte :=
  bs.mapIdx fun i b => if k ≤ base + i && base + i < k + n then BitVec.ofNat 8 (v / 256 ^ (base + i - k)) else b
/-- A core's own L1 lines after it has read or written n bytes from a place at their home: the aligned 8 bytes around each of them are as
they are there (R197, R205, R207, R208; log entry 8). -/
def State.refreshOwn (s : State) (p k n : Nat) : State :=
  let fresh (l : Line) : Line := if rangesMeet l.key 128 k n then
      { l with data := l.data.mapIdx fun i b => if k / 8 ≤ (l.key + i) / 8 && decide ((l.key + i) / 8 ≤ (k + n - 1) / 8) then memGet s.mem (l.key + i) else b }
    else l
  s.modCore p fun c => { c with l1 := c.l1.map fresh }
/-- The value of n bytes from an offset of a line. -/
def lineValue (bs : List Byte) (off : Nat) : Nat → Nat
  | 0 => 0
  | n + 1 => (bs.getD off 0).toNat + 256 * lineValue bs (off + 1) n

/-- Whether a virtual address lies in a range that some die of the package has sealed for a context (R187). -/
def State.sealedAt (s : State) (ctx va n : Nat) : Bool := s.seals.any fun e => e.ctx == ctx && rangesMeet e.start e.len va n
/-- Self-invalidation of a core's L1 at an acquire of .cl or wider: lines sealed by its die stay (R187, R198). -/
def State.selfInvalidate (s : State) (p : Nat) : State :=
  let keep (l : Line) : Bool := s.seals.any fun e => e.die == pdie p && e.ctx == l.ctx && rangesMeet e.start e.len l.va 128
  s.modCore p fun c => { c with l1 := c.l1.filter keep }
/-- Threads of a group acquire at a scope: at .cl or wider their core's L1 is self-invalidated, and their later loads of global data are
performed at the home (R198, R210, R301). -/
def State.acquire (s : State) (p gi : Nat) (slots : List Nat) (level : Nat) : State :=
  if level < 2 then s else (s.selfInvalidate p).modGroup p gi (·.modThreads slots fun t => { t with acquired := true })
/-- Lines an L1 holds at most (R182). -/
def l1Lines (carve : Nat) : Nat := (512 * 1024 - carveBytes carve) / 128

/-! Windows (R177 to R180). -/

/-- Whether the bytes of an access lie in the valid window of a core: the scratchpad part or a sub-array (R178). -/
def windowOk (carve : Nat) (a : Int) (n : Nat) : Bool :=
  decide (0 ≤ a) && (decide (a + n ≤ carveBytes carve) || (decide (0x80000 ≤ a) && decide (a + n ≤ 0x280000)))

/-- Whether two workgroups belong to one gang on a cluster (R17, R179). -/
def Workgroup.sameGang (a b : Workgroup) : Bool :=
  a.ctx == b.ctx && a.launch == b.launch && a.wg - a.gang == b.wg - b.gang && (a.tandem.map (·.1)) == (b.tandem.map (·.1))

/-- The workgroup that owns a thread's tiers: the group's own, or a guest's origin workgroup (R181). -/
def State.homeWg (s : State) (p gi slot : Nat) : Option Workgroup :=
  if gi = guestIx then ((s.core p).guests.thread? slot).bind fun t => t.origin.bind s.originWg else (s.core p).wg
/-- The member of a workgroup's gang on a logical core, and whether it is placed; a saved one keeps its core's number (R179, R395). -/
def State.gangMember (s : State) (w : Workgroup) (lc : Nat) : Option (Workgroup × Bool) :=
  match (s.core (s.phys lc)).wg.filter fun t => t.lcore == lc && t.sameGang w with
  | some t => some (t, true)
  | none => (s.saved.findSome? fun u => (u.units.find? fun x => x.1.lcore == lc && x.1.sameGang w).map (·.1)).map fun t => (t, false)
/-- Whether the gang member that a cluster address names is on its logical core. -/
def isMate (lc : Nat) (m : Nat × Nat) (w : Workgroup) : Bool := w.lcore == lc && w.launch == m.1 && w.wg == m.2

/-- The core of a gang member: the one it is on, or what its frame holds of it while it is saved (R253, R395). -/
def State.coreOfMate (s : State) (lc : Nat) (m : Nat × Nat) : Option Core :=
  if (s.core (s.phys lc)).wg.any (isMate lc m) then some (s.core (s.phys lc))
  else s.saved.findSome? fun u => (u.units.zip u.cores).findSome? fun x => if isMate lc m x.1.1 then some x.2 else none

/-- The workgroup that holds a barrier; where it is placed, and where it is at all: its core's record (R253, R259). -/
def Workgroup.home (w : Workgroup) : Home := ⟨w.lcore, w.launch, w.wg⟩
def State.homeHere (s : State) (h : Home) : Bool := (s.core (s.phys h.lc)).wg.any (isMate h.lc (h.launch, h.wg))
def State.homeCore (s : State) (h : Home) : Option Core := s.coreOfMate h.lc (h.launch, h.wg)

/-- The core window that a tier and address name for a workgroup: logical core and offset (R177 to R179). -/
def State.windowOf (s : State) (w : Workgroup) (tier : Tier) (a : Int) (n : Nat) : Option (Nat × Nat) :=
  match tier with
  | .smem => if windowOk w.carve a n then some (w.lcore, a.toNat) else none
  | .cmem =>
    if a < 0 || 2 ^ 26 ≤ a then none else
    let lc := clusterOf w.lcore * 16 + a.toNat / 2 ^ 22
    match s.gangMember w lc with
    | some (t, _) => if windowOk t.carve (a % 2 ^ 22) n then some (lc, a.toNat % 2 ^ 22) else none
    | none => none
  | _ => none

/-- The sub-arrays whose windows a range of offsets meets (R178). -/
def subsOf (off n : Nat) : List Nat := (List.range 4).filter fun q => rangesMeet off n (0x80000 * (q + 1)) 0x80000
/-- The sub-array of one offset. -/
def subOf (off : Nat) : Option Nat := if 0x80000 ≤ off && off < 0x280000 then some ((off - 0x80000) / 0x80000) else none

end Sys2Proof.Machine
end

