-- ==== Sys2Proof/Machine/Access.lean ====
section
/-! DEFINITION. Lane accesses as they are issued (spec/09_memory_instructions.md R229, R230, R234, R249;
spec/14_migration.md R344, R345): addresses, the issue checks in their order, translation, and the posting of the operation
with its misses, travels and held writes. -/

namespace Sys2Proof.Machine

/-- One lane's access as an instruction asks for it. -/
structure LaneReq where
  slot : Nat
  a : Int
  v : DWord := 0
  v2 : DWord := 0
deriving DecidableEq, Repr

/-- What is common to the lanes of an issue: tier, bytes, whether it reads or writes, .go, whether it can travel at all
(R234), and whether only rows 1, 2 and 5 of R230 are checked (R362). -/
structure AccReq where
  tier : Tier
  n : Nat
  reads : Bool
  writes : Bool
  go : Bool := false
  mayTravel : Bool := false
  bare : Bool := false
  /-- Alignment where it is not the width (R152), and whether the tensor walker translates instead (R186). -/
  align : Option Nat := none
  walker : Bool := false
deriving DecidableEq, Repr

def AccReq.acc (q : AccReq) : Acc := if q.reads && q.writes then .rmw else if q.writes then .write else .read
/-- The KIND of a fault-queue record (R395). -/
def AccReq.kind (q : AccReq) : Nat := if q.writes then 1 else 0

/-- How the base of a tier is read (R229). -/
def baseAs : Tier → RdAs
  | .glob => .w64z
  | _ => .w32

/-- A trap of one lane, with the data addresses that guests carry home (R423, R424, R355). -/
def laneTrap (e : Iss) (ls : List LaneReq) (l : LaneReq) (t : Trap) : Stop :=
  let ad (x : Int) : Nat := (x % 2 ^ 64).toNat
  .trap { t with lane := some (e.thread l.slot).lane, addr := ad l.a, addrs := ls.map fun r => (r.slot, ad r.a) }
/-- One check, made for every lane before the next check (R230). -/
def checkLanes (e : Iss) (ls : List LaneReq) (f : LaneReq → Option Trap) : Except Stop Unit :=
  match ls.findSome? fun l => (f l).map fun t => (l, t) with
  | none => .ok ()
  | some (l, t) => .error (laneTrap e ls l t)

/-- A lane's access placed in the window of its tier (R177 to R181); none outside it. A cluster address may name a gang
member that is saved (R395): its place is then known when it is placed again. A misaligned address is judged by itself (R229). -/
def Iss.place (e : Iss) (q : AccReq) (l : LaneReq) : Option LaneOp :=
  let t := e.thread l.slot
  let o : LaneOp := { slot := l.slot, lane := t.lane, tier := q.tier, va := l.a.toNat, size := q.n, v := l.v, v2 := l.v2, go := q.go }
  let d := (e.s.ctx (e.s.ctxAt e.p e.gi l.slot)).desc
  let home := match t.origin with | some r => r.core | none => e.w.elim 0 (·.lcore)
  let n := if q.align.isNone && l.a % q.n != 0 then 1 else q.n
  match q.tier with
  | .glob => if 0 ≤ l.a && l.a + n ≤ 2 ^ 57 then some o else none
  | .dmem =>
    if 0 ≤ l.a && l.a + n ≤ d.dslimit * 2 ^ 16 then
      some { o with key := some (dieKey (dieOf home) (d.dsbase * 2 ^ 16 + l.a.toNat)) }
    else none
  | .priv => if 0 ≤ l.a && l.a + n ≤ e.w.elim 0 (·.priv) then some { o with lc := home, grp := e.gi } else none
  | .smem => if windowOk (e.w.elim 0 (·.carve)) l.a n then some { o with lc := home } else none
  | .cmem =>
    if l.a < 0 || 2 ^ 26 ≤ l.a then none else
    let lc := clusterOf home * 16 + l.a.toNat / 2 ^ 22
    ((e.s.homeWg e.p e.gi l.slot).bind (e.s.gangMember · lc)).bind fun m =>
      if windowOk m.1.carve (l.a % 2 ^ 22) n then some { o with lc, mate := some (m.1.launch, m.1.wg) } else none

/-- The core whose window a lane's access reaches, or what the frame of a saved gang member holds of it (R253), with the offset in it. -/
def State.laneWindow (s : State) (l : LaneOp) : Option (Core × Nat) :=
  match l.tier with
  | .smem => some (s.core (s.phys l.lc), l.va % 2 ^ 22)
  | .cmem => (l.mate.bind (s.coreOfMate l.lc)).map fun c => (c, l.va % 2 ^ 22)
  | _ => none

/-- Rows 6 to 9 of R230 for a lane (R187, R194, R218, R253); `k` is its place where it is known. -/
def Iss.laneChecks (e : Iss) (q : AccReq) (l : LaneOp) : List (Option Trap) :=
  let c := e.s.core e.p
  let ctx := e.s.ctxAt e.p e.gi l.slot
  let self := e.s.logical e.p % 16
  let tier := l.tier.code
  let lockAt (c : Core) (t a self : Nat) : Option Trap :=
    (c.lockHit ctx t a l.size q.writes self).map fun n => { cause := 0x0F, info := n }
  [ if q.writes && l.tier == .glob && e.s.sealedAt ctx l.va l.size then some { cause := 0x0D } else none,
    if l.tier == .glob && l.key.any (fun k => e.s.flagged.contains (k / 2 ^ 16)) then some { cause := 0x0E } else none,
    if l.tier == .priv then none
    else match lockAt c tier l.va self with
      | some t => some t
      | none => match e.s.laneWindow l with
        | some (x, off) => if l.lc = e.s.logical e.p then none else lockAt x 1 off (l.lc % 16)
        | none => none,
    match e.s.laneWindow l with
    | some (x, off) => if q.writes then (x.mirrorHit off l.size).map fun b => { cause := 0x13, info := b } else none
    | none => none ]

/-- Row 10 of R230: the watchpoint that a lane's access meets (R435). -/
def Iss.watchHit (e : Iss) (q : AccReq) (l : LaneOp) : Option Trap :=
  if !e.watched || l.tier != .glob then none else
  let x := e.s.ctx (e.s.ctxAt e.p e.gi l.slot)
  let d (i : Nat) : Nat := (mget 0 x.debug i).toNat
  let meets (n : Nat) : Bool :=
    let ctl := d (0x11A + 3 * n)
    let size := 2 ^ bits ctl 4 0
    let a := (d (0x118 + 3 * n) + bits (d (0x119 + 3 * n)) 24 0 * 2 ^ 32) / size * size
    bit ctl 31 && ((bit ctl 30 && q.reads) || (bit ctl 29 && q.writes)) && rangesMeet a size l.va l.size
  ((List.range 2).find? meets).map fun n => { cause := 0x1E, info := n }

/-- The guest core of a line of this package (R345). -/
def guestCore (key : Nat) : Nat :=
  let q := key % 2 ^ 36
  128 * (key / 2 ^ 36 / 2) + (bits q 13 7 ^^^ bits q 20 14)

/-- Where a lane's access would travel to (R344, R345): the logical core, other than the current one. -/
def State.travelTo (s : State) (p gi : Nat) (l : LaneOp) : Option Nat :=
  let ctx := s.ctxAt p gi l.slot
  let x := s.ctx ctx
  let asked := l.go || (l.tier == .glob && pteTravel l.leaf && bit x.accept 2)
  let home := match l.tier with
    | .cmem => some l.lc
    | .glob => if pteMemside l.leaf || pteLoc l.leaf != 0 then none else l.key.map guestCore
    | _ => none
  match home with
  | none => none
  | some h => if !asked || x.migOff || h = s.logical p then none else some h

/-- Translate the lanes of a global access in lane order (R249, R384 to R388, R393); the first refusal by a TLB entry as the
TLB was at the issue is answered beside them. -/
def Iss.translate (e : Iss) (q : AccReq) : State → List LaneOp → State × List LaneOp × Option (Nat × Refuse)
  | s, [] => (s, [], none)
  | s, l :: ls =>
    let (s, r) := s.xlate e.p (s.ctxAt e.p e.gi l.slot) l.va q.acc
    let (l, bad) : LaneOp × Option (Nat × Refuse) := match r with
      | .hit k leaf psize => ({ l with key := some k, leaf, psize }, none)
      | .refusedNow r => (l, some (l.slot, r))
      | .missRefused r => ({ l with miss := true, refused := some (r.cause, r.reason) }, none)
      | .short _ psize => ({ l with miss := true, psize }, none)
      | .long page => ({ l with miss := true, long := some page }, none)
    let (s, ls, b) := e.translate q s ls
    (s, l :: ls, bad.orElse fun _ => b)

/-- The issue checks of R230 for the lanes of an access, and its lanes placed and translated. -/
def Iss.locate (e : Iss) (q : AccReq) (ls : List LaneReq) : Except Stop (State × List LaneOp) := do
  checkLanes e ls fun l => match (e.thread l.slot).origin with
    | some r =>
      let cur := e.s.logical e.p
      if (q.tier == .cmem && clusterOf r.core != clusterOf cur) || (q.tier == .dmem && dieOf r.core != dieOf cur)
      then some (trapAway 0xFF none) else none
    | none => none
  checkLanes e ls fun l => if (e.place q l).isSome then none else some { cause := 0x0C }
  if !q.bare then
    checkLanes e ls fun l => if l.a % (q.align.getD q.n : Nat) != 0 then some trapMisaligned else none
    checkLanes e ls fun l => ((e.place q l).bind e.s.laneWindow).bind fun w => (subsOf w.2 q.n).findSome? fun sub =>
      match w.1.arr.window sub with
      | .ordinary => none
      | .free => if Config.freeBool e.s.draws (site 0 0) then some { cause := 0x0B, info := sub } else none
      | .busy => some { cause := 0x0B, info := sub }
  let placed := ls.filterMap (e.place q)
  let (s, los, bad) := if q.tier == .glob && !q.walker then e.translate q e.s placed else (e.s, placed, none)
  match bad with
  | some (slot, r) => checkLanes e ls fun l => if l.slot = slot then some { cause := r.cause, reason := r.reason } else none
  | none => pure ()
  if !q.bare then
    for i in [0, 1, 2, 3] do
      checkLanes e ls fun l => (los.find? (·.slot == l.slot)).bind fun o => ((e.laneChecks q o).getD i none)
    checkLanes e ls fun l => (los.find? (·.slot == l.slot)).bind (e.watchHit q)
  pure (s, if q.mayTravel then los.map fun l =>
      if !l.miss && (s.travelTo e.p e.gi l).isSome then { l with trav := .due } else l else los)

/-- The writes of an operation just posted enter the buffer of a tandem copy in issue order, and are performed there; one that misses waits for
its place (R465). -/
def State.holdWrites (s : State) (p gi id : Nat) : State :=
  match (s.group p gi).op? id with
  | none => s
  | some o =>
    (s.modCore p fun c => { c with tbuf := c.tbuf ++ (o.heldWrites gi).filter fun h => !o.lanes.any fun l => l.slot == h.slot && l.refused.isSome }).modGroup p gi
      (·.setOp { o with lanes := o.lanes.map fun l => if l.miss then l else { l with done := true } })

/-- Post an access (R46, R233, R249): its misses are registered and the group parked while a lane is held; a travelling lane
parks it as a drain does (R346). Answers whether the run ends. -/
def Iss.postAccess (e : Iss) (c : Ctl) (q : AccReq) (o : Op) (los : List LaneOp) (dsts : List (Nat × Nat)) (s : State)
    (counted : Bool := true) : Eff :=
  if e.act.isEmpty then .ok (e.s, false)
  else if counted && 63 ≤ mget 0 e.g.tok c.t then .error (.hold (.token c.t))
  else
    let id := (s.group e.p e.gi).nextOp
    match (if counted then e.post s c { o with lanes := los } dsts else .ok (e.enter s c { o with lanes := los }, false)) with
    | .error x => .error x
    | .ok (s, _) =>
      let s := if e.tandem && o.i.heldWrite && !e.commits o.i then s.holdWrites e.p e.gi id else s
      let s := los.foldl (fun s l =>
        if !l.miss || l.refused.isSome then s
        else
          let ctx := s.ctxAt e.p e.gi l.slot
          match l.long with
          | some _ => s.longMiss ctx l.va q.kind
          | none => s.shortMiss ctx (l.va / l.psize * l.psize) l.psize q.writes) s
      if los.any (·.miss) then
        let s := s.park e.p e.gi .replay
        .ok (if e.guest || !(los.any (·.long.isSome)) then s else s.modWg e.p fun w => { w with frozen := true }, true)
      else if los.any (·.trav == .due) then .ok (s.park e.p e.gi (.travel id), true)
      else .ok (s, false)

end Sys2Proof.Machine
end

