-- ==== Sys2Proof/Machine/Report.lean ====
section
/-! DEFINITION. The logs that the device writes into control node memory: the asynchronous fault queue of a context
(spec/18_containment.md R477) and the health log of a partition (R461); and the deferred trap (R280, R454). -/

namespace Sys2Proof.Machine

/-- Mark the launch of a report as failed (R334, R477). -/
def State.failLaunch (s : State) (id : Nat) : State :=
  { s with launches := mmod s.launches id fun l => { l with failed := true } }

/-- Report to the asynchronous fault queue of a context (R477): kind, poison class, the launch and workgroup concerned, PC and
detail. -/
def State.asyncFault (s : State) (ctx kind cls launch wg pc detail : Nat) : State :=
  let s := s.failLaunch launch
  let x := s.ctx ctx
  match s.part x.desc.part with
  | none => s
  | some q =>
    let (queue, entry) := ((mfind s.launches launch).map fun l => (l.queue, l.entry)).getD (0, 0)
    let e := 2 ^ 32 * ctx + 2 ^ 40 * kind + 2 ^ 48 * cls + 2 ^ 56 * queue + 2 ^ 64 * (entry % 2 ^ 32) + 2 ^ 96 * (wg % 2 ^ 32)
      + 2 ^ 128 * pc + 2 ^ 192 * detail
    let (s, n) := s.ringPut (q.stopBase + 20 * 2 ^ 20 + 2 ^ 16 * ctx) 2047 x.asyncProd e
    s.modCtx ctx fun x => { x with asyncProd := n }

/-! Poison (R452, R464). -/

/-- Retire the frame of a granule in which a second uncorrectable error is recorded (R464). -/
def State.frameError (s : State) (gran : Nat) : State :=
  let frame := gran / 2048
  let stack := gran * 32 / 2 ^ 36
  if s.retired.contains frame then s
  else if !s.ueFrames.contains frame then { s with ueFrames := s.ueFrames ++ [frame] }
  else if 4096 ≤ (s.retired.filter fun f => f * 2 ^ 16 / 2 ^ 36 == stack).length then
    s.healthLog (stack / 2) 7 (bankKey (frame * 2 ^ 16)) (frame * 2 ^ 16) 0
  else State.healthLog { s with retired := s.retired ++ [frame], ueFrames := s.ueFrames.filter (· != frame) } (stack / 2) 4 (bankKey (frame * 2 ^ 16)) (frame * 2 ^ 16) 0
/-- Enter the granule of a place as poisoned, with a class (R452): a full poison record, of 4,096 entries for a
stack and 256 for an L2 slice, which holds the die scratchpad (R180), loses the class. -/
def State.enterPoison (s : State) (key cls : Nat) : State :=
  let gran := key / 32
  if (mfind s.poison gran).isSome then s
  else if 2 ^ 58 ≤ key then
    let die := (key - 2 ^ 58) / 2 ^ 28
    let slice := dieSlice (key % 2 ^ 28)
    if 256 ≤ (s.poison.filter fun e => e.2 != 0 && e.1 * 32 / 2 ^ 28 == key / 2 ^ 28 && dieSlice (e.1 * 32 % 2 ^ 28) == slice).length then
      State.healthLog { s with poison := minsert s.poison gran 0 } die 8 slice 0 0
    else { s with poison := minsert s.poison gran cls }
  else if 2 ^ 40 ≤ key then { s with poison := minsert s.poison gran cls }
  else
    let stack := key / 2 ^ 36
    if 4096 ≤ (s.poison.filter fun e => e.2 != 0 && e.1 * 32 / 2 ^ 36 == stack).length then
      (State.healthLog { s with poison := minsert s.poison gran 0 } (stack / 2) 8 (bankKey key) key 0).frameError gran
    else State.frameError { s with poison := minsert s.poison gran cls } gran

/-- The KIND of an operation's report (R477). -/
def Op.reportKind (o : Op) : Nat :=
  match o.i with
  | .nma .. | .nmar .. | .bdot .. | .gred .. => 3
  | .qsend .. => 4
  | _ => 8
/-- A deferred MEMORY_UE or QUEUE_FORMAT of an operation (R280, R325, R454, R455): it falls due at the next instruction of its
group, or is reported where the group has ended. -/
def State.deferAt (s : State) (p gi : Nat) (o : Op) (t : Trap) : State :=
  let kind := o.reportKind
  let g := s.group p gi
  let detail := if kind = 8 || kind = 3 then t.addr else 0
  let cls := if t.cause = 0x17 then t.info else 0
  if gi = orphanIx then s.asyncFault o.ctx kind cls o.launch o.wg o.pc.toNat detail
  else if gi != guestIx && g.ended then
    let w := (s.core p).wg
    s.asyncFault o.ctx kind cls (w.elim 0 (·.launch)) (w.elim 0 (·.wg)) o.pc.toNat detail
  else if t.cause = 0x17 && gi != guestIx && (s.core p).wg.any (fun w => s.consumable w.launch) then
    s.consume ((s.core p).wg.elim 0 (·.launch))
  else s.modGroup p gi fun g => { g with deferred := g.deferred ++ [{ t with defer := true, xpc := o.pc.toNat, addr := if o.i.addressless then 0 else t.addr }] }
/-- The same for both copies of an operation that a tandem pair shares; what has ended is reported once (R454, R467, R477). -/
def State.deferTrap (s : State) (p gi : Nat) (o : Op) (t : Trap) : State :=
  let s := s.deferAt p gi o t
  match o.twin with
  | some (q, qi, _) => if (s.group q qi).ended then s else s.deferAt q qi o t
  | none => s

end Sys2Proof.Machine
end

