-- ==== Sys2Proof/Machine/Perform.lean ====
section
/-! DEFINITION. Performing the lanes of outstanding accesses (spec/07_memory_tiers.md R183 to R194, spec/08_consistency.md R196
to R214, spec/09_memory_instructions.md R232 to R243, R249 to R252, spec/18_containment.md R454). One call is one event of an
operation; which of its lanes it performs, and in which order, is a free choice among those that the rules let go. -/

namespace Sys2Proof

/-- The destination of an access and its words. -/
def Instr.accDst : Instr → Dst × Nat
  | .ldp _ o | .lds _ o | .ldc _ o | .ldd _ o | .ldg _ o | .xload _ o => (o.dst, o.width.words)
  | .atom _ _ o | .atomf _ _ o => (o.dst, o.ty.words)
  | .cas _ o => (o.dst, o.width.words)
  | .nmar _ o => (o.dst, o.ty.words)
  | _ => (.none, 1)
/-- The width by which a loaded value is extended. -/
def Instr.loadWidth : Instr → Width
  | .ldp _ o | .lds _ o | .ldc _ o | .ldd _ o | .ldg _ o | .xload _ o | .cas _ o => o.width
  | i => if i.width = 8 then .b64 else .b32
/-- The operation and type of an RMW. -/
def Instr.rmw : Instr → RmwOp × Ty
  | .atom _ op o | .atomf _ op o | .red _ op o => (op, o.ty)
  | .cas _ o => (.cas, if o.width == .b64 then .b64 else .b32)
  | .nma _ o | .nmar _ o => (o.op, o.ty)
  | _ => (.add, .b32)
/-- The near-memory commands (R276 to R279). -/
def Instr.nearMemory : Instr → Bool
  | .nma .. | .nmar .. | .bdot .. | .gred .. => true
  | _ => false
/-- MIGTO and MIGRET move threads and access nothing (R362, R363). -/
def Instr.moves : Instr → Bool
  | .migto .. | .migret .. => true
  | _ => false
/-- Whether the instruction carries .remote (R204). -/
def Instr.remote : Instr → Bool
  | .lds _ o | .ldc _ o | .ldd _ o | .ldg _ o | .xload _ o | .atom _ _ o | .atomf _ _ o | .red _ _ o | .cas _ o
  | .fence _ o => o.remote
  | _ => false

/-- The new value of a unit under a read-modify-write (R239, R240); `b` is the operand, `c` the value a CAS compares with. -/
def rmwNew (op : RmwOp) (ty : Ty) (old b c : Nat) : Nat :=
  let w := 2 ^ Machine.tyWidth ty
  let lt (x y : Nat) : Bool := decide (Machine.intOf ty (BitVec.ofNat 64 x) < Machine.intOf ty (BitVec.ofNat 64 y))
  match op with
  | .add => (old + b) % w
  | .min => if lt b old then b else old
  | .max => if lt old b then b else old
  | .and => old &&& b
  | .or => old ||| b
  | .xor => old ^^^ b
  | .exch => b
  | .inc => if b ≤ old then 0 else old + 1
  | .dec => if old = 0 || b < old then b else old - 1
  | .fadd => Machine.fAdd .f32 .rne false false old b
  | .fmin => Machine.fMinMax .f32 false old b
  | .fmax => Machine.fMinMax .f32 true old b
  | .cas => if old = c then b else old

end Sys2Proof

namespace Sys2Proof.Machine

/-- A loaded value extended by its width suffix (R66, R232). -/
def extendLoad (w : Width) (v : Nat) : DWord :=
  match w with
  | .i8 => ((BitVec.ofNat 8 v).signExtend 32).setWidth 64
  | .i16 => ((BitVec.ofNat 16 v).signExtend 32).setWidth 64
  | w => BitVec.ofNat 64 (v % 256 ^ w.bytes)
/-- What a load of poison writes (R454). -/
def poisonLoad (w : Width) (cls : Nat) : DWord :=
  match w with
  | .n8 | .i8 => extendLoad w cls
  | .n16 | .i16 => extendLoad w (0x7F00 + cls)
  | .b32 => (poisonWord cls).setWidth 64
  | .b64 => pairOf (poisonWord cls) (poisonWord cls)

/-- The next free value's argument. -/
def State.draw (s : State) : State := { s with draws := s.draws + 1 }

/-! Free choices. -/

/-- A list in a free order. -/
def freePerm {α : Type} (draws st : Nat) : List α → List α
  | [] => []
  | x :: xs => let r := freePerm draws (st + 1) xs; r.insertIdx (Config.freeNat draws st % (r.length + 1)) x
/-- A free choice of some members of a list. -/
def freeSome {α : Type} (draws st : Nat) : List α → List α
  | [] => []
  | x :: xs => if Config.freeBool draws st then x :: freeSome draws (st + 1) xs else freeSome draws (st + 1) xs

/-! Caches, replicas, leases. -/

/-- Whether lines of a leaf may be in an L1 (R192, R220). -/
def cacheable (leaf : Nat) : Bool := !pteMemside leaf && (pteLoc leaf == 0 || pteLease leaf == 0)

/-- Terms of leases in ticks (R192). -/
def leaseTerm (write : Bool) : Nat := if write then 20000 else 100000
/-- An access of a core's to a line takes or renews the lease on it (R192, R193). -/
def State.touchLine (s : State) (p line : Nat) (write : Bool) : State :=
  let new : Lease := { line, write, since := s.ticks, dirty := write, home := memTake s.mem (line * 128) 128, die := pdie p }
  match mfind s.leases line with
  | none => { s with leases := minsert s.leases line new }
  | some l =>
    let l := if write && !l.write then new else { l with dirty := l.dirty || write, die := if write then pdie p else l.die }
    let l := if l.since + leaseTerm l.write * 3 / 4 ≤ s.ticks then { l with since := s.ticks } else l
    { s with leases := minsert s.leases line l }
/-- The same for every line of n bytes, where they are cached only under a lease. -/
def State.touchLease (s : State) (p leaf key n : Nat) (write : Bool) : State :=
  if pteLoc leaf == 0 || pteLease leaf != 0 then s else (linesOf key n).foldl (fun s l => s.touchLine p l write) s

/-- Write a leased line's dirty data back: the home's bytes become those held (R193); a halted die writes none back (R194). -/
def State.leaseBack (s : State) (line : Nat) : State :=
  { s with leases := mmod s.leases line fun l => if s.halted l.die then l else { l with dirty := false, home := memTake s.mem (line * 128) 128 } }
/-- What an access of a core's to global data moves: its leases, HBM columns and flits. -/
def State.transfer (s : State) (p ctx leaf k n : Nat) (write : Bool) : State :=
  ((s.touchLease p leaf k n write).hbm ctx k n (pteMemside leaf) write).flits (pdie p) ctx k

/-- Dies other than the home's that hold a replica of a chunk, or whose L1s hold one of its lines (R190, R191). -/
def State.copiesOf (s : State) (chunk : Nat) : Bool :=
  let home := chunk * 2 ^ 16 / 2 ^ 36 / 2
  (s.replicas.any fun e => e.1 / 512 == chunk && e.2.any (· != home))
    || s.cores.any fun e => pdie e.1 != home && e.2.l1.any fun l => l.key / 2 ^ 16 == chunk
/-- Whether a write to a place must wait for a collapse (R191). -/
def State.mustCollapse (s : State) (leaf key : Nat) : Bool :=
  pteReplicate leaf && (s.collapsing.contains (key / 2 ^ 16) || s.copiesOf (key / 2 ^ 16))
/-- Whether a write that reached a home during a collapse still waits there. -/
def State.stalled (s : State) : Writer → Bool
  | .lane p gi op slot => ((s.group p gi).op? op).any fun o => o.lanes.isEmpty || o.lanes.any fun l => l.slot == slot && !l.done && l.refused.isNone
  | .segment p k _ _ => let c := s.core p; (c.past ++ c.wg.elim [] (·.copies)).any (·.k == k)
  | .pannier n => (mfind s.panniers n).isSome
  | .held p => !(s.core p).tbuf.isEmpty
  | .counter l => (mfind s.launches l).isSome
/-- Whether a write to a replicated page must wait at its home: for a collapse, or for writes that reached the chunk before it (R191). -/
def State.mustStall (s : State) (leaf key : Nat) (w : Writer) : Bool :=
  s.mustCollapse leaf key || (pteReplicate leaf && (s.stalls.find? fun e => e.1 == key / 2 ^ 16 && s.stalled e.2).any (·.2 != w))
/-- A write reaches the home of a chunk and waits there; the collapse begins (R191). -/
def State.stall (s : State) (key : Nat) (w : Writer) : State :=
  let chunk := key / 2 ^ 16
  { s with collapsing := if s.collapsing.contains chunk || !s.copiesOf chunk then s.collapsing else s.collapsing ++ [chunk]
           stalls := if s.stalls.contains (chunk, w) then s.stalls else s.stalls ++ [(chunk, w)] }
/-- A write that has been performed waits no longer. -/
def State.unstall (s : State) (w : Writer) : State :=
  if s.stalls.isEmpty then s else { s with stalls := s.stalls.filter fun e => e.2 != w && s.stalled e.2 }

/-- A number with n of its bytes, from one of them on, replaced. -/
def putBytes (v i n x : Nat) : Nat := v / 256 ^ (i + n) * 256 ^ (i + n) + x % 256 ^ n * 256 ^ i + v % 256 ^ i
/-- A held write made on the 8 aligned bytes that hold it (R465): a store, or the operation of a RED. -/
def Held.onto (h : Held) (base v : Nat) : Nat :=
  match h.key with
  | none => v
  | some k =>
    if k / 8 * 8 != base then v
    else putBytes v (k - base) h.size (match h.i with
      | .red _ op o => rmwNew op o.ty (v / 256 ^ (k - base) % 256 ^ h.size) h.v 0
      | _ => h.v)
/-- What a load of a tandem copy finds: its own held writes, in issue order, over what it read (R465); it lies in 8 aligned bytes (R177). -/
def State.heldView (s : State) (p k n v : Nat) : Nat :=
  let c := s.core p
  if c.tbuf.any fun h => h.key.any fun x => rangesMeet x h.size k n then
    let base := k / 8 * 8
    c.tbuf.foldl (fun v h => h.onto base v) (putBytes (s.read base 8) (k - base) n v) / 256 ^ (k - base) % 256 ^ n
  else v

/-- Fill a core's L1 with a line as its home has it (R198); a read of a replicated page may install a replica (R190). -/
def State.fillLine (s : State) (p : Nat) (o : Op) (l : LaneOp) (k : Nat) : State :=
  let base := k / 128 * 128
  let c := s.core p
  let ln : Line := { key := base, data := memTake s.mem base 128, va := l.va / 128 * 128, ctx := o.ctx
                     bad := (columnsOf base 128).filter fun g => (s.poisonAt (32 * g) 32).isSome }
  let rest := c.l1.filter (·.key != base)
  let s := s.setCore p { c with l1 := (rest.drop (rest.length + 1 - l1Lines c.carve)) ++ [ln] }
  let held := mget [] s.replicas (k / 128)
  let s := if pteReplicate l.leaf && !s.collapsing.contains (k / 2 ^ 16) && pdie p != k / 2 ^ 37
      && Config.freeBool s.draws (site 4 l.slot) && !held.contains (pdie p) then
    { s with replicas := minsert s.replicas (k / 128) (held ++ [pdie p]) } else s
  s.transfer p o.ctx l.leaf k l.size false
/-- The value of a load that goes to its line in L1 (R198, R207): the copy held there, whose lease it may renew (R193), or the line filled
anew; poisoned granules are not held (R452). -/
def State.loadCached (s : State) (p : Nat) (o : Op) (l : LaneOp) (k : Nat) : State × Nat :=
  let off := k % 128
  match if (s.poisonAt k l.size).isSome then none else (s.core p).l1.find? fun x => x.key == k - off && !(columnsOf k l.size).any x.bad.contains, Config.freeBool s.draws (site 3 l.slot) with
  | some ln, true => (s.touchLease p l.leaf k l.size false, lineValue ln.data off l.size)
  | _, _ => (s.fillLine p o l k, s.read k l.size)

/-! One lane. -/

/-- Note the lowest lane of an operation that met poison (R454). -/
def Op.meet (o : Op) (l : LaneOp) (cls : Nat) : Op :=
  match o.ue with
  | some (n, _, _) => if l.lane < n then { o with ue := some (l.lane, cls, l.va) } else o
  | none => { o with ue := some (l.lane, cls, l.va) }
/-- A lane of an operation changed. -/
def Op.setLane (o : Op) (l : LaneOp) : Op := { o with lanes := o.lanes.map fun m => if m.slot = l.slot then l else m }

/-- The place at which a lane is performed now: none where it waits for a workgroup that is not placed (R223, R395); the
second answer says that the workgroup it names is gone for good (log entry 11). -/
def State.placeNow (s : State) (gi : Nat) (l : LaneOp) : Option Nat × Bool :=
  match l.tier with
  | .glob | .dmem => (l.key, false)
  | .priv => (some (privKey (s.phys l.lc) l.grp l.lane l.va), false)
  | _ =>
    let p := s.phys l.lc
    let here := some (windowKey p (l.va % 2 ^ 22))
    match l.mate with
    | none => if (s.core p).wg.isSome || gi = orphanIx then (here, false) else (none, !s.saved.any fun u => u.units.any fun x => x.1.lcore == l.lc)
    | some m =>
      if (s.core p).wg.any (isMate l.lc m) then (here, false) else (none, !s.saved.any fun u => u.units.any fun x => isMate l.lc m x.1)

/-- A lane's result reaches its destination (R232, R239). -/
def State.landLane (s : State) (p gi : Nat) (o : Op) (slot : Nat) (v : DWord) : State :=
  let (dst, words) := o.i.accDst
  let go := match dst with | .s _ => o.act.head? == some slot | _ => true
  if go then s.landRegs p gi o (dstWrites dst words [(slot, v)]) else s

/-- Write a lane's bytes where they live, for core p at a scope level: a line held under a lease is written back for .dom and .sys (R193,
R198, R233). -/
def State.writeHome (s : State) (p level : Nat) (o : Op) (l : LaneOp) (k v : Nat) : State :=
  if l.tier != .glob then s.write k l.size v
  else
    let s := ((s.transfer p o.ctx l.leaf k l.size true).write k l.size v).refreshOwn p k l.size
    if 5 ≤ level then (linesOf k l.size).foldl State.leaseBack s else s
/-- Perform a store where its bytes live; one to a poisoned unit is not made (R454). -/
def State.storeHome (s : State) (p level : Nat) (o : Op) (l : LaneOp) (k : Nat) : State × Op :=
  let o' := o.setLane { l with done := true }
  match s.poisonAt k l.size with
  | some cls => (s, o'.meet l cls)
  | none => (s.writeHome p level o l k l.v.toNat, o')

/-- Whether a lower lane of a plain store must reach a level before this one (R196). -/
def Op.lowerFirst (o : Op) (l : LaneOp) (level : Nat) : Bool :=
  o.lanes.any fun m => decide (m.slot < l.slot) && m.mayMeet l && !m.doneAt level

/-- The scope level of an operation for the group that issued it. -/
def Op.level (o : Op) (gi : Nat) : Nat := levelFor gi (o.i.accKind.getD {}).level
/-- Whether a lane is not to be performed now whatever it is: it is over, refused, held for a miss or travelling. -/
def LaneOp.idle (l : LaneOp) : Bool :=
  l.done || l.refused.isSome || l.long.isSome || (l.tier == .glob && l.key.isNone) || !(l.trav == .no || l.trav == .fell)
/-- Whether a load takes its value from the core's L1 and the stores held there: not where it acquires at .cl or wider, nor once its thread
has made such an acquire (R198, R210, R301). -/
def State.nearLoad (s : State) (p gi : Nat) (o : Op) (l : LaneOp) : Bool :=
  l.tier == .glob && cacheable l.leaf && !((o.i.accKind.getD {}).order.acquires && decide (2 ≤ o.level gi))
    && !((s.group p gi).thread? l.slot).any (·.acquired)

/-- Perform a lane of a store at a place, if the rules let it go now: it enters the L1 first where its line may be cached, and is performed
at its home later (R198, R233). -/
def State.storeLane (s : State) (p gi : Nat) (o : Op) (l : LaneOp) (a : Nat) : State × Op :=
  let glob := l.tier == .glob
  if glob && cacheable l.leaf && l.l1.isNone then
    if (s.group p gi).blocked gi o l.slot (some l) false || o.lowerFirst l 1 then (s, o) else (s, o.setLane { l with l1 := some s.draws })
  else if s.waits p gi o l.slot (some l) || o.lowerFirst l 6 || (glob && ((s.core p).l1Pending l.l1 a l.size || s.leaseWaits a l.size true)) then (s, o)
  else if glob && s.mustStall l.leaf a (.lane p gi o.id l.slot) then (s.stall a (.lane p gi o.id l.slot), o)
  else
    let (s, o) := (s.unstall (.lane p gi o.id l.slot)).storeHome p (o.level gi) o l a
    (if (o.i.accKind.getD {}).order.releases then s.publish (o.level gi) else s, o)
/-- Perform a lane of a read-modify-write where its unit lives (R206, R239, R240). A CAS that fails writes nothing and releases nothing. -/
def State.rmwLane (s : State) (p gi : Nat) (o : Op) (l : LaneOp) (a : Nat) : State × Op :=
  let k := o.i.accKind.getD {}
  let lvl := o.level gi
  let glob := l.tier == .glob
  let (op, ty) := o.i.rmw
  let old := s.read a l.size
  let failing := op == .cas && old != l.v2.toNat
  let k' : AccKind := if failing then { k with order := match k.order with | .rel => .rlx | .ar => .acq | x => x } else k
  if s.waitsAs p gi k' o l.slot (some l) || (glob && ((s.core p).l1Pending none a l.size || s.leaseWaits a l.size true)) then (s, o)
  else if !failing && glob && s.mustStall l.leaf a (.lane p gi o.id l.slot) then (s.stall a (.lane p gi o.id l.slot), o)
  else
    let s := s.unstall (.lane p gi o.id l.slot)
    let s := if k.order.acquires then s.acquire p gi [l.slot] lvl else s
    let o' := o.setLane { l with done := true }
    -- R281, R407: a command performed in the package is counted, and moves its column at the stack.
    let atNmu := o.i.nearMemory && decide (a < 2 ^ 40)
    let s := if atNmu then (((s.count o.ctx 21 1).readUe a l.size).count o.ctx 17 32).flits (pdie p) o.ctx a else s
    match s.poisonAt a l.size with
    | some cls => ((if atNmu then s else s.readUe a l.size).landLane p gi o l.slot (poisonLoad o.i.loadWidth cls), o'.meet l cls)
    | none =>
      let new := rmwNew op ty old (l.v.toNat % 256 ^ l.size) (l.v2.toNat % 256 ^ l.size)
      let s := if failing then
          if atNmu then s.refreshOwn p a l.size
          else if glob then (s.transfer p o.ctx l.leaf a l.size true).refreshOwn p a l.size else s
        else if atNmu then ((s.count o.ctx 18 32).write a l.size new).refreshOwn p a l.size
        else s.writeHome p lvl o l a new
      let s := if k'.order.releases then s.publish lvl else s
      (s.landLane p gi o l.slot (BitVec.ofNat 64 old), o')
/-- Perform a lane of a load: from the core's L1 and the stores held there, or at the home (R197, R198, R207, R232). -/
def State.loadLane (s : State) (p gi : Nat) (o : Op) (l : LaneOp) (a : Nat) : State × Op :=
  let k := o.i.accKind.getD {}
  let glob := l.tier == .glob
  let near := s.nearLoad p gi o l
  let own := if near then (s.core p).forward a l.size else none
  if (if near then (s.group p gi).blocked gi o l.slot (some l) false || s.leaseWaits a l.size false
      else s.waits p gi o l.slot (some l) || (glob && ((s.core p).l1Pending none a l.size || s.leaseWaits a l.size false))) then (s, o)
  else match own with
  | some none => (s, o)
  | own =>
    let s := if k.order.acquires then s.acquire p gi [l.slot] (o.level gi) else s
    let s := if k.order.releases then s.publish (o.level gi) else s
    let (s, v) := match own with
      | some (some v) => (s.touchLease p l.leaf a l.size false, v)
      | _ =>
        if near then s.loadCached p o l a
        else if glob && cacheable l.leaf then (s.fillLine p o l a, s.read a l.size)
        else ((if glob then s.transfer p o.ctx l.leaf a l.size false else s), s.read a l.size)
    let v := s.heldView p a l.size v
    let o' := o.setLane { l with done := true }
    match s.poisonAt a l.size with
    | some cls => (s.landLane p gi o l.slot (poisonLoad o.i.loadWidth cls), o'.meet l cls)
    | none => (s.landLane p gi o l.slot (extendLoad o.i.loadWidth v), o')
/-- Perform one lane of an access, if the rules let it go now. One whose region has lost a lease meanwhile is refused; a store that is in the
L1 then, or belongs to a retired workgroup, is lost (R194; log entry 82). -/
def State.performLane (s : State) (p gi : Nat) (o : Op) (l : LaneOp) : State × Op :=
  match o.i.accKind with
  | none => (s, o)
  | some k =>
  if l.idle then (s, o) else
  -- R362: a lane of MIGTO that stays performs nothing.
  if o.i.moves then (s, o.setLane { l with done := true }) else
  match s.placeNow gi l with
  | (none, gone) =>
    if gone then
      let s := if k.reads then s.landLane p gi o l.slot (BitVec.ofNat 64 (Config.freeNat s.draws (site 6 l.slot))) else s
      (s, o.setLane { l with done := true })
    else (s, o)
  | (some a, _) =>
  if l.tier == .glob && !s.reaches (pdie p) a then (s, o)
  else if l.tier == .glob && s.flagged.contains (a / 2 ^ 16) then
    (s, o.setLane (if l.l1.isSome || gi = orphanIx then { l with done := true } else { l with refused := some (0x0E, 0) }))
  else if k.writes && !k.reads then s.storeLane p gi o l a
  else if k.writes then s.rmwLane p gi o l a
  else s.loadLane p gi o l a

/-- Perform the listed lanes one after the other. -/
def State.performLanes (s : State) (p gi : Nat) (o : Op) : List Nat → State × Op
  | [] => (s, o)
  | n :: ns =>
    let (s, o) := match o.lanes.find? (·.slot == n) with | some l => s.performLane p gi o l | none => (s, o)
    s.performLanes p gi o ns

/-! The group after its operations have moved. -/

/-- Whether a group still has a lane held for replay, or one whose travel is not decided (R249, R346). -/
def Group.undecided (g : Group) : Bool := g.ops.any fun o => o.lanes.any fun l =>
  (l.miss && !l.doneAt 1) || (match l.trav with | .due | .asked _ | .again _ _ => !l.done | _ => false)
/-- A group parked for its held or travelling lanes goes on when there are none left; a D bit then still waits (R249, R346,
R49). -/
def Group.settleLanes (g : Group) : Group :=
  match g.park with
  | some .replay | some (.travel _) => if g.undecided then g else g.unpark
  | _ => g

/-- Write an operation back, and complete it or count its token down where it is due (R46, R233). -/
def State.putOp (s : State) (p gi : Nat) (o : Op) : State :=
  let k := o.i.accKind.getD {}
  let lvl := levelFor gi k.level
  let all := o.lanes.all (·.done)
  let counted := all || (k.writes && !k.reads && decide (lvl ≤ 1) && o.lanes.all (·.doneAt lvl))
  let s := s.modGroup p gi (·.setOp o)
  let s := if counted && o.tok.isSome then s.landRegs p gi o o.writes else s
  -- R454, R280: an uncorrectable error is raised with the count of the token, or at the end of what goes on after it.
  let due := all || (counted && (o.tok.isSome || o.i.nearMemory))
  let s := if !due then s else match o.ue with
    | some (n, cls, va) => (s.deferTrap p gi o { cause := 0x17, info := cls, lane := some n, addr := va }).modGroup p gi (·.setOp { o with ue := none })
    | none => s
  let o := if due then { o with ue := none } else o
  let s := if counted && (o.tok.isSome || o.i.nearMemory) then
      s.withTwin p gi o fun g o =>
        let g := match o.tok with | some t => g.unpost t | none => g
        (g.setOp { o with tok := none }).settle
    else s
  let s := if all then s.withTwin p gi o (fun g o => g.dropOp o.id) else s
  s.modGroup p gi (·.settleLanes)

/-- The trap of an operation with a refused lane, in the group that issued it; the lanes not performed are named by slot in a guest group, whose
threads carry home their own (R351, R355). -/
def State.refuseIn (s : State) (p gi : Nat) (o : Op) (l : LaneOp) (lanes : List LaneOp) : State :=
  let (cause, reason) := l.refused.getD (0, 0)
  let left := o.lanes.filter fun m => m.l1.isSome && !m.done
  let s := s.modGroup p gi fun g =>
    let g := match o.tok with | some t => g.unpost t | none => g
    let g := if left.isEmpty || o.shadow then g.dropOp o.id else g.setOp { o with tok := none, lanes := left, ue := none }
    { g with
      hazards := g.hazards.filter fun h => !(h.op == some o.id && h.old.isNone)
      park := none, thenDrain := false }
  let s := s.modCore p fun c => { c with tbuf := c.tbuf.filter fun h => !(h.group == gi && h.op == o.id && h.key.isNone) }
  let g := s.group p gi
  let H := o.head.filter fun n => (g.thread? n).any fun t => t.st == .ready && t.bound.isNone
  let un := maskOf ((lanes.filter fun m => !m.doneAt 1 && m.trav != .gone).map fun m => if gi = guestIx then m.slot else m.lane)
  let t : Trap := { cause, reason, lane := some l.lane, addr := if o.i.addressless then 0 else l.va, unperf := some un
                    addrs := lanes.map fun m => (m.slot, m.va) }
  -- R467: the trap entry of a tandem copy is a commit point, which its group reaches when it would issue next.
  if o.twin.isNone && !o.shadow && s.trapWaits p gi o.pc then s.modGroup p gi fun g => { g with trapDue := some (t, o.pc, H) }
  else takeTrap s p gi H o.pc t
/-- A refused lane traps the instruction precisely (R252, R351): lanes performed stay, the others are not performed, the count
is removed from the token. Stores that are in the L1 go on to their home. -/
def State.refuseOp (s : State) (p gi : Nat) (o : Op) : State :=
  match (o.lanes.filter (·.refused.isSome)).head? with
  | none => s
  | some l =>
    let s := match o.ue with
      | some (n, cls, va) => s.deferTrap p gi o { cause := 0x17, info := cls, lane := some n, addr := va }
      | none => s
    let s := s.refuseIn p gi o l o.lanes
    match o.twin with
    | some (q, qi, id) => match (s.group q qi).op? id with
      | some x => s.refuseIn q qi x l o.lanes
      | none => s
    | none => s

/-- The lanes that one event tries, in their order: a free choice; all where it would be none. -/
def State.tryLanes (s : State) (o : Op) : List Nat :=
  let open_ := (o.lanes.filter (!·.done)).map (·.slot)
  let some_ := freeSome s.draws (site 1 0) open_
  freePerm s.draws (site 2 0) (if some_.isEmpty then open_ else some_)

/-- Whether an operation's probes are to be sent (R204). -/
def Op.probing (o : Op) (gi : Nat) : Bool :=
  let k := o.i.accKind.getD {}
  o.i.remote && k.order.acquires && decide (2 ≤ levelFor gi k.level)
/-- Whether an operation has stages before its access. -/
def Op.staged (o : Op) (gi : Nat) : Bool := (o.i.accKind.getD {}).order == .sc || o.probing gi
/-- Whether a lane that was translated at the issue is still to be performed: it is performed at once, so a refusal of another lane and a save
of its workgroup come after it (R249, R251, R252; log entry 99). -/
def LaneOp.ahead (l : LaneOp) : Bool := !l.miss && !l.doneAt 1 && l.refused.isNone && (l.trav == .no || l.trav == .fell)
/-- A refusal of an operation is taken, once the lanes that go before it have been performed; at once where the accesses still wait for a fence
or probes before them. -/
def State.refuseDue (s : State) (p gi : Nat) (o : Op) : State :=
  if o.lanes.any (·.refused.isSome) && ((o.staged gi && decide (o.stage < 3)) || !o.lanes.any (·.ahead)) then s.refuseOp p gi o else s
/-- Try lanes of an operation once: those of a free choice, all of them where none of those goes. -/
def State.tryOp (s : State) (p gi : Nat) (o : Op) : State × Op :=
  let (s', o') := s.performLanes p gi o (s.tryLanes o)
  if o' = o then s'.performLanes p gi o ((o.lanes.filter (!·.done)).map (·.slot)) else (s', o')
/-- One event of a lane access: lanes are performed, then a refusal is taken. -/
def State.moveLanes (s : State) (p gi : Nat) (o : Op) : State :=
  let (s, o) := s.tryOp p gi o
  (s.putOp p gi o).refuseDue p gi o

/-! Sequential consistency and promotion probes (R204, R212 to R214, R243). -/

/-- The cores to probe for an acquire with .remote: those of the package in the instance of its scope that hold a workgroup of
the same context (R204). -/
def State.probeSet (s : State) (p level ctx : Nat) : List Nat :=
  (s.cores.filter fun e => e.2.wg.any (·.ctx == ctx) &&
    (match level with
     | 2 => clusterOf (s.logical e.1) == clusterOf (s.logical p)
     | 3 => pdie e.1 == pdie p
     | _ => true)).map (·.1)

/-- The numbered operations that are outstanding, those of saved workgroups and of travelling threads among them (R214). -/
def State.numbered (s : State) : List Nat :=
  s.everyOp.filterMap (·.ticket) ++ s.panniers.filterMap fun e => e.2.acc.bind (·.ticket)
/-- Whether every lower number has been performed, or is held by no operation any more (R214). -/
def State.ticketTurn (s : State) (n : Nat) : Bool :=
  decide (n ≤ s.ticketDone) || s.numbered.all fun m => decide (n ≤ m) || decide (m < s.ticketDone)
/-- The lanes of an operation that are performed from the core that issued it, or may be. -/
def Op.stays (o : Op) : List LaneOp := o.lanes.filter (·.trav != .gone)
/-- How many numbers an operation has taken: one for each access that has not travelled, one for a fence (R214). -/
def Op.numbers (o : Op) : Nat := o.args.getD 1 1
/-- The stages of an .sc operation or of one with .remote, before its access (R204, R213, R214): 0 drain and take a number,
1 probes out, 2 waiting for a tick or for a number's turn, 3 to be performed, 4 waiting for the tick after it. -/
def State.nextStage (s : State) (p gi : Nat) (o : Op) : State × Op :=
  let probed : Op :=
    let ps := if o.probing gi then s.probeSet p (o.level gi) o.ctx else []
    { o with stage := if ps.isEmpty then 3 else 1, probes := ps }
  match o.stage with
  | 0 =>
    if (o.i.accKind.getD {}).order != .sc then (s, probed)
    else if (s.ctx o.ctx).ticket then
      let n := max 1 o.stays.length
      ({ s with ticketNext := s.ticketNext + n }, { o with stage := 2, ticket := some s.ticketNext, args := [s.draws, n] })
    else (s, { o with stage := 2, args := [s.cadence] })
  | 2 =>
    match o.ticket with
    | some n => (s, if s.ticketTurn n then probed else o)
    | none => (s, if o.args.headD 0 < s.cadence then probed else o)
  | _ => (s, o)
/-- The same for an operation of a group: an .sc one drains first, its lanes translated and their travel decided. -/
def State.beforeAccess (s : State) (p gi : Nat) (o : Op) : State :=
  let undecided (l : LaneOp) : Bool := (l.tier == .glob && l.key.isNone) || !(l.trav == .no || l.trav == .fell || l.trav == .gone)
  if o.stage = 0 && (o.i.accKind.getD {}).order == .sc
      && (s.waitsAny p gi o || o.lanes.any undecided || (!o.lanes.isEmpty && o.stays.isEmpty)) then s
  else
    let (s, o) := s.nextStage p gi o
    s.modGroup p gi (·.setOp o)

/-- A numbered operation has been performed (R214). -/
def State.ticketPass (s : State) (o : Op) : State :=
  match o.ticket with
  | some n => { s with ticketDone := max s.ticketDone (n + o.numbers) }
  | none => s
/-- Perform lanes in an order, as far as each of them goes (R214). -/
def State.performInOrder (s : State) (p gi : Nat) (o : Op) : List Nat → State × Op
  | [] => (s, o)
  | n :: ns =>
    let (s, o) := match o.lanes.find? (·.slot == n) with | some l => s.performLane p gi o l | none => (s, o)
    if o.lanes.any fun l => l.slot == n && !l.done then (s, o) else s.performInOrder p gi o ns
/-- Whether a core to be probed has a store on its way that a later release may have left behind the flag it published: the probes are sent
again before the acquire (R204). -/
def State.reprobe (s : State) (p gi : Nat) (o : Op) : Bool :=
  o.probing gi && (s.probeSet p (o.level gi) o.ctx).any fun q => !(s.core q).l1Drained none

/-- The access of an .sc operation: its token waits for the tick after it, or in ticket mode for nothing more (R213, R214). -/
def State.moveSc (s : State) (p gi : Nat) (o : Op) : State :=
  let put (s : State) (o : Op) : State := s.modGroup p gi fun g => (g.setOp o).settleLanes
  let (s, o) := if o.ticket.isSome then s.performInOrder p gi o (freePerm (o.args.headD 0) (site 2 0) (o.stays.map (·.slot))) else s.tryOp p gi o
  if o.lanes.any (·.refused.isSome) then (if o.lanes.any (·.ahead) then put s o else (s.ticketPass o).refuseOp p gi o)
  else if !o.lanes.all (·.done) then put s o
  else if o.ticket.isSome then (s.ticketPass o).putOp p gi o
  else put s { o with stage := 4, args := [s.cadence] }

/-- TOKEN_COUNTDOWN of a class 3 access (R46, R213, R214, R233). -/
def State.countAccess (s : State) (p gi : Nat) (o : Op) : State :=
  if !o.staged gi then s.moveLanes p gi o
  else if o.stage < 3 then (if o.lanes.any (·.refused.isSome) then (s.ticketPass o).refuseOp p gi o else s.beforeAccess p gi o)
  else if o.stage = 3 then (if s.reprobe p gi o then s.modGroup p gi (·.setOp { o with stage := 1, probes := s.probeSet p (o.level gi) o.ctx }) else if (o.i.accKind.getD {}).order == .sc then s.moveSc p gi o else s.moveLanes p gi o)
  else if o.args.headD 0 < s.cadence then s.putOp p gi o
  else s

/-- TOKEN_COUNTDOWN of a FENCE (R242). -/
def State.countFence (s : State) (p gi : Nat) (o : Op) : State :=
  let k := o.i.accKind.getD {}
  let ready : Bool := if o.staged gi then o.stage == 3 else true
  if !ready then s.beforeAccess p gi o
  else if s.reprobe p gi o then s.modGroup p gi (·.setOp { o with stage := 1, probes := s.probeSet p (o.level gi) o.ctx })
  else if s.waitsAny p gi o then s
  else
    let s := if k.order.acquires then s.acquire p gi o.act (o.level gi) else s
    let s := if k.order.releases then s.publish (o.level gi) else s
    (s.ticketPass o).complete p gi o

/-- Bring the stores that are in a core's L1, of the lanes picked, to their home, in order (R204); none where a link to a home is down, or another
package's lease or a collapse must end first (R191, R192). -/
def State.flushSome (s : State) (p : Nat) (pick : LaneOp → Bool) : Option State :=
  let c := s.core p
  let lanes : List (Nat × Nat × Nat × LaneOp × Op) :=
    (List.range 66).flatMap fun gi => match c.group? gi with
      | none => []
      | some g => g.ops.flatMap fun o => o.lanes.filterMap fun l => match l.l1 with
        | some q => if l.done || !pick l then none else some (q, gi, o.id, l, o)
        | none => none
  if lanes.any fun e => let k := e.2.2.2.1.key.getD 0
      s.mustCollapse e.2.2.2.1.leaf k || !s.reaches (pdie p) k || s.leaseWaits k e.2.2.2.1.size true then none
  else
    let sorted := lanes.foldl (fun acc e => (acc.takeWhile fun x => x.1 ≤ e.1) ++ e :: (acc.dropWhile fun x => x.1 ≤ e.1)) []
    some <| sorted.foldl (fun s e =>
      let (_, gi, id, l, _) := e
      match (s.group p gi).op? id with
      | none => s
      | some o =>
        let (s, o) := if s.flagged.contains (l.key.getD 0 / 2 ^ 16) then (s, o.setLane { l with done := true })
          else s.storeHome p (o.level gi) o l (l.key.getD 0)
        s.putOp p gi o) s
/-- Bring every store that is in a core's L1 to its home. -/
def State.flushL1 (s : State) (p : Nat) : Option State := s.flushSome p fun _ => true
/-- Bring the stores that meet the aligned 8-byte units of some places to their home, so that an engine of the core reads and writes whole
units there (R207, R208, R217). -/
def State.flushAt (s : State) (p : Nat) (rs : List (Nat × Nat)) : Option State :=
  let hit (k n : Nat) : Bool := rs.any fun r => rangesMeet (k / 8) ((k + n + 7) / 8 - k / 8) (r.1 / 8) ((r.1 + r.2 + 7) / 8 - r.1 / 8)
  if (s.core p).l1Stores.any fun e => hit e.2.1 e.2.2.1 then s.flushSome p fun l => l.key.any fun k => hit k l.size else some s

end Sys2Proof.Machine
end

