-- ==== Sys2Proof/Machine/Load.lean ====
section
/-! DEFINITION. Class 3: loads, stores, read-modify-writes, fences, cache control and sealing
(spec/09_memory_instructions.md R226 to R252, spec/07_memory_tiers.md R177 to R189). -/

namespace Sys2Proof.Machine

/-- The destination registers of an issue: each active lane's x registers, or the s registers once (R40). -/
def Iss.dsts (e : Iss) (d : Dst) (words : Nat) : List (Nat × Nat) :=
  match d with
  | .none => []
  | .s _ => (d.codes words).map fun c => (e.lowest, c)
  | d => e.act.flatMap fun n => (d.codes words).map fun c => (n, c)
/-- The issue after the reads of its operands (the latches of R24). -/
def Iss.latched (e : Iss) (os : List (RdAs × Src)) : Iss :=
  let g := e.latch e.act os e.g
  { e with g, s := e.s.setGroup e.p e.gi g }

/-- How the data operand of an access is read. -/
def dataAs (words : Nat) : RdAs := if words = 2 then .w64z else .w32

/-- The lanes of a tier access (R229): each active lane's base plus the offset, with its data. -/
def Iss.laneReqs (e : Iss) (o : MemOps) (words : Nat) : List LaneReq × List (RdAs × Src) :=
  let os := [(baseAs o.tier, o.base), (dataAs words, o.data)]
  ((e.read e.act os).map fun l => { slot := l.slot, a := l.a.toNat + o.off.toInt, v := l.b }, os)

/-- The request that an instruction makes of memory. -/
def reqOf (i : Instr) (o : MemOps) (travel : Bool) : AccReq :=
  let k := i.accKind.getD {}
  { tier := o.tier, n := i.width, reads := k.reads, writes := k.writes, go := o.go, mayTravel := travel }

/-- A load, store or RMW of one unit a lane (R232, R238, R239). -/
def unitAccess (c : Ctl) (i : Instr) (o : MemOps) (travel : Bool) (s : State) : Out1 :=
  issue c i 1 s fun e => do
    let words := if i.width = 8 then 2 else 1
    let (ls, os) := e.laneReqs o words
    let q := reqOf i o travel
    let e := e.latched os
    let (s, los) ← e.locate q ls
    let (dst, w) := i.accDst
    e.postAccess c q { i } los (e.dsts dst w) s

def execLdp (c : Ctl) (o : MemOps) (s : State) : Out1 := unitAccess c (.ldp c o) { o with tier := .priv } false s
def execLds (c : Ctl) (o : MemOps) (s : State) : Out1 := unitAccess c (.lds c o) { o with tier := .smem } false s
def execLdc (c : Ctl) (o : MemOps) (s : State) : Out1 := unitAccess c (.ldc c o) { o with tier := .cmem } true s
def execLdd (c : Ctl) (o : MemOps) (s : State) : Out1 := unitAccess c (.ldd c o) { o with tier := .dmem } false s
def execLdg (c : Ctl) (o : MemOps) (s : State) : Out1 := unitAccess c (.ldg c o) { o with tier := .glob } true s
def execStp (c : Ctl) (o : MemOps) (s : State) : Out1 := unitAccess c (.stp c o) { o with tier := .priv } false s
def execSts (c : Ctl) (o : MemOps) (s : State) : Out1 := unitAccess c (.sts c o) { o with tier := .smem } false s
def execStc (c : Ctl) (o : MemOps) (s : State) : Out1 := unitAccess c (.stc c o) { o with tier := .cmem } true s
def execStd (c : Ctl) (o : MemOps) (s : State) : Out1 := unitAccess c (.std c o) { o with tier := .dmem } false s
def execStg (c : Ctl) (o : MemOps) (s : State) : Out1 := unitAccess c (.stg c o) { o with tier := .glob } true s
/-- Whether an RMW of a tier can travel (R228, R234). -/
def rmwTravels (o : MemOps) : Bool := o.tier == .glob || o.tier == .cmem
def execAtom (c : Ctl) (op : RmwOp) (o : MemOps) (s : State) : Out1 := unitAccess c (.atom c op o) o (rmwTravels o) s
def execAtomf (c : Ctl) (op : RmwOp) (o : MemOps) (s : State) : Out1 := unitAccess c (.atomf c op o) o (rmwTravels o) s
def execRed (c : Ctl) (op : RmwOp) (o : MemOps) (s : State) : Out1 := unitAccess c (.red c op o) o false s

/-- CAS (R240): the block holds the value compared with and the new value. -/
def execCas (c : Ctl) (o : MemOps) (s : State) : Out1 :=
  issue c (.cas c o) 1 s fun e => do
    let w := o.width.words
    let second : Src := match o.data with | .x n => .x (n + w) | d => d
    let os := [(baseAs o.tier, o.base), (dataAs w, o.data), (dataAs w, second)]
    let ls := (e.read e.act os).map fun l => { slot := l.slot, a := l.a.toNat + o.off.toInt, v := l.c, v2 := l.b : LaneReq }
    let q := reqOf (.cas c o) o (rmwTravels o)
    let e := e.latched os
    let (s, los) ← e.locate q ls
    e.postAccess c q { i := .cas c o } los (e.dsts o.dst w) s

/-- The elements of CSTORE and XLOAD (R236): the lowest active lane's address, then one element per rank. -/
def Iss.elements (e : Iss) (o : MemOps) : List LaneReq × List (RdAs × Src) :=
  let (ls, os) := e.laneReqs o o.width.words
  let a := (ls.head?.map (·.a)).getD 0
  (ls.mapIdx fun r l => { l with a := a + o.width.bytes * r }, os)
def execCstore (c : Ctl) (o : MemOps) (s : State) : Out1 :=
  issue c (.cstore c o) 1 s fun e => do
    let (ls, os) := e.elements o
    let q := reqOf (.cstore c o) o false
    let e := e.latched os
    let (s, los) ← e.locate q ls
    let n := BitVec.ofNat 64 e.act.length
    e.postAccess c q { i := .cstore c o, writes := dstWrites o.dst 1 (e.act.map fun k => (k, n)) } los (e.dsts o.dst 1) s
def execXload (c : Ctl) (o : MemOps) (s : State) : Out1 :=
  issue c (.xload c o) 1 s fun e => do
    let (ls, os) := e.elements o
    let q := reqOf (.xload c o) o false
    let e := e.latched os
    let (s, los) ← e.locate q ls
    e.postAccess c q { i := .xload c o } los (e.dsts o.dst o.width.words) s

/-- FENCE (R242): posted with no access; TOKEN_COUNTDOWN completes it. -/
def execFence (c : Ctl) (o : MemOps) (s : State) : Out1 :=
  issue c (.fence c o) 1 s fun e => e.post e.s c { i := .fence c o } []

/-- PREF (R244) has no architectural effect. -/
def execPref (c : Ctl) (l1 : Bool) (o : MemOps) (s : State) : Out1 :=
  issue c (.pref c l1 o) 1 s fun e => .ok (e.s, false)

/-! Cache control (R245). -/

/-- The line of a lane's address, where it translates; no miss is taken. -/
def State.lineOf (s : State) (p ctx va : Nat) : Option (Nat × Nat) :=
  match (s.core p).tlbFind (s.ctx ctx).desc.asid va with
  | some t => some (leafKey t.leaf t.size va / 128 * 128, t.leaf)
  | none => match s.walk ctx va with
    | .leaf size e => some (leafKey e size va / 128 * 128, e)
    | _ => none
def cctl (c : Ctl) (i : Instr) (o : MemOps) (s : State) : Out1 :=
  issue c i 1 s fun e => do
    let (ls, os) := e.laneReqs o 1
    let q : AccReq := { tier := .glob, n := 1, reads := false, writes := false }
    checkLanes e ls fun l => if (e.place q l).isSome then none else some { cause := 0x0C }
    let los := ls.map fun l =>
      let va := l.a.toNat
      let at_ := e.s.lineOf e.p (e.s.ctxAt e.p e.gi l.slot) va
      { slot := l.slot, lane := (e.thread l.slot).lane, va := va / 128 * 128, size := 128, key := at_.map (·.1)
        leaf := (at_.map (·.2)).getD 0 : LaneOp }
    let e := e.latched os
    e.post e.s c { i, lanes := los } []
def execCctlWb (c : Ctl) (o : MemOps) (s : State) : Out1 := cctl c (.cctlWb c o) o s
def execCctlInv (c : Ctl) (o : MemOps) (s : State) : Out1 := cctl c (.cctlInv c o) o s
def execCctlWbinv (c : Ctl) (o : MemOps) (s : State) : Out1 := cctl c (.cctlWbinv c o) o s

/-- The copies of a line in the L1s are dropped. -/
def State.dropLine (s : State) (line : Nat) : State :=
  { s with cores := s.cores.map fun e => (e.1, { e.2 with l1 := e.2.l1.filter fun l => l.key != line * 128 }) }
/-- The action of CCTL on one line: `inv` for .inv and .wbinv; a lease that ends takes every copy of the line with it (R192). -/
def State.cctlLine (s : State) (p level : Nat) (inv : Bool) (l : LaneOp) : State :=
  match l.key with
  | none => s
  | some k =>
    if pteMemside l.leaf then s else
    let s := if inv then s.modCore p fun c => { c with l1 := c.l1.filter (·.key != k) } else s
    let s := if inv && 2 ≤ level then
        { s with replicas := (s.replicas.map fun e => if e.1 = k / 128 then (e.1, e.2.filter (· != pdie p)) else e).filter (!·.2.isEmpty) }
      else s
    if level < 5 || !(mfind s.leases (k / 128)).any (·.holder.isNone) then s
    else let s := s.leaseBack (k / 128); if inv then { s.dropLine (k / 128) with leases := merase s.leases (k / 128) } else s
/-- TOKEN_COUNTDOWN of CCTL: each lane's action waits for the thread's earlier stores to its line. -/
def State.countCctl (s : State) (p gi : Nat) (o : Op) (m : MemOps) (inv : Bool) : State :=
  let lvl := levelFor gi m.scope.level
  let earlier := (s.group p gi).ops.takeWhile fun x => x.id != o.id
  let waits := o.lanes.any fun l => earlier.any fun x => (x.i.accKind.getD {}).writes
    && x.lanes.any fun y => y.slot == l.slot && y.mayMeet l && !y.doneAt (if lvl ≤ 1 then 1 else 6)
  if waits then s else (o.lanes.foldl (fun s l => s.cctlLine p lvl inv l) s).complete p gi o

/-! Sealing (R187 to R189, R246 to R248). -/

def sealOp (c : Ctl) (i : Instr) (o : MemOps) (s : State) : Out1 :=
  issue c i 1 s fun e => do
    let os := [(RdAs.w64z, o.base), (.w32, o.data)]
    let vals := e.read e.act os
    let reqs := vals.map fun l => { slot := l.slot, a := l.a.toNat + o.off.toInt : LaneReq }
    checkLanes e (reqs.take 1) fun l => if 0 ≤ l.a && l.a < 2 ^ 57 then none else some { cause := 0x0C }
    let e := e.latched os
    match vals, reqs with
    | v :: _, r :: _ => e.post e.s c { i, args := [r.a.toNat, v.b.toNat] } (e.dsts o.dst 1)
    | _, _ => .ok (e.s, false)
def execSeal (c : Ctl) (o : MemOps) (s : State) : Out1 := sealOp c (.seal c o) o s
def execUnseal (c : Ctl) (o : MemOps) (s : State) : Out1 := sealOp c (.unseal c o) o s

/-- A bad range (R247 status 3). -/
def badSeal (a n : Nat) : Bool := a % 128 != 0 || n % 128 != 0 || n == 0 || decide (2 ^ 30 < n) || decide (2 ^ 57 < a + n)
/-- The status of an operation in every active lane's destination, and its completion. -/
def State.landStatus (s : State) (p gi : Nat) (o : Op) (d : Dst) (status : Nat) : State :=
  s.landOp p gi o (dstWrites d 1 (o.act.map fun n => (n, BitVec.ofNat 64 status)))
/-- Drop a context's L1 lines of a range in the cores of the dies that a condition picks. -/
def State.dropRange (s : State) (die : Nat → Bool) (ctx a n : Nat) : State :=
  let keep (l : Line) : Bool := !(l.ctx == ctx && rangesMeet l.va 128 a n)
  { s with cores := s.cores.map fun e => if die (pdie e.1) then (e.1, { e.2 with l1 := e.2.l1.filter keep }) else e }
/-- Whether an operation has a store to a range of a context still to perform. -/
def Op.storesTo (o : Op) (ctx a n : Nat) : Bool :=
  o.ctx == ctx && (o.i.accKind.getD {}).writes && o.lanes.any fun l => l.tier == .glob && !l.done && rangesMeet l.va l.size a n
/-- Whether a store to a range of a context is outstanding anywhere in the package: of an operation on a core, held by a tandem copy, or
travelling; one held in a saved workgroup is translated again when it is restored, and then meets the seal (R188). -/
def State.storeOutstanding (s : State) (ctx a n : Nat) : Bool :=
  (s.cores.any fun e => (e.2.allOps.any (·.storesTo ctx a n)) || e.2.tbuf.any fun h => h.tier == 0 && h.ctx == ctx && rangesMeet h.va h.size a n)
    || s.panniers.any fun e => e.2.acc.any (·.storesTo ctx a n)
/-- TOKEN_COUNTDOWN of SEAL (R187, R188, R247; log entry 84: the order of its failures). No read of the range returns an older value from then
on, in any die. -/
def State.countSeal (s : State) (p gi : Nat) (o : Op) (d : Dst) : State :=
  let a := o.args.getD 0 0; let n := o.args.getD 1 0; let die := pdie p
  if badSeal a n then s.landStatus p gi o d 3
  else
    let mine := s.seals.filter fun e => e.die == die && e.ctx == o.ctx
    if mine.any fun e => rangesMeet e.start e.len a n then s.landStatus p gi o d 2
    else if 64 ≤ mine.length then s.landStatus p gi o d 1
    else if s.storeOutstanding o.ctx a n then s
    else (State.dropRange { s with seals := s.seals ++ [⟨die, o.ctx, a, n⟩] } (fun _ => true) o.ctx a n).landStatus p gi o d 0
/-- Whether a copy that is registered reads from a range of a context (R189). -/
def State.sourceLocked (s : State) (ctx a n : Nat) : Bool := s.cores.any fun e => e.2.locks.any fun l =>
  l.2.ctx == ctx && l.2.srcs.any fun r => r.1 == 0 && rangesMeet r.2.1 r.2.2 a n
/-- TOKEN_COUNTDOWN of UNSEAL (R189, R248). -/
def State.countUnseal (s : State) (p gi : Nat) (o : Op) (d : Dst) : State :=
  let a := o.args.getD 0 0; let n := o.args.getD 1 0; let die := pdie p
  let entry : Seal := ⟨die, o.ctx, a, n⟩
  if badSeal a n then s.landStatus p gi o d 3
  else if !s.seals.contains entry then s.landStatus p gi o d 1
  else if s.sourceLocked o.ctx a n then s
  else (State.dropRange { s with seals := s.seals.erase entry } (· == die) o.ctx a n).landStatus p gi o d 0

end Sys2Proof.Machine
end

