-- ==== Sys2Proof/Machine/Array.lean ====
section
/-! DEFINITION. Class 4 (spec/06_matrix_instructions.md R142 to R176, spec/05_array_engine.md R139 to R141): modes,
calibration, tile writes and reads, signing, verdicts, accumulators, inspection and repair, and the events of the arrays. -/

namespace Sys2Proof.Machine

/-! What an issue asks of the sub-arrays. -/

def State.arr (s : State) (p : Nat) : ArrayCore := (s.core p).arr
def State.modArr (s : State) (p : Nat) (f : ArrayCore → ArrayCore) : State := s.modCore p fun c => { c with arr := f c.arr }
/-- The sub-arrays of a mask. -/
def qsOf (mask : Nat) : List Nat := (List.range 4).filter (mask.testBit ·)

/-- CHECKSUM of a failure, in a case of R161 (R419). -/
def checksumTrap (f : Fail) (case : Nat) : Trap :=
  { cause := 0x0A, reason := case, info := f.job.rcd.qmask + 16 * f.job.rcd.acc }
/-- R161 case 2. -/
def Iss.noFailure (e : Iss) (qs : List Nat) : Except Stop Unit :=
  match qs.findSome? (e.s.arr e.p).failOn with
  | some f => .error (.trap (checksumTrap f 2))
  | none => .ok ()
/-- The ordered mode must be multiply (R149). -/
def Iss.needMul (e : Iss) (qs : List Nat) : Except Stop Unit :=
  match qs.find? fun q => !(e.s.arr e.p).orderedMul q with
  | some q => .error (.trap { cause := 0x0B, info := q })
  | none => .ok ()
/-- Whether every sub-array has room for an operation (R144); one with an unresolved failure answers by R161 instead. -/
def ArrayCore.hasRoom (a : ArrayCore) (qs : List Nat) (mma : Bool) : Bool :=
  qs.all fun q => (a.failOn q).isSome || (decide ((a.opsOn q).length < 8) && (!mma || decide (a.mmasOn q < 3)))
/-- The limits of R144: the issue is held. -/
def Iss.room (e : Iss) (qs : List Nat) (mma : Bool) : Except Stop Unit :=
  if (e.s.arr e.p).hasRoom qs mma then .ok () else .error (.hold (.array qs mma))
/-- A group-wide or per-lane array instruction: no effect with no thread active (R142). -/
def arrayIssue (c : Ctl) (i : Instr) (s : State) (body : Iss → Eff) : Out1 :=
  issue c i 1 s fun e => if e.act.isEmpty then .ok (e.s, false) else body e
/-- Post an operation that takes a place in array order (R143). -/
def Iss.postArr (e : Iss) (c : Ctl) (o : Op) (dsts : List (Nat × Nat)) (k : AKind) (qmask : Nat) (s : State) : Eff :=
  let id := (s.group e.p e.gi).nextOp
  match e.post s c o dsts with
  | .error x => .error x
  | .ok (s, r) => .ok (s.modArr e.p fun a => { a with ops := a.ops ++ [{ kind := k, qmask, group := e.gi, op := id }] }, r)
/-- A result in every active lane, delivered with the token (R142). -/
def Iss.postResult (e : Iss) (c : Ctl) (i : Instr) (d : Dst) (words : Nat) (v : Nat) (s : State) : Eff :=
  let ws := dstWrites d words (e.act.map fun n => (n, BitVec.ofNat 64 v))
  e.post s c { i, writes := ws } (ws.map fun w => (w.slot, w.code))

/-! Modes and calibration (R149, R151). -/

def amode (c : Ctl) (i : Instr) (mul : Bool) (qmask : Nat) (s : State) : Out1 :=
  arrayIssue c i s fun e => do
    e.noFailure (qsOf qmask)
    e.room (qsOf qmask) false
    e.postArr c { i } [] (.mode mul) qmask e.s
def execAmodeSto (c : Ctl) (qmask : Nat) (s : State) : Out1 := amode c (.amodeSto c qmask) false qmask s
def execAmodeMul (c : Ctl) (qmask : Nat) (s : State) : Out1 := amode c (.amodeMul c qmask) true qmask s

/-- ACAL (R151): in ordered multiply mode the calibration takes its place in array order, in storage mode it is held. -/
def execAcal (c : Ctl) (qmask : Nat) (s : State) : Out1 :=
  arrayIssue c (.acal c qmask) s fun e => do
    let qs := qsOf qmask
    e.noFailure qs
    let a := e.s.arr e.p
    let mul := qs.filter a.orderedMul
    e.room mul false
    let s := e.s.modArr e.p fun a => (qs.filter (!mul.contains ·)).foldl (fun a q => a.modSub q fun x => { x with calDue := true }) a
    if mul.isEmpty then e.post s c { i := .acal c qmask } []
    else e.postArr c { i := .acal c qmask } [] .cal (mul.foldl (fun m q => m + 2 ^ q) 0) s

/-! Tile writes (R152, R153). -/

/-- The tile enters the directory, marked writing; tiles it meets stop being resident. -/
def State.enterTile (s : State) (p q base width : Nat) (dense : Bool) : State :=
  s.modArr p fun a => a.modSub q fun x =>
    { x with tiles := (x.tiles.filter fun t => !rangesMeet t.base t.width base width) ++ [{ base, width, dense }] }
/-- The common part of a tile write's issue. -/
def Iss.tileWrite (e : Iss) (c : Ctl) (o : TileOps) (op : Op) (dsts : List (Nat × Nat)) (s : State) : Eff :=
  match e.postArr c op dsts (.write o.q o.slotBase (widthOf o.tw)) (2 ^ o.q) s with
  | .error x => .error x
  | .ok (s, r) => .ok (s.enterTile e.p o.q o.slotBase (widthOf o.tw) o.dense, r)
/-- The checks of a tile write before its addresses. -/
def Iss.tileChecks (e : Iss) (o : TileOps) : Except Stop Unit := do
  e.noFailure [o.q]
  e.needMul [o.q]

def execAwr (c : Ctl) (o : TileOps) (s : State) : Out1 :=
  arrayIssue c (.awr c o) s fun e => do
    e.tileChecks o
    let os := [(RdAs.w32, o.addr)]
    let ls := (e.read [e.lowest] os).map fun l => { slot := l.slot, a := l.a.toNat + o.off.toInt : LaneReq }
    let q : AccReq := { tier := .smem, n := 512 * slotBytes o.slot, reads := true, writes := false, align := some 16 }
    let e := e.latched os
    let (s, los) ← e.locate q ls
    e.room [o.q] false
    e.tileWrite c o { i := .awr c o, lanes := los, args := [slotBytes o.slot] } [] s
/-! The tensor walker (R186, R386). -/

/-- What reading a range of virtual addresses answers: the bytes with the class of the lowest poisoned granule, a miss that
is being resolved, a refusal, or a lost lease. -/
inductive VRead where
  | ok (bs : List Byte) (ue : Option Nat) | wait (page : Option Nat) | long (page : Nat) | refused (r : Refuse) | lost
deriving DecidableEq, Repr

/-- The entry of an ASID that maps an address, in the TLB of a cluster's tensor walker. -/
def State.walkerFind (s : State) (cl asid va : Nat) : Option TlbEntry :=
  (mget [] s.walkers cl).find? fun t => t.asid == asid && decide (t.base ≤ va) && decide (va < t.base + t.size)
/-- Enter a leaf there, dropping the oldest entry of a full TLB (R386; log entry 8). -/
def State.walkerFill (s : State) (cl : Nat) (t : TlbEntry) : State :=
  let tlb := mget [] s.walkers cl
  { s with walkers := minsert s.walkers cl ((tlb ++ [t]).drop (tlb.length + 1 - 4096)) }
/-- Translate for a context through the TLB of a cluster's tensor walker. -/
def State.walkerXlate (s : State) (cl ctx va : Nat) (a : Acc) : State × Xlate :=
  let asid := (s.ctx ctx).desc.asid
  match s.walkerFind cl asid va with
  | some t => match s.leafRefuse t.leaf t.size a with
    | some r => (s, .refusedNow r)
    | none => (s, s.leafHit ctx t.leaf t.size va a)
  | none =>
    let m := s.walkMoves ctx va
    match s.walk ctx va with
    | .leaf size e => match permRefuse e a with
      | some r => (m, .missRefused r)
      | none => (m.walkerFill cl ⟨asid, va / size * size, size, e⟩, s.leafHit ctx e size va a)
    | .short size _ _ => (s.missMoves ctx va, .short (va / size * size) size)
    | .long => (s.missMoves ctx va, .long (va / 2 ^ 16 * 2 ^ 16))
    | .refused r => (m, .missRefused r)
    | .wait => (s, .short (va / 2 ^ 16 * 2 ^ 16) (2 ^ 16))

/-- The pieces of a virtual range that lie in one 64 KiB page each: address, length. -/
def pagePieces (va n : Nat) : List (Nat × Nat) :=
  (List.range ((va + n + 65535) / 65536 - va / 65536)).map fun i =>
    let lo := max va ((va / 65536 + i) * 65536)
    let hi := min (va + n) ((va / 65536 + i + 1) * 65536)
    (lo, hi - lo)
/-- Read the pieces of a virtual range at their homes for a core (R152, R195), behind the stores that its L1 still holds of them; misses are
registered. -/
def State.readPieces (s : State) (p ctx : Nat) : List (Nat × Nat) → State × VRead
  | [] => (s, .ok [] none)
  | (va, n) :: ps =>
    let (s, x) := s.walkerXlate (clusterOf (s.logical p)) ctx va .read
    match x with
    | .hit k leaf _ =>
      if s.flagged.contains (k / 2 ^ 16) then (s, .lost)
      else if !s.reaches (pdie p) k || s.leaseWaits k n false then (s, .wait none)
      else match s.flushAt p [(k, n)] with
      | none => (s, .wait none)
      | some s =>
        let ue := s.poisonAt k n
        let bs := memTake s.mem k n
        let s := (s.transfer p ctx leaf k n false).refreshOwn p k n
        let (s, r) := s.readPieces p ctx ps
        match r with
        | .ok bs' ue' => (s, .ok (bs ++ bs') (ue.orElse fun _ => ue'))
        | r => (s, r)
    | .refusedNow r | .missRefused r => (s, .refused r)
    | .short page size => (s.shortMiss ctx page size false, .wait (some page))
    | .long page => (s.longMiss ctx va 3, .long page)
def State.readVirt (s : State) (p ctx va n : Nat) : State × VRead := s.readPieces p ctx (pagePieces va n)
/-- One page that the walker walks before it is needed: what it finds is entered; none where the page is not resident (R186). -/
def State.walkPage (s : State) (cl ctx page : Nat) : Option State :=
  let asid := (s.ctx ctx).desc.asid
  if (s.walkerFind cl asid page).isSome then some s
  else match s.walk ctx page with
    | .leaf size e => some ((s.walkMoves ctx page).walkerFill cl ⟨asid, page / size * size, size, e⟩)
    | _ => none
/-- The walker walks up to n pages that it has not seen, over a record's units from linear index l on; a page that is not resident ends it
(R186). Units in pages seen are passed over along the first axis; the first argument bounds the search. -/
def State.walkAhead (s : State) (cl ctx : Nat) (r : TRec) : Nat → Nat → Nat → List Nat → State
  | 0, _, _, _ => s
  | f + 1, n, l, seen =>
    if n = 0 || r.total ≤ l then s
    else
      let a := r.unitAt l
      let last := (a + r.unit - 1) / 2 ^ 16 * 2 ^ 16
      match [a / 2 ^ 16 * 2 ^ 16, last].find? (!seen.contains ·) with
      | none => s.walkAhead cl ctx r f n (l + max 1 (min (r.ext 0 - l % r.ext 0) ((last + 2 ^ 16 - a) / r.unit))) seen
      | some page => match s.walkPage cl ctx page with
        | none => s
        | some s => s.walkAhead cl ctx r f (n - 1) l (page :: seen)
/-- The walk-ahead from the unit being fetched, of a linear index: up to 64 pages beyond its own. -/
def State.walkBeyond (s : State) (cl ctx : Nat) (r : TRec) (l : Nat) : State :=
  let a := r.unitAt l
  s.walkAhead cl ctx r (2 ^ 22) 64 (l + 1) [a / 2 ^ 16 * 2 ^ 16, (a + r.unit - 1) / 2 ^ 16 * 2 ^ 16]

/-! A tile as it is written (R125, R152, R153). -/

/-- The tile that a write leaves of its blocks in the order 4 n + k, or its format fault. `junk` is the free TAG of an uncorrectable block. -/
def buildTile (dense : Bool) (slot width : Nat) (junk : Nat → Nat) (rs : List RawIn) : Except Unit (List ABlock) :=
  let raws := rs.mapIdx fun i r => match r with
    | .block bs => rawOf bs
    | .outside => { tag := 0x80, scale := 0, codes := [] }
    | .bad _ => { tag := junk i % 6, scale := 0xFF, codes := List.replicate 32 0 }
  let rejected := (rs.zip raws).any fun e => match e.1 with | .block _ => blockRejected slot width e.2 | _ => false
  if rejected then .error ()
  else .ok ((List.range 128).flatMap fun n =>
    let col := (raws.drop (4 * n)).take 4
    if dense then groupOf col else col.map blockOf)

/-- End a tile write (R152, R153): the directory entry, unless a later write has taken its place; the array order. -/
def State.endTile (s : State) (p : Nat) (a : AOp) (q base width : Nat) (dense : Bool) (r : Except TileFault (List ABlock)) : State :=
  s.modArr p fun x =>
    let meets (b : AOp) : Bool := b.names q && (match b.kind with
      | .write _ b2 w2 => rangesMeet b2 w2 base width
      | _ => false)
    let left := (x.dropOp a).ops
    let done (t : Tile) : Tile := match r with
      | .ok bs => { t with writing := false, blocks := bs }
      | .error f => { t with writing := false, fault := some f }
    -- MMAs behind this write, and ahead of the next that meets its tile, read what it leaves (R143).
    let give (b : AOp) : AOp := match b.kind with
      | .mma j => if b.names q && j.rcd.base == base && !j.tiles.any (·.1 == q) then
          { b with kind := .mma { j with tiles := j.tiles ++ (match r with | .ok bs => [(q, { base, width, dense, blocks := bs, writing := false })] | .error _ => []) } } else b
      | _ => b
    let x := { x with ops := (left.takeWhile (!meets ·)).map give ++ left.dropWhile (!meets ·) }
    if left.any meets then x else x.modSub q fun y => { y with tiles := y.tiles.map fun t => if t.base = base then done t else t }

/-- Read the coming blocks of a tile through the tensor walker, which walks ahead of each (R186), stopping at the first that cannot be read now;
the blocks read, the last one first, and what stands in the way. -/
def State.readBlocks (s : State) (p ctx : Nat) (r : TRec) (k0 n0 : Nat) : List (Option Nat) → List RawIn → State × List RawIn × Option VRead
  | [], acc => (s, acc, none)
  | none :: as, acc => s.readBlocks p ctx r k0 n0 as (.outside :: acc)
  | some va :: as, acc =>
    match s.readVirt p ctx va r.unit with
    | (s, .ok bs ue) =>
      let i := acc.length
      (s.walkBeyond (clusterOf (s.logical p)) ctx r (k0 + i % 4 + r.ext 0 * (n0 + i / 4))).readBlocks p ctx r k0 n0 as
        ((match ue with | some c => .bad c | none => .block bs) :: acc)
    | (s, v) => (s, acc, some v)
/-- What a tile write from memory comes to: its blocks, a fault, or nothing yet (with the page of a long miss). -/
inductive TileRead where
  | blocks (slot : Nat) (rs : List RawIn) | fault (f : TileFault) (code : Nat) (read : Nat) | wait (page : Option Nat) (long : Bool := false)
deriving DecidableEq, Repr
/-- What stands in the way of a read for a tile. -/
def VRead.stop : VRead → TileRead
  | .wait page => .wait page
  | .long page => .wait (some page) true
  | .lost => .fault .refused 3 0
  | .ok _ (some c) => .fault (.ue c) 6 0
  | _ => .fault .refused 4 0
/-- Read the record of a tile write, when its thread's order lets it (R152, R185). -/
def State.readRcd (s : State) (p gi : Nat) (o : Op) (ctx va : Nat) : State × Except TileRead Nat :=
  if (s.group p gi).readWaits gi o [(va, 64)] then (s, .error (.wait none)) else
  match s.readVirt p ctx va 64 with
  | (s, .ok bs none) => (s, .ok (natOfBytes bs))
  | (s, r) => (s, .error r.stop)
/-- The bytes that blocks read came to. -/
def bytesRead (slot : Nat) (rs : List RawIn) : Nat := (rs.filter fun x => x != .outside).length * slot
/-- Read the blocks that a record names, from the one at which the write stopped; those read are kept (R152, R395). -/
def State.readTensor (s : State) (p gi : Nat) (o : Op) (ctx rcd k0 n0 : Nat) : State × TileRead :=
  let r : TRec := ⟨rcd⟩
  if r.bad || r.kind != 1 then (s, .fault .format 6 0)
  else
    let as := r.tileBlocks k0 n0
    if (s.group p gi).readWaits gi o ((as.filterMap id).map fun v => (v, r.unit)) then (s, .wait none) else
    match s.readBlocks p ctx r k0 n0 (as.drop o.blocks.length) o.blocks.reverse with
    | (s, rs, none) => (s, .blocks r.unit rs.reverse)
    | (s, rs, some v) =>
      (s.modGroup p gi (·.setOp { o with blocks := rs.reverse }), match v.stop with | .fault f code _ => .fault f code (bytesRead r.unit rs) | x => x)
/-- The range lock that the blocks of a tile trip, with the address (R218). -/
def State.tileLock (s : State) (p ctx rcd k0 n0 : Nat) : Option (Nat × Nat) :=
  (TRec.tileRanges ⟨rcd⟩ k0 n0).findSome? fun r => ((s.core p).lockHit ctx 0 r.1 r.2 false (s.logical p % 16)).map fun n => (n, r.1)
/-- The record of a tile write read at its issue (R185) where it can be read then, and the check of its blocks against the range locks (R218);
otherwise it is read when it can be, once (log entry 85). -/
def Iss.recordAtIssue (e : Iss) (o : Op) (va k0 n0 : Nat) (s : State) : Except Stop (State × List Nat) :=
  match s.readRcd e.p e.gi { o with id := (s.group e.p e.gi).nextOp, act := e.act } e.ctx va with
  | (t, .ok w) =>
    match e.s.tileLock e.p e.ctx w k0 n0 with
    | some (n, a) => .error (laneTrap e [] { slot := e.lowest, a } { cause := 0x0F, info := n })
    | none => .ok (t, [w])
  | _ => .ok (s, [])
/-- ALD: the record's address is checked as LDG's; the record and its blocks are read by the tensor walker. -/
def execAld (c : Ctl) (o : TileOps) (s : State) : Out1 :=
  arrayIssue c (.ald c o) s fun e => do
    e.tileChecks o
    let os := [(RdAs.w64z, o.addr), (.w32, o.origin)]
    let vals := e.read [e.lowest] os
    let ls := vals.map fun l => { slot := l.slot, a := l.a.toNat + o.off.toInt : LaneReq }
    let q : AccReq := { tier := .glob, n := 64, reads := true, writes := false, walker := true }
    let e := e.latched os
    let (s, los) ← e.locate q ls
    e.room [o.q] false
    let org := (vals.headD ⟨0, []⟩).b.toNat
    let (k0, n0) := (org % 2 ^ 16, org / 2 ^ 16 % 2 ^ 16)
    let op : Op := { i := .ald c o, lanes := los, args := [k0, n0] }
    let (s, rcd) ← e.recordAtIssue op ((ls.head?).elim 0 (·.a.toNat)) k0 n0 s
    e.tileWrite c o { op with args := [k0, n0] ++ rcd } [] s

/-- A free TAG for a block that could not be read. -/
def State.junkTag (s : State) (i : Nat) : Nat := Config.freeNat s.draws (site 7 i)
/-- The lowest block that met an uncorrectable error: its class. -/
def firstBad : List RawIn → Option Nat
  | [] => none
  | .bad c :: _ => some c
  | _ :: rs => firstBad rs

/-- TILE_WRITE_COMPLETE for the AWR or ALD that is first in a sub-array's order (R140, R152, R153, R455). -/
def State.tileWriteEnd (s : State) (p : Nat) (a : AOp) (o : Op) (q base width : Nat) : State :=
  let g := s.group p a.group
  let done (s : State) (dense : Bool) (slot : Nat) (rs : List RawIn) : State :=
    match buildTile dense slot width s.junkTag rs with
    | .error _ => (s.endTile p a q base width dense (.error .format)).complete p a.group o
    | .ok bs =>
      let s := s.endTile p a q base width dense (.ok bs)
      let s := match firstBad rs with | some c => s.deferTrap p a.group o { cause := 0x17, info := c } | none => s
      s.complete p a.group o
  match o.i with
  | .awr _ t =>
    match o.lanes.head? with
    | none => s
    | some l =>
      if g.blocked a.group o l.slot (some l) true then s
      else
        let slot := o.args.headD 34
        let k := windowKey p l.va
        done s t.dense slot ((List.range 512).map fun i =>
          match s.poisonAt (k + i * slot) slot with
          | some c => .bad c
          | none => .block (memTake s.mem (k + i * slot) slot))
  | .ald _ t =>
    match o.lanes.head? with
    | none => s
    | some l =>
      if l.refused.isSome then (s.endTile p a q base width t.dense (.error .refused)).complete p a.group o
      else if l.long.isSome then s
      else
        let k0 := o.args.getD 0 0
        let n0 := o.args.getD 1 0
        let (s, r) : State × TileRead := match o.rcd with
          | some w => s.readTensor p a.group o o.ctx w k0 n0
          | none => match s.readRcd p a.group o o.ctx l.va with
            | (t, .ok w) =>
              let o := { o with args := [k0, n0, w] }
              let t := t.modGroup p a.group (·.setOp o)
              match t.tileLock p o.ctx w k0 n0 with
              -- R218: the blocks of a record that could not be read at the issue are checked now (log entry 109).
              | some (n, va) => (t.deferTrap p a.group o { cause := 0x0F, info := n, lane := some l.lane, addr := va }, .fault .refused 0 0)
              | none => t.readTensor p a.group o o.ctx w k0 n0
            | (t, .error r) => (t, r)
        let o := ((s.group p a.group).op? o.id).getD o
        match r with
        | .wait _ false | .wait none _ => s
        | .wait (some page) true =>
          (s.modGroup p a.group fun g => g.setOp { o with lanes := [{ l with long := some page }] }).modWg p fun w => { w with frozen := true }
        | .fault f _ _ => (s.endTile p a q base width t.dense (.error f)).complete p a.group o
        | .blocks slot rs => done s t.dense slot rs
  | _ => s

/-- ARD (R154): the index names column and block; the words are read when the write before it is complete, as they stand. -/
def ardWords (t : Tile) (v : Nat) : List Word :=
  let b := t.blocks.getD (4 * bits v 6 0 + bits v 9 8) {}
  let byte (i : Nat) : Nat := ((b.a.getD i 0) % 256).toNat
  ((List.range 8).map fun i => BitVec.ofNat 32 (byte (4 * i) + 2 ^ 8 * byte (4 * i + 1) + 2 ^ 16 * byte (4 * i + 2) + 2 ^ 24 * byte (4 * i + 3)))
    ++ [BitVec.ofNat 32 (b.tag + 2 ^ 8 * b.scale + 2 ^ 16 * (b.x % 256).toNat + 2 ^ 24 * b2n b.zero + 2 ^ 25 * b2n b.nan
      + 2 ^ 26 * b2n b.special + 2 ^ 27 * b2n b.grouped)]
/-- The tile that an instruction names, judged as R153 states. -/
def Iss.namedTile (e : Iss) (q base : Nat) : Except Stop Tile :=
  match ((e.s.arr e.p).sub q).tile? base with
  | none => .error (.trap trapIllegal)
  | some t =>
    if t.writing then .error (.hold (.tile [q] base))
    else match t.fault with
      | none => .ok t
      | some (.ue c) => .error (.trap { cause := 0x17, info := c })
      | some .refused => .error (.trap { cause := 0x09, reason := 1, info := q + 2 ^ 8 * base })
      | some .format => .error (.trap { cause := 0x09, reason := 0, info := q + 2 ^ 8 * base })
def execArd (c : Ctl) (o : AccOps) (s : State) : Out1 :=
  arrayIssue c (.ard c o) s fun e => do
    e.noFailure [o.q]
    e.needMul [o.q]
    let t ← e.namedTile o.q o.slotBase
    e.room [o.q] false
    let os := [(RdAs.w32, o.a)]
    let ws := (e.read e.act os).flatMap fun l => (ardWords t l.a.toNat).mapIdx fun i w => { slot := l.slot, code := o.dst.code + i, v := w : RegWrite }
    e.postArr c { i := .ard c o, writes := ws, args := [(((e.read [e.lowest] os).head?).elim 0 (·.a.toNat))] } (ws.map fun w => (w.slot, w.code)) (.ard o.q o.slotBase) (2 ^ o.q)
      (e.s.setGroup e.p e.gi (e.latch e.act os e.g))
/-- TOKEN_COUNTDOWN of ARD: its place in array order has come. -/
def State.countArd (s : State) (p gi : Nat) (o : Op) : State :=
  match (s.arr p).ops.find? fun a => a.group == gi && a.op == o.id with
  | none => s.landOp p gi o o.writes
  | some a => if (s.arr p).canRun a then (s.modArr p (·.dropOp a)).landOp p gi o o.writes else s

/-! Signing (R155 to R158). -/

def execMconv (c : Ctl) (kreg g3 g2 g1 g0 : Nat) (s : State) : Out1 :=
  arrayIssue c (.mconv c kreg g3 g2 g1 g0) s fun e =>
    let gs := [g0, g1, g2, g3].map fun g => if g = 0x40 then none else some g
    let w := e.w.getD { ctx := 0, launch := 0, threads := 0, regs := 0 }
    let k := mget {} (e.s.arr e.p).kregs kreg
    if gs.any (fun g => g.any (w.groups.length ≤ ·)) || !k.signed.isEmpty then .error (.trap trapIllegal)
    else
      let declared := gs.flatMap fun g => match g with
        | none => []
        | some g => ((w.groups.getD g {}).threads.filter (·.st != .exited)).map fun t => (g, t.lane)
      .ok (e.s.modArr e.p fun a => { a with kregs := minsert a.kregs kreg { groups := gs, declared } }, false)

/-- The last signature issues the MMA (R158): it enters array order, takes an armed injection (R174), and the threads that
wait for it are READY again (R284). Behind a change of mode that still waits, and that will clear the tile, it uses the blocks that the tile has now
(log entry 102). -/
def State.issueMma (s : State) (p k : Nat) : State :=
  let a := s.arr p
  let r := mget {} a.kregs k
  match r.record with
  | none => s
  | some rcd =>
    let gone (x : Nat × Nat) : Bool := ((s.group p x.1).thread? x.2).all (·.st == .exited)
    let armed := bit a.ckinj.toNat 31 && rcd.qmask.testBit (bits a.ckinj.toNat 29 28)
    let job : Job :=
      { rcd, b := captureB rcd.shape r.caps, refs := r.refs, signs := r.signs
        ctx := (s.core p).wg.elim 0 (·.ctx)
        inj := if armed then some a.ckinj else none
        tiles := (qsOf rcd.qmask).filterMap fun q => ((a.sub q).tile? rcd.base).bind fun t => if t.writing || t.fault.isSome then none else some (q, t) }
    let s := s.modArr p fun a => { a with
      ops := a.ops ++ [{ kind := .mma job, qmask := rcd.qmask }]
      ckinj := if armed then a.ckinj &&& 0x7FFFFFFF#32 else a.ckinj
      kregs := minsert a.kregs k { r with declared := r.declared.filter (!gone ·), signed := [], record := none, caps := [], refs := [], signs := [] } }
    s.modWg p fun w => { w with groups := w.groups.map fun g =>
      { g with threads := g.threads.map fun t => if t.st = .signwait k then { t with st := .ready, wait := 0 } else t } }

/-- Whether a set of signatures is complete. -/
def KReg.complete (r : KReg) : Bool := !r.signed.isEmpty && r.declared.all r.signed.contains

/-- A header that an MMA with a stream width takes (R157). -/
def headerOk (sw h : Nat) : Bool := let t := h % 256; t == 0x80 || (tagKnown t && decide (tagWidth t ≤ widthOf sw))

/-- MMA: every thread of the run signs, whatever its guard (R157). -/
def execMma (c : Ctl) (o : MmaOps) (s : State) : Out1 :=
  issue c (.mma c o) 1 s fun e => do
    let a := e.s.arr e.p
    let r := mget {} a.kregs o.kreg
    let signer (n : Nat) : Nat × Nat := (e.gi, n)
    let rest := e.head.filter fun n => !r.signed.contains (signer n)
    let again := e.head.filter fun n => r.signed.contains (signer n)
    let rcd : MmaRec := { shape := o.shape, rep := o.rep, dense := o.dense, sw := o.sw, qmask := o.qmask, kreg := o.kreg, acc := o.acc, base := o.slotBase, instr := .mma c o, pc := e.pc }
    let park (s : State) : State := s.modGroup e.p e.gi fun g => g.modThreads again fun t => { t with st := .signwait o.kreg, pc := e.pc }
    if rest.isEmpty then .ok (park e.s, false)
    else
      if e.head.any (fun n => !r.declared.contains (signer n)) then throw (.trap trapIllegal)
      if r.record.any fun x => { x with pc := 0, instr := rcd.instr } != { rcd with pc := 0 } then throw (.trap trapIllegal)
      let qs := qsOf o.qmask
      e.noFailure qs
      for q in qs do
        e.needMul [q]
        let _ ← e.namedTile q o.slotBase
      let nb := o.shape.groups
      let os := (List.range (2 * nb)).map (fun i => (RdAs.w32, match o.elems with | .x n => Src.x (n + i) | x => x)) ++ [(RdAs.w32, o.hdrs)]
      let actives := rest.filter e.act.contains
      let vals := e.read actives os
      let caps := vals.map fun l =>
        { group := e.gi, lane := l.slot, words := (l.vals.take (2 * nb)).map fun v => BitVec.ofNat 32 v.toNat
          hdr := (l.vals.getD (2 * nb) 0).toNat % 2 ^ 16 : Capture }
      if caps.any fun x => decide (x.lane % 4 < nb) && !headerOk o.sw x.hdr then
        throw (.trap { cause := 0x09, reason := 2, info := e.gi % 4 + 2 ^ 8 * o.slotBase })
      let r' : KReg := { r with
        signed := r.signed ++ rest.map signer, record := some (r.record.getD rcd), caps := r.caps ++ caps
        signs := if r.signs.any (·.1 == e.gi) then r.signs else r.signs ++ [(e.gi, c.t)] }
      if r'.complete then e.room qs true
      let id := (e.s.group e.p e.gi).nextOp
      let s := e.s.setGroup e.p e.gi (e.latch actives os e.g)
      let (s, refs) ← (if e.act.isEmpty then .ok (s, []) else do
        let (s, _) ← e.post s c { i := .mma c o } []
        pure (s, [(e.gi, id)]))
      let s := s.modArr e.p fun a => { a with kregs := minsert a.kregs o.kreg { r' with refs := r'.refs ++ refs } }
      let s := park s
      .ok (if r'.complete then s.issueMma e.p o.kreg else s, false)

/-- The convergence registers after a declared thread exits unsigned (R157): it is withdrawn. -/
def ArrayCore.withdraw (a : ArrayCore) (g lane : Nat) : ArrayCore :=
  { a with kregs := a.kregs.map fun e =>
      if e.2.signed.contains (g, lane) then e else (e.1, { e.2 with declared := e.2.declared.filter (· != (g, lane)) }) }
/-- The convergence registers whose set an exit completes. -/
def ArrayCore.completed (a : ArrayCore) : List Nat := (a.kregs.filter (·.2.complete)).map (·.1)

/-! Verdicts (R158 to R162). -/

/-- The CKTOL of a tag for a context (R172). -/
def State.cktol (s : State) (ctx tag : Nat) : Nat := (mget 0x00100000#32 (s.ctx ctx).cktol tag).toNat
/-- Count the signing groups' tokens down. -/
def State.countRefs (s : State) (p : Nat) (refs : List (Nat × Nat)) : State :=
  refs.foldl (fun s r => match (s.group p r.1).op? r.2 with | some o => s.complete p r.1 o | none => s) s
/-- The passes of a job in every participating sub-array. -/
def Job.passes (j : Job) : List PassIn := j.tiles.map fun t => passIn j t.1 t.2

/-- The conversion passes of an MMA or retry (R128, R129), each with the errors that it suffers (R118, R457): staging contents; samples and counter 12 advance. -/
def State.runPass (s : State) (p : Nat) (j : Job) (rep : Nat) (inj : Option Word) : State × List Stage :=
  let next (q : Nat) : Option PassErrs := s.convErrs.find? fun e => e.core == p && e.q == q
  let es : Errs := (j.passes.flatMap fun x => ((next x.q).elim [] (·.errs)).map fun e => (x.q, e)) ++ (inj.map injErrs).getD []
  let outs := j.passes.map fun x => (x, x.convert s.draws rep j.rcd.sw es)
  let s := { s with convErrs := (j.passes.filterMap fun x => next x.q).foldl (·.erase ·) s.convErrs }
  let s := outs.foldl (fun s o =>
    let (x, (st, n)) := o
    let s := s.modArr p fun a =>
      let a := a.modSub x.q fun y => { y with samples := y.samples + n * repeatOf rep }
      if j.rcd.dense && !x.dense then { a with fallback := min 0xFFFF (a.fallback + 1) } else a
    s.count j.ctx 12 (if st.d.any (·.isSome) then 1 else 0)) s
  (s, outs.map fun o => { o.2.1 with bad := (next o.1.q).any (·.staging) })

/-- Whether every check of every participating sub-array passes, with the failed ones. -/
def State.judge (s : State) (j : Job) (rep : Nat) (sts : List Stage) : List Bad × List Bad :=
  (j.passes.zip sts).foldl (fun acc e =>
    let (cs, rs) := e.1.checks e.2 (s.cktol j.ctx) rep j.rcd.sw
    (acc.1 ++ cs, acc.2 ++ rs)) ([], [])

/-- Accept a contribution (R158): terms, partials, combination, one addition to each accumulator element; counters 0 to 11. A sub-array
whose tile was gone or faulted when an exit issued the MMA gives free partials (log entry 86). -/
def State.acceptMma (s : State) (p : Nat) (j : Job) (sts : List Stage) : State :=
  let xs := (j.passes.zip sts).map fun e => (e.1, e.2.d.toArray)
  let part (m n q : Nat) : Nat := match xs.find? fun e => e.1.q == q with
    | some e => e.1.partialSum e.2 m n
    | none => if j.rcd.qmask.testBit q then Config.freeNat s.draws (site 30 (2 ^ 13 * q + 128 * m + n)) % 2 ^ 32 else 0
  let s := s.modArr p fun a => { a with acc := j.rcd.tiles.foldl (fun acc t =>
    (List.range 2048).foldl (fun acc i =>
      let key := (8 * t.1 + t.2) * 2048 + i
      mset 0 acc key (addRne (mget 0 acc key) (combineOf j.rcd.shape (part (i / 128) (i % 128)) t.1))) acc) a.acc }
  xs.foldl (fun s e => e.1.macs.foldl (fun s c => s.count j.ctx c.1 c.2) s) s

/-- Whether a contribution is accepted: every check passes, and no staging tile met an error (R158, R457). -/
def accepted (sts : List Stage) (cs rs : List Bad) : Bool := cs.isEmpty && rs.isEmpty && !sts.any (·.bad)
/-- The failed tiles of a verdict: in the fused shapes one for the tile of all four (R136, R176). -/
def failedTiles (j : Job) (sts : List Stage) (cs rs : List Bad) : Nat :=
  match j.rcd.shape with
  | .ind => (((cs ++ rs).map (·.q) ++ (sts.filter (·.bad)).map (·.q)).eraseDups).length
  | _ => 1
/-- A failure's located element, and whether its sub-array ran in exact mode (R137, log entry 93); none after a staging-tile error (R457). -/
def singleIn (sts : List Stage) (cs rs : List Bad) : Option (Nat × Nat × Nat × Nat × Int) :=
  if sts.any (·.bad) then none else singleOf (fun q => (sts.find? fun t => t.q == q).any (!·.dense)) cs rs

/-! Waits that only a held operation can end (R161 cases 3 and 4). -/

/-- The operations of a group that cannot end before a failure is resolved, with the failure. -/
def ArrayCore.heldRefs (a : ArrayCore) (gi : Nat) : List (Nat × Fail) :=
  a.behind.flatMap fun (o, f) =>
    (match o.kind with
      | .mma j => j.refs
      | _ => [(o.group, o.op)]).filterMap fun (r : Nat × Nat) => if r.1 = gi then some (r.2, f) else none
/-- The failure for which a wait on a token at a threshold cannot be met (R161 case 3). -/
def Core.stuck (c : Core) (gi t k : Nat) : Option Fail :=
  let g := c.group gi
  let held := (c.arr.heldRefs gi).filter fun r => (g.op? r.1).any (·.tok == some t)
  if k < held.length then held.head?.map (·.2) else none
/-- Trap the parked groups of a core whose waits have become impossible: a TWAIT is undone, a D bit traps the next PC. -/
def State.trapStuck (s : State) (p : Nat) : State :=
  (List.range ((s.core p).wg.elim 0 (·.groups.length))).foldl (fun s gi =>
    let c := s.core p
    let g := c.group gi
    match g.park with
    | some (.twait t k pc head) =>
      match c.stuck gi t k with
      | some f => takeTrap (s.modGroup p gi fun g => { g with park := none, thenDrain := false }) p gi head pc (checksumTrap f 3)
      | none => s
    | some .drain =>
      match (List.range 16).findSome? fun t => c.stuck gi t 0 with
      | some f =>
        let s := s.modGroup p gi fun g => { g with park := none, thenDrain := false }
        let g := s.group p gi
        let head := g.headSet false
        if head.isEmpty then s
        else takeTrap s p gi head ((g.thread? (head.headD 0)).elim 0 (·.pc)) (checksumTrap f 4)
      | none => s
    | _ => s) s

/-- The verdict of the MMA that is first on all its sub-arrays (R158, R160): an accepted contribution is added, a failed one is
kept with its staging contents. -/
def State.verdict (s : State) (p : Nat) (o : AOp) (j : Job) : State :=
  let (s, sts) := s.runPass p j j.rcd.rep j.inj
  let (cs, rs) := s.judge j j.rcd.rep sts
  let s := s.modArr p (·.dropOp o)
  if accepted sts cs rs then (s.acceptMma p j sts).countRefs p j.refs
  else
    let s := s.modArr p fun a => { a with
      fails := a.fails ++ [{ job := j, stages := sts, single := singleIn sts cs rs }]
      seen := a.seen ||| j.rcd.qmask }
    let s := s.count j.ctx 25 (failedTiles j sts cs rs)
    (s.countRefs p j.refs).trapStuck p

/-- Whether a calibration of a sub-array is due: a trigger is held, or drift or use is one now (R139). -/
def Core.calDue (c : Core) (q : Nat) : Bool :=
  let x := c.arr.sub q
  x.calDue || decide (40 ≤ (c.temp - x.calTemp).natAbs) || decide (2 ^ 32 ≤ x.samples)
/-- Whether a conversion pass may start: in the freeze before a move or a save only while a run of the workgroup, or a suspended one, is left,
since one may be held for its verdict; none from the honour point on (R251, R370; log entry 108). -/
def Core.mayPass (c : Core) : Bool :=
  c.wg.all fun w => !w.honoured && ((w.target.isNone && !w.frozen) || w.groups.any (·.run.isSome))
/-- MMA_VERDICT (R158): the MMA must be first on every sub-array it names, with no calibration due there (R139, R140). A failure that
stands traps the groups that have come to wait for what it holds (R161 cases 3 and 4). -/
def execMmaVerdict (core q : Nat) (s : State) : Out1 :=
  let s := s.draw
  let a := s.arr core
  match a.ops.find? (·.names q) with
  | none => .next s
  | some o => match o.kind with
    | .mma j => .next (if a.canRun o && (s.core core).mayPass && !((qsOf o.qmask).any fun q => (s.core core).calDue q) then s.verdict core o j else s.trapStuck core)
    | _ => .next (s.trapStuck core)

/-- Resolve a failure (R162): it is removed, so that held operations run in array order. -/
def State.endFailure (s : State) (p : Nat) (f : Fail) : State := s.modArr p fun a => { a with fails := a.fails.erase f }

/-- RETRY_VERDICT (R169): the failed MMA is run again from scratch at the greater repeat. A calibration that is due is made before the next
MMA's conversions, not before a retry's, and none is made while the failure stands (R140; log entry 101). -/
def execRetryVerdict (core q : Nat) (s : State) : Out1 :=
  let s := s.draw
  match (s.arr core).failOn q with
  | none => .next s
  | some f => match f.retry with
    | none => .next s
    | some (rep, gi, id) =>
      if !(s.core core).mayPass then .next s else
      let rep := max f.job.rcd.rep rep
      let (s, sts) := s.runPass core f.job rep none
      let s := (f.job.passes.flatMap (·.macs)).foldl (fun s c => s.count f.job.ctx 13 c.2) s
      let (cs, rs) := s.judge f.job rep sts
      let land (s : State) (status : Nat) : State := match (s.group core gi).op? id with
        | some o => match o.i with
          | .mretry _ _ a => s.landStatus core gi o a.dst status
          | _ => s
        | none => s
      if accepted sts cs rs then .next (land ((s.acceptMma core f.job sts).endFailure core f) 0)
      else
        let f' := { f with stages := sts, single := singleIn sts cs rs, retry := none }
        let s := s.modArr core fun a => { a with fails := a.fails.map fun x => if x = f then f' else x, seen := a.seen ||| f.job.rcd.qmask }
        .next (land (s.count f.job.ctx 25 (failedTiles f.job sts cs rs)) 1)

/-! Accumulators (R163 to R165). -/

/-- Element i of accumulator tile q.a. -/
def ArrayCore.elem (a : ArrayCore) (q acc i : Nat) : Nat := mget 0 a.acc ((8 * q + acc) * 2048 + i)
/-- The tile at +0, its POISONED mark cleared (R163, R457). -/
def ArrayCore.zeroTile (a : ArrayCore) (q acc : Nat) : ArrayCore :=
  let lo := (8 * q + acc) * 2048
  { a with acc := a.acc.filter fun e => !(lo ≤ e.1 && e.1 < lo + 2048), poisoned := a.poisoned.filter (· != 8 * q + acc) }
/-- The failure that writes a tile. -/
def ArrayCore.failOfTile (a : ArrayCore) (q acc : Nat) : Option Fail := a.fails.find? fun f => f.job.rcd.tiles.contains (q, acc)
/-- Whether an MMA in array order writes a tile. -/
def AOp.addsTo (o : AOp) (q acc : Nat) : Bool :=
  match o.kind with
  | .mma j => j.rcd.tiles.contains (q, acc)
  | _ => false
/-- Whether an MZERO in array order clears a tile. -/
def AOp.clears (o : AOp) (q acc : Nat) : Bool :=
  match o.kind with
  | .mzero a => a == acc && o.names q
  | _ => false
/-- A tile as an instruction reads it that follows every MMA and MZERO of it in array order, the verdicts of the MMAs being in (R143). -/
def ArrayCore.seenTile (a : ArrayCore) (q acc : Nat) : ArrayCore := if a.ops.any (·.clears q acc) then a.zeroTile q acc else a
/-- MDRAIN and MACC wait for the verdicts of the earlier MMAs to the tile and trap where one has failed or is held (R161 case 1, R164). -/
def Iss.waitTile (e : Iss) (q acc : Nat) : Except Stop Unit :=
  let a := e.s.arr e.p
  match a.failOfTile q acc with
  | some f => .error (.trap (checksumTrap f 1))
  | none =>
    match a.behind.find? (·.1.addsTo q acc) with
    | some (_, f) => .error (.trap (checksumTrap f 1))
    | none => if a.ops.any (·.addsTo q acc) then .error (.hold (.verdicts [q] acc)) else .ok ()

/-- The place of a check in R230's order, for a store of several ranges. -/
def checkRank (t : Trap) : Nat :=
  ([0x08, 0x0C, 0x03, 0x0B, 0x10, 0x11, 0x0D, 0x0E, 0x0F, 0x13, 0x1E].findIdx? (· == t.cause)).getD 11
/-- MDRAIN (R164): the elements are read at issue, when no earlier MMA of the tile is without a verdict, and written to the
scratchpad by the operation. -/
def execMdrain (c : Ctl) (o : AccOps) (s : State) : Out1 :=
  arrayIssue c (.mdrain c o) s fun e => do
    e.needMul [o.q]
    e.waitTile o.q o.acc
    let os := [(RdAs.w32, o.a), (.w32, o.b)]
    let l := ((e.read [e.lowest] os).head?).getD ⟨e.lowest, []⟩
    let a : Int := l.a.toNat + o.off.toInt
    let pitch := if o.b == .zero then 512 else l.b.toNat
    if a % 16 != 0 || pitch % 16 != 0 || decide (pitch < 512) then throw (.trap trapIllegal)
    let q : AccReq := { tier := .smem, n := 512, reads := false, writes := true, align := some 16 }
    let e := e.latched os
    let rows := (List.range 16).map fun (m : Nat) => e.locate q [{ slot := e.lowest, a := a + ((m * pitch : Nat) : Int) }]
    let bad := rows.filterMap fun r => match r with | .error (.trap t) => some t | _ => none
    match bad with
    | t :: ts => throw (.trap (ts.foldl (fun b t => if checkRank t < checkRank b then t else b) t))
    | [] =>
      let los := rows.flatMap fun r => match r with | .ok (_, ls) => ls | .error _ => []
      let arr := (e.s.arr e.p).seenTile o.q o.acc
      let vals := (List.range 2048).map (arr.elem o.q o.acc)
      let marked := arr.poisoned.contains (8 * o.q + o.acc)
      let s := if o.clr then e.s.modArr e.p (fun x => { x.zeroTile o.q o.acc with poisoned := x.poisoned }) else e.s
      e.room [o.q] false
      e.postArr c { i := .mdrain c o, lanes := los, args := vals ++ [l.a.toNat, if o.b == .zero then 0 else l.b.toNat], ue := if marked then some (0, 8, 0) else none } [] .drain (2 ^ o.q) s
/-- The place in array order of a drain whose operation is over. -/
def State.endDrain (s : State) (p gi id : Nat) : State :=
  s.modArr p fun a => { a with ops := a.ops.filter fun x => !(x.isDrain && x.group == gi && x.op == id) }
/-- TOKEN_COUNTDOWN of MDRAIN: its stores are performed, over poison too (log entry 107), then its deferred error is raised (R164, R457). -/
def State.countMdrain (s : State) (p gi : Nat) (o : Op) : State :=
  let g := s.group p gi
  let n := o.act.headD 0
  if o.lanes.any fun l => g.blocked gi o n (some l) true then s
  else
    let s := (o.lanes.mapIdx fun m l => (m, l)).foldl (fun s e => match (s.placeNow gi e.2).1 with
      | none => s
      | some k =>
        (List.range 128).foldl (fun s i => s.write (k + 4 * i) 4 (o.args.getD (128 * e.1 + i) 0)) (s.clearPoison k 512)) s
    let s := if o.ue.isSome then s.deferTrap p gi o { cause := 0x17, info := 8 } else s
    (s.endDrain p gi o.id).complete p gi o

/-- MACC (R165). -/
def execMacc (c : Ctl) (o : AccOps) (s : State) : Out1 :=
  arrayIssue c (.macc c o) s fun e => do
    e.needMul [o.q]
    e.waitTile o.q o.acc
    let arr := (e.s.arr e.p).seenTile o.q o.acc
    let os := [(RdAs.w32, o.a)]
    let ls := e.read e.act os
    let ws := ls.flatMap fun l =>
      let i0 := 4 * bits l.a.toNat 10 2
      (List.range 4).map fun i => { slot := l.slot, code := o.dst.code + i, v := BitVec.ofNat 32 (arr.elem o.q o.acc (i0 + i)) : RegWrite }
    let marked := arr.poisoned.contains (8 * o.q + o.acc)
    e.room [o.q] false
    e.postArr c { i := .macc c o, writes := ws, args := [(ls.head?).elim 0 (·.a.toNat)], ue := if marked then some (0, 8, 0) else none } (ws.map fun w => (w.slot, w.code)) .drain (2 ^ o.q)
      (e.s.setGroup e.p e.gi (e.latch e.act os e.g))
def State.countMacc (s : State) (p gi : Nat) (o : Op) : State :=
  let s := if o.ue.isSome then s.deferTrap p gi o { cause := 0x17, info := 8 } else s
  (s.endDrain p gi o.id).landOp p gi o o.writes

/-- Discard a failure, with every held MMA that writes one of the tiles named (R163); an MRETRY of it that runs ends (log entry 94). -/
def State.discard (s : State) (p : Nat) (f : Fail) (tiles : List (Nat × Nat)) : State :=
  let victims := ((s.arr p).behind.filter fun o => tiles.any fun t => o.1.addsTo t.1 t.2).map (·.1)
  let s := s.modArr p fun a => { a with ops := a.ops.filter fun o => !victims.contains o, fails := a.fails.erase f }
  let s := match f.retry with
    | some (_, gi, id) => match (s.group p gi).op? id with
      | some o => match o.i with | .mretry _ _ a => s.landStatus p gi o a.dst 2 | _ => s
      | none => s
    | none => s
  victims.foldl (fun s o => match o.kind with | .mma j => s.countRefs p j.refs | _ => s) s
/-- The newest operation in array order goes ahead of those that were held (R143). -/
def ArrayCore.putAhead (a : ArrayCore) (held : List AOp) : ArrayCore :=
  let old := a.ops.dropLast
  { a with ops := old.filter (!held.contains ·) ++ a.ops.drop old.length ++ old.filter held.contains }
/-- MZERO (R143, R163): in array order, but ahead of what is held behind a failure of one of its tiles, which it discards. A failure on its
sub-arrays that writes none of its tiles traps (R161 case 2). -/
def execMzero (c : Ctl) (qmask acc : Nat) (s : State) : Out1 :=
  arrayIssue c (.mzero c qmask acc) s fun e => do
    let qs := qsOf qmask
    let a := e.s.arr e.p
    let tiles := qs.map fun q => (q, acc)
    match qs.findSome? fun q => (a.failOn q).filter fun f => !tiles.any f.job.rcd.tiles.contains with
    | some f => throw (.trap (checksumTrap f 2))
    | none => pure ()
    e.needMul qs
    let fs := (qs.filterMap a.failOn).eraseDups
    e.room qs false
    let held := a.behind.map (·.1)
    let s := fs.foldl (fun s f => s.discard e.p f tiles) e.s
    let (s, r) ← e.postArr c { i := .mzero c qmask acc } [] (.mzero acc) qmask s
    pure (if fs.isEmpty then s else s.modArr e.p fun a => a.putAhead held, r)
/-- TOKEN_COUNTDOWN of MZERO: every earlier operation on its sub-arrays is finished, and no failure is unresolved there: one already issued
when an MMA before it fails is held behind that failure like any other operation (R160; log entry 105). -/
def State.countMzero (s : State) (p gi : Nat) (o : Op) : State :=
  match (s.arr p).ops.find? fun a => a.group == gi && a.op == o.id with
  | none => s.complete p gi o
  | some a => match a.kind with
    | .mzero acc =>
      if (s.arr p).canRun a then
        (s.modArr p fun x => (qsOf a.qmask).foldl (fun x q => x.zeroTile q acc) (x.dropOp a)).complete p gi o
      else s
    | _ => s

/-! Inspection and repair (R166 to R169, R175). -/

/-- The status word of a tile (R166). -/
def mcksWord (a : ArrayCore) (q acc : Nat) : Nat :=
  let pending := a.ops.any (·.addsTo q acc)
  match a.failOfTile q acc with
  | none => 2 ^ 28 * b2n pending
  | some f => 2 ^ 31 + 2 ^ 30 * b2n f.single.isSome + 2 ^ 29 * b2n f.retry.isSome + 2 ^ 28 * b2n pending
      + 2 ^ 26 * min 2 (a.heldOf f.job.rcd.qmask) + 2 ^ 25 * b2n f.job.rcd.dense + 2 ^ 20 * f.job.rcd.qmask
def execMcks (c : Ctl) (o : AccOps) (s : State) : Out1 :=
  arrayIssue c (.mcks c o) s fun e => do
    e.needMul [o.q]
    e.postResult c (.mcks c o) o.dst 1 (mcksWord (e.s.arr e.p) o.q o.acc) e.s
/-- The column of an element of sub-array q in the coordinates of the C tile (R127). -/
def cColumn (sh : Shape) (q n : Nat) : Nat :=
  match sh with
  | .w4 => 128 * q + n
  | .sq => 128 * (q % 2) + n
  | _ => n
/-- The located element of the failure of a tile (R167), as a pair. -/
def mlocWord (a : ArrayCore) (q acc : Nat) : Nat :=
  match a.failOfTile q acc with
  | none => 0
  | some f => match f.single with
    | none => 2 ^ 31
    | some (q, k, m, n, d) =>
      2 ^ 31 + 2 ^ 30 + 2 ^ 28 * q + 2 ^ 26 * k + 2 ^ 22 * m + 2 ^ 13 * cColumn f.job.rcd.shape q n + 2 ^ 32 * (d % 2 ^ 32).toNat
def execMloc (c : Ctl) (o : AccOps) (s : State) : Out1 :=
  arrayIssue c (.mloc c o) s fun e => do
    e.needMul [o.q]
    e.postResult c (.mloc c o) o.dst 2 (mlocWord (e.s.arr e.p) o.q o.acc) e.s
def execMfix (c : Ctl) (o : AccOps) (s : State) : Out1 :=
  arrayIssue c (.mfix c o) s fun e => do
    e.needMul [o.q]
    e.post e.s c { i := .mfix c o } (e.dsts o.dst 1)
/-- The staging contents with the located element corrected (R138). -/
def correct (sts : List Stage) (q k m n : Nat) (d : Int) : List Stage :=
  sts.map fun t => if t.q = q then
    let i := if t.dense then 128 * m + n else (128 * m + n) * 4 + k
    { t with d := lmod t.d i fun v => some (v.getD 0 + 16 * d) } else t
/-- TOKEN_COUNTDOWN of MFIX: its verdict (R168). -/
def State.countMfix (s : State) (p gi : Nat) (o : Op) (a : AccOps) : State :=
  match (s.arr p).failOfTile a.q a.acc with
  | none => s.landStatus p gi o a.dst 2
  | some f =>
    if f.retry.isSome then s.landStatus p gi o a.dst 3
    else match f.single with
    | none => s.landStatus p gi o a.dst 1
    | some (q, k, m, n, d) =>
      (((s.acceptMma p f.job (correct f.stages q k m n d)).endFailure p f).count f.job.ctx 26 1).landStatus p gi o a.dst 0
/-- MRETRY (R169): a retry starts where a failure writes the tile and none is running; otherwise its status is known. -/
def execMretry (c : Ctl) (rep : Nat) (o : AccOps) (s : State) : Out1 :=
  arrayIssue c (.mretry c rep o) s fun e => do
    e.needMul [o.q]
    let id := (e.s.group e.p e.gi).nextOp
    let f := (e.s.arr e.p).failOfTile o.q o.acc
    let status := match f with | none => [2] | some f => if f.retry.isSome then [3] else []
    let (s, r) ← e.post e.s c { i := .mretry c rep o, args := status } (e.dsts o.dst 1)
    match f, status with
    | some f, [] => pure (s.modArr e.p fun a => { a with fails := a.fails.map fun x => if x = f then { x with retry := some (rep, e.gi, id) } else x }, r)
    | _, _ => pure (s, r)
/-- TOKEN_COUNTDOWN of an MRETRY that started no retry. -/
def State.countMretry (s : State) (p gi : Nat) (o : Op) (a : AccOps) : State :=
  match o.args with
  | st :: _ => s.landStatus p gi o a.dst st
  | [] => s

/-- AINFO's result (R175): it acts at issue; a failed MMA is not counted among those unfinished (log entry 95). -/
def ainfoWord (c : Core) (q sel base : Nat) : Nat :=
  let a := c.arr
  let x := a.sub q
  let first := a.ops.find? (·.names q)
  let calib := match first with
    | some o => (match o.kind with | .cal => true | .mma _ => c.calDue q | _ => false) && (a.failOn q).isNone
    | none => false
  let used := x.tiles.foldl (fun n t => n + t.width) 0
  match sel with
  | 0 =>
    2 ^ 31 * b2n x.mul + 2 ^ 30 * b2n (!(a.pendingModes q).isEmpty) + 2 ^ 29 * b2n (c.calDue q) + 2 ^ 28 * b2n calib
      + 2 ^ 27 * b2n (a.failOn q).isSome + 2 ^ 25 * (if (a.failOn q).isSome then min 3 (a.mmasOn q) else 0) + 2 ^ 22 * min 7 (a.mmasOn q)
      + 2 ^ 19 * x.spares + 2 ^ 10 * (256 - used)
  | 1 => min 0xFFFFFFFF x.samples
  | 2 => (x.calTemp % 2 ^ 32).toNat
  | _ => match (if x.mul then x.tile? base else none) with
    | none => 0
    | some t => 2 ^ 31 * b2n (!t.writing) + 2 ^ 30 * b2n t.writing + 2 ^ 29 * b2n t.fault.isSome + 2 ^ 28 * b2n t.dense
        + 2 ^ 26 * (match t.width with | 8 => 0 | 6 => 1 | _ => 2) + 2 ^ 18 * t.base
def execAinfo (c : Ctl) (sel : Nat) (o : AccOps) (s : State) : Out1 :=
  arrayIssue c (.ainfo c sel o) s fun e =>
    e.postResult c (.ainfo c sel o) o.dst 1 (ainfoWord (e.s.core e.p) o.q sel o.slotBase) e.s

/-- CKSTAT (R173). -/
def ckstatWord (a : ArrayCore) : Nat :=
  (List.range 4).foldl (fun v q => v + (if (a.failOn q).isSome then 2 ^ (28 + q) + 2 ^ (20 + 2 * q) * min 3 (a.mmasOn q) else 0)) 0
    + 2 ^ 16 * (a.seen % 16) + a.fallback % 2 ^ 16

/-! Events of the arrays. -/

/-- Whether an access admitted to a sub-array's window is still outstanding (R149). -/
def State.windowBusy (s : State) (p q : Nat) : Bool :=
  let busy (o : Op) : Bool := o.lanes.any fun l => !l.done && (subsOf (l.va % 2 ^ 22) l.size).contains q && (match l.tier with
    | .smem => s.phys l.lc == p
    | .cmem => s.phys l.lc == p && l.mate.any fun m => (s.core p).wg.any (isMate l.lc m)
    | _ => false)
  (s.cores.any fun e => e.2.allOps.any busy) || s.panniers.any fun e => e.2.acc.any busy
/-- A calibration is made (R139 to R141): the trims are set; each column that cannot be trimmed takes a spare, to which the remap CAM then sends
its accesses (R462). How many columns there are, and which, is free. -/
def State.calibrate (s : State) (core q : Nat) : State :=
  let x := (s.arr core).sub q
  let bad := Config.freeNat s.draws (site 8 q) % 129
  let spare (i : Nat) : Remap := { kind := 2, die := pdie core, unit := 4 * core + q, failed := Config.freeNat s.draws (site 40 (4 * q + i)) % 128, spare := 4 - x.spares + i }
  let s := { s with remaps := s.remaps ++ (List.range (min bad x.spares)).map spare }
  let s := s.modArr core fun a => a.modSub q fun x =>
    { x with calDue := false, samples := 0, calTemp := (s.core core).temp, spares := x.spares - bad }
  if x.spares < bad then s.healthLog (pdie core) 3 core 0 q else s
/-- A sub-array changes to a mode (R124): a change clears its storage and its tile directory, but for the tiles of the writes that come after
it (R143, R152); a calibration whose trigger was held
is made when it enters multiply mode (R139). -/
def State.switchMode (s : State) (p q : Nat) (mul : Bool) : State :=
  if ((s.arr p).sub q).mul = mul then s
  else
    let k := windowKey p (0x80000 * (q + 1))
    let s := { s with mem := memClear s.mem k 0x80000, poison := s.poison.filter fun e => !(k / 32 ≤ e.1 && e.1 < (k + 0x80000) / 32) }
    let s := s.modArr p fun a => a.modSub q fun x => { x with mul, tiles := x.tiles.filter (·.writing) }
    if mul && (s.core p).calDue q then s.calibrate p q else s
/-- MODE_CHANGE_COMPLETE (R149): sub-arrays whose turn has come, and that no failure holds (R160), switch, which of them first is free; the token counts down when
all are in the new mode. -/
def execModeChangeComplete (core : Nat) (s : State) : Out1 :=
  let s := s.draw
  let a := s.arr core
  let ready (o : AOp) : List Nat := (qsOf o.qmask).filter fun q => a.firstOn q o && (a.failOn q).isNone && !s.windowBusy core q
  let pick := a.ops.find? fun o => match o.kind with | .mode _ => !(ready o).isEmpty | _ => false
  match pick with
  | none => .next s
  | some o =>
    let mul := match o.kind with | .mode m => m | _ => false
    let some_ := freeSome s.draws (site 1 0) (ready o)
    let qs := if some_.isEmpty then ready o else some_
    let s := qs.foldl (fun s q => s.switchMode core q mul) s
    let left := qs.foldl (fun m q => m - 2 ^ q) o.qmask
    if left = 0 then
      let s := s.modArr core (·.dropOp o)
      .next (match (s.group core o.group).op? o.op with | some x => s.complete core o.group x | none => s)
    else .next (s.modArr core fun a => { a with ops := a.ops.map fun x => if x = o then { o with qmask := left } else x })

/-- TILE_WRITE_COMPLETE for AWR and ALD; Engine.lean adds WPRE. -/
def State.tileWriteFirst (s : State) (core q : Nat) : Option (AOp × Op × Nat × Nat) :=
  let a := s.arr core
  match a.ops.find? (·.names q) with
  | none => none
  | some o => match o.kind with
    | .write _ base width => if a.canRun o then ((s.group core o.group).op? o.op).map fun x => (o, x, base, width) else none
    | _ => none

/-- CALIBRATION_TRIGGER (R139): drift or use is noted, and is held until the calibration is made. -/
def execCalibrationTrigger (core q : Nat) (s : State) : Out1 :=
  .next (if (s.core core).calDue q then s.modArr core fun a => a.modSub q fun x => { x with calDue := true } else s)
/-- CALIBRATION_COMPLETE (R139, R140, R151): for ACAL in its place in array order, else before the next MMA that waits for it. -/
def execCalibrationComplete (core q : Nat) (s : State) : Out1 :=
  let s := s.draw
  let a := s.arr core
  let x := a.sub q
  if !x.mul then .next s
  else match a.ops.find? (·.names q) with
  | none => .next (if (s.core core).calDue q then s.calibrate core q else s)
  | some o =>
    if (a.failOn q).isSome then .next s
    else match o.kind with
    | .cal =>
      let s := s.calibrate core q
      let left := o.qmask - 2 ^ q
      if left = 0 then
        let s := s.modArr core (·.dropOp o)
        .next (match (s.group core o.group).op? o.op with | some x => s.complete core o.group x | none => s)
      else .next (s.modArr core fun a => { a with ops := a.ops.map fun x => if x = o then { o with qmask := left } else x })
    | .mma _ => .next (if (s.core core).calDue q then s.calibrate core q else s)
    | _ => .next s

end Sys2Proof.Machine
end

