-- ==== Sys2Proof/Machine/Barrier.lean ====
section
/-! DEFINITION. Transaction barriers (spec/10_async_engines.md R253 to R261), workgroup and cluster barriers and message queues
(spec/12_control_instructions.md R321 to R327). -/

namespace Sys2Proof.Machine

/-! Barrier words (R254, R255). -/

/-- 2^55. -/
def pendLimit : Int := 2 ^ 55
/-- The barrier word (R254). -/
def Barrier.word (b : Barrier) : Nat :=
  (b.pend % 2 ^ 56).toNat + 2 ^ 64 * (b.expect % 2 ^ 16) + 2 ^ 80 * (b.left % 2 ^ 16) + 2 ^ 96 * (b.phase % 2 ^ 16)
    + 2 ^ 124 * b2n b.ovf + 2 ^ 125 * b2n b.err + 2 ^ 126 * b2n b.inv + 2 ^ 127 * b2n b.valid
/-- The rule applied after each change (R255). -/
def Barrier.advance (b : Barrier) : Barrier :=
  if b.valid && !b.ovf && b.left == 0 && b.pend == 0 then
    let ph := (b.phase + 1) % 2 ^ 16
    { b with phase := ph, left := b.expect, wide := b.wide.filter (· != ph) }
  else b
/-- What comes next is counted in the present phase, and comes from beyond the core or not. -/
def Barrier.from_ (b : Barrier) (wide : Bool) : Barrier := if wide && !b.wide.contains b.phase then { b with wide := b.phase :: b.wide } else b
/-- Bytes landed (R255). -/
def Barrier.land (b : Barrier) (n : Nat) : Barrier :=
  if b.pend - n < -pendLimit then { b with pend := -pendLimit, ovf := true } else { b with pend := b.pend - n }

/-- The wait of a group on a barrier (R259): the phase, and whether it names it as a cluster barrier. -/
def Group.waitsOn (g : Group) (h : Home) (off : Nat) : Option (Nat × Bool) :=
  match g.park with
  | some (.bwait h' o ph cm) => if h' = h && o = off then some (ph, cm) else none
  | _ => none
/-- The placed groups of the package that wait on a barrier (R259): core, group, phase and whether they name it as a cluster barrier. -/
def State.waitersOf (s : State) (h : Home) (off : Nat) : List (Nat × Nat × Nat × Bool) :=
  s.cores.flatMap fun e => (List.range (e.2.wg.elim 0 (·.groups.length))).filterMap fun gi =>
    ((e.2.group gi).waitsOn h off).map fun w => (e.1, gi, w.1, w.2)
/-- Whether a group waits on a barrier, placed or saved (R257). -/
def State.anyWaiter (s : State) (h : Home) (off : Nat) : Bool :=
  !(s.waitersOf h off).isEmpty || s.saved.any fun u => u.units.any fun x => x.1.groups.any fun g => (g.waitsOn h off).isSome
/-- Whether a wait on a phase of a barrier has ended, and whether it returns satisfied (R259). -/
def Core.barrierPast (c : Core) (off phase : Nat) : Bool × Bool :=
  match mfind c.dir off with
  | none => (true, false)
  | some b => if b.phase != phase then (true, true) else (false, false)
/-- The level of the acquire that a satisfied wait on a phase makes: .cl for a cluster barrier, and where what the phase counted came from
beyond the core (R203, R217). -/
def Core.waitLevel (c : Core) (off phase : Nat) (cm : Bool) : Nat :=
  if cm || (mfind c.dir off).any (·.wide.contains phase) then 2 else 1
/-- The threads of a group that go on together from a wait acquire (R203). -/
def State.acquireGroup (s : State) (p gi level : Nat) : State := s.acquire p gi ((s.group p gi).readyThreads.map (·.slot)) level
/-- The waiters of a barrier, whose home is on a core, that have nothing more to wait for go on; a satisfied wait is an acquire (R203). -/
def State.wakeOf (s : State) (h : Home) (p off : Nat) : State :=
  (s.waitersOf h off).foldl (fun s w =>
    let (done, sat) := (s.core p).barrierPast off w.2.2.1
    if !done then s
    else
      let s := s.modGroup w.1 w.2.1 (·.unpark)
      if sat then s.acquireGroup w.1 w.2.1 ((s.core p).waitLevel off w.2.2.1 w.2.2.2) else s) s
/-- The same for a barrier of the workgroup on a core. -/
def State.wakeBarrier (s : State) (p off : Nat) : State := (s.core p).wg.elim s fun w => s.wakeOf w.home p off

/-- A change of a valid barrier at its home: the rule of R255, the mirror, the wakes (R253). -/
def State.putBarrier (s : State) (p off : Nat) (b : Barrier) : State :=
  let b := b.advance
  ((s.modCore p fun c => { c with dir := minsert c.dir off b }).write (windowKey p off) 16 b.word).wakeBarrier p off

/-! Copies and preloads counted on a barrier (R257, R260). -/

/-- The home of a barrier named by kind and offset (R263): logical core and offset. -/
def barHome (lcore kind off : Nat) : Nat × Nat :=
  if kind = 2 then (clusterOf lcore * 16 + off / 2 ^ 22, off % 2 ^ 22) else (lcore, off)
/-- The offset of a copy's barrier at its home. -/
def Copy.barAt (c : Copy) (off : Nat) : Nat := (barHome c.lcore c.bar off).2
/-- Whether a copy names a barrier, and whether some slice of it still counts there. -/
def Copy.names (c : Copy) (h : Home) (off : Nat) : Bool := c.bar != 0 && c.home == some h && c.barOff.map c.barAt == some off
def Copy.countsOn (c : Copy) (h : Home) (off : Nat) : Bool := c.names h off && c.slices.any fun x => !x.act.isEmpty && !x.gone
/-- The barrier of a preload: kind and offset; its args are the record's address, k0, n0, the offset, whether it is detached,
its lock entry plus 32 times its group, the page that it missed last plus one, whether a read was replayed, and the record (R272); its mate is
who holds the barrier, lc its logical core. -/
def Op.preBar (o : Op) : Option (Nat × Nat) :=
  match o.i with
  | .wpre _ t => if t.bar = 0 then none else some (t.bar, o.args.getD 3 0)
  | _ => none
def Op.preCounts (o : Op) (lcore : Nat) (h : Home) (off : Nat) : Bool :=
  o.preBar.any fun b => barHome lcore b.1 b.2 == (h.lc, off) && o.mate == some (h.launch, h.wg) && o.args.getD 4 0 == 0
/-- Whether a started copy or preload of the package counts on a barrier (R257); one that has started is on its core (R262). -/
def State.countedOn (s : State) (h : Home) (off : Nat) : Bool := s.cores.any fun e =>
  ((e.2.wg.elim [] (·.copies)) ++ e.2.past).any (fun c => c.started && c.countsOn h off)
    || e.2.allOps.any fun o => o.preCounts (s.logical e.1) h off
def Copy.detach (h : Home) (off : Nat) (c : Copy) : Copy :=
  if c.names h off then { c with detached := true, slices := c.slices.map fun x => { x with gone := true } } else c
/-- Whether an operation is an arrival at a barrier. -/
def Op.arrivesAt (o : Op) (h : Home) (off : Nat) : Bool :=
  (match o.i with | .barrive .. | .barriveTx .. => true | _ => false) && o.args.take 2 == [h.lc, off] && o.mate == some (h.launch, h.wg)
/-- An operation of a core once a barrier is gone: a preload counts on it no more, an arrival that has not been applied is dropped. -/
def Op.detach (h : Home) (off lcore : Nat) (o : Op) : Op :=
  if o.preCounts lcore h off then { o with args := o.args.set 4 1 } else if o.arrivesAt h off then { o with stage := 9 } else o
def Workgroup.detach (h : Home) (off lcore : Nat) (w : Workgroup) : Workgroup :=
  { w with copies := w.copies.map (Copy.detach h off), groups := w.groups.map fun g => { g with ops := g.ops.map (Op.detach h off lcore) } }
/-- Detach what names a barrier, of placed workgroups, of saved ones and of those that have retired (R257, R260). -/
def State.detachAll (s : State) (h : Home) (off : Nat) : State :=
  { s with
    cores := s.cores.map fun e =>
      let lcore := s.logical e.1
      (e.1, { e.2 with
        past := e.2.past.map (Copy.detach h off)
        orphans := { e.2.orphans with ops := e.2.orphans.ops.map (Op.detach h off lcore) }
        wg := e.2.wg.map (Workgroup.detach h off lcore) })
    saved := s.saved.map fun u => { u with units := u.units.map fun x => (x.1.detach h off x.1.lcore, x.2) } }

/-! The instructions (R256 to R261). -/

/-- A 16-byte structure of a scratchpad part, by its address: the workgroup that holds it, whether it is placed, and the offset (R177 to R179,
R256, R324); a part ends at a multiple of 16. -/
def Iss.poolAt (e : Iss) (cm : Bool) (a : Int) : Option (Workgroup × Bool × Nat) :=
  e.w.bind fun w => (e.s.windowOf w (if cm then .cmem else .smem) a 1).bind fun x =>
    (if cm then e.s.gangMember w x.1 else some (w, true)).bind fun m =>
      if x.2 < carveBytes m.1.carve then some (m.1, m.2, x.2) else none
/-- The address checks of a barrier or queue instruction, whose operands come from the lowest active lane. -/
def Iss.poolName (e : Iss) (cm : Bool) (base : Src) (off : Word) : Except Stop (Workgroup × Bool × Nat) :=
  let a : Int := ((e.read [e.lowest] [(.w32, base)]).headD ⟨0, []⟩).a.toNat + off.toInt
  match e.poolAt cm a with
  | none => .error (laneTrap e [] { slot := e.lowest, a } { cause := 0x0C })
  | some (w, here, o) => if o % 16 = 0 then .ok (w, here, o) else .error (laneTrap e [] { slot := e.lowest, a } trapMisaligned)
/-- The home of a barrier, its physical core and the offset: the issue is held while the home's workgroup is saved (R258, R223). -/
def Iss.poolAddr (e : Iss) (cm : Bool) (base : Src) (off : Word) : Except Stop (Home × Nat × Nat) :=
  match e.poolName cm base off with
  | .error x => .error x
  | .ok (w, here, o) => if here then .ok (w.home, e.s.phys w.lcore, o) else .error (.hold (.answer w.home))
/-- The operand SB of the lowest active lane, as .n32 (R256). -/
def Iss.low32 (e : Iss) (o : Src) : Nat := ((e.read [e.lowest] [(.w32, o)]).headD ⟨0, []⟩).a.toNat
/-- A group-kind instruction: no effect with no thread active (R256, R305). -/
def groupIssue (c : Ctl) (i : Instr) (s : State) (body : Iss → Eff) : Out1 :=
  issue c i 1 s fun e => if e.act.isEmpty then .ok (e.s, false) else body e
def barTrap (cause off : Nat) : Stop := .trap { cause, info := off }

/-- BINIT (R257). -/
def execBinit (c : Ctl) (o : BarOps) (s : State) : Out1 :=
  groupIssue c (.binit c o) s fun e => do
    let (h, p, off) ← e.poolAddr o.cm o.base o.off
    let n := e.low32 o.b
    let e := e.latched [(.w32, o.base), (.w32, o.b)]
    let dir := (e.s.core p).dir
    if n = 0 || 65535 < n then throw (barTrap 0x14 off)
    match mfind dir off with
    | some _ => if e.s.anyWaiter h off || e.s.countedOn h off then throw (barTrap 0x13 off)
    | none => if 32 ≤ dir.length then throw (barTrap 0x15 off)
    let s := if (mfind dir off).isSome then e.s.detachAll h off else e.s
    .ok (s.putBarrier p off { left := n, expect := n }, false)

/-- The arrivals and charges that have passed their tests at a barrier and are not applied yet (R258). -/
def State.passedAt (s : State) (h : Home) (off : Nat) : Nat × Nat :=
  s.everyOp.foldl (fun acc o => if o.stage = 0 && o.arrivesAt h off then (acc.1 + o.args.getD 2 0, acc.2 + o.args.getD 3 0) else acc) (0, 0)
/-- Apply an arrival of a core's threads at its home (R255, R258). -/
def State.arriveAt (s : State) (from_ p off a n : Nat) : State :=
  match mfind (s.core p).dir off with
  | none => s
  | some b => s.putBarrier p off { b.from_ (from_ != p) with pend := b.pend + n, left := b.left - a }
/-- BARRIVE and BARRIVE.tx (R258): the tests at issue; the change once the release is performed, here where it already is. -/
def barriveOp (c : Ctl) (i : Instr) (o : BarOps) (tx : Bool) (s : State) : Out1 :=
  groupIssue c i s fun e => do
    let (h, p, off) ← e.poolAddr o.cm o.base o.off
    let os := [(RdAs.w32, o.base), (RdAs.w32, o.b)]
    let n : Nat := if tx then (e.read e.act os).foldl (fun v l => v + l.b.toNat) 0 else 0
    let a := e.act.length
    let e := e.latched os
    match mfind (e.s.core p).dir off with
    | none => throw (barTrap 0x16 off)
    | some b =>
      let (a', n') := e.s.passedAt h off
      if b.left < a' + a then throw (barTrap 0x14 off)
      if pendLimit - 1 < b.pend + n' + n then throw (barTrap 0x14 off)
      let op : Op := { i, args := [h.lc, off, a, n], mate := some (h.launch, h.wg), act := e.act, id := (e.s.group e.p e.gi).nextOp }
      if e.s.waitsAny e.p e.gi op then .ok (e.enter e.s c op, false)
      else .ok (e.s.arriveAt e.p p off a n, false)
def execBarrive (c : Ctl) (o : BarOps) (s : State) : Out1 := barriveOp c (.barrive c o) o false s
def execBarriveTx (c : Ctl) (o : BarOps) (s : State) : Out1 := barriveOp c (.barriveTx c o) o true s
/-- The arrival of a BARRIVE whose release has been performed. While the home's workgroup is saved it waits (R258); the barrier of one that has
retired is gone for good (R253). -/
def State.countBarrive (s : State) (p gi : Nat) (o : Op) : State :=
  let m := o.mate.getD (0, 0)
  let h : Home := ⟨o.args.getD 0 0, m.1, m.2⟩
  if o.stage = 0 && (s.waitsAny p gi o || ((s.homeCore h).isSome && !s.homeHere h)) then s
  else
    let s := s.modGroup p gi (·.dropOp o.id)
    if o.stage = 0 && s.homeHere h then s.arriveAt p (s.phys h.lc) (o.args.getD 1 0) (o.args.getD 2 0) (o.args.getD 3 0) else s

/-- BWAIT (R259). -/
def execBwait (c : Ctl) (o : BarOps) (s : State) : Out1 :=
  groupIssue c (.bwait c o) s fun e => do
    let (h, p, off) ← e.poolAddr o.cm o.base o.off
    let ph := e.low32 o.b % 2 ^ 16
    let e := e.latched [(.w32, o.base), (.w32, o.b)]
    let (done, sat) := (e.s.core p).barrierPast off ph
    if done then .ok (if sat then e.s.acquire e.p e.gi e.act ((e.s.core p).waitLevel off ph o.cm) else e.s, false)
    else .ok (e.s.park e.p e.gi (.bwait h off ph o.cm), true)

/-- BINVAL (R260). -/
def execBinval (c : Ctl) (o : BarOps) (s : State) : Out1 :=
  groupIssue c (.binval c o) s fun e => do
    let (h, p, off) ← e.poolAddr o.cm o.base o.off
    let e := e.latched [(.w32, o.base)]
    match mfind (e.s.core p).dir off with
    | none => .ok (e.s, false)
    | some b =>
      let s := (e.s.modCore p fun k => { k with dir := merase k.dir off }).write (windowKey p off) 16
        { b with valid := false, inv := true }.word
      .ok ((s.wakeBarrier p off).detachAll h off, false)

/-! BAR and CBAR (R321 to R323). -/

/-- Set-like insertion of a group into the arrival set of a barrier. -/
def arriveIn (m : List (Nat × List Nat)) (n gi : Nat) : List (Nat × List Nat) :=
  let l := mget [] m n
  if l.contains gi then m else minsert m n (l ++ [gi])
/-- Whether every group that has not ended is in the arrival set of a barrier. -/
def Workgroup.allIn (w : Workgroup) (m : List (Nat × List Nat)) (n : Nat) : Bool :=
  (List.range w.groups.length).all fun i => (mget [] m n).contains i || (w.groups.getD i {}).ended
/-- The groups of a workgroup that are parked for a reason go on. -/
def Workgroup.unparkAll (w : Workgroup) (k : Park) : Workgroup :=
  { w with groups := w.groups.map fun g => if g.park = some k then g.unpark else g }

/-- Complete a phase of BAR where every group has arrived (R322). -/
def State.barCheck (s : State) (p n : Nat) : State :=
  match (s.core p).wg with
  | none => s
  | some w =>
    if (mget [] w.bars n).isEmpty || !w.allIn w.bars n then s
    else s.modWg p fun w => { w.unparkAll (.bar n) with bars := merase w.bars n }
/-- The cores of the cluster that hold a workgroup of the gang. -/
def State.gangCores (s : State) (w : Workgroup) : List Nat :=
  ((List.range 16).map fun i => s.phys (clusterOf w.lcore * 16 + i)).filter fun p => (s.core p).wg.any (·.sameGang w)
/-- The members of the gang that are saved: they have not retired (R323). -/
def State.gangSaved (s : State) (w : Workgroup) : List Workgroup :=
  s.saved.flatMap fun u => (u.units.map (·.1)).filter fun x => x.sameGang w && clusterOf x.lcore == clusterOf w.lcore
/-- A phase of CBAR is over for a workgroup: its groups that wait there have acquired (R323). -/
def Workgroup.cbarOver (n : Nat) (w : Workgroup) : Workgroup :=
  let go (g : Group) : Group := if g.park = some (.cbar n) then g.modThreads (g.readyThreads.map (·.slot)) fun t => { t with acquired := true } else g
  { Workgroup.unparkAll { w with groups := w.groups.map go } (.cbar n) with cbars := merase w.cbars n }
/-- The groups of a core that wait at a CBAR go on, each having acquired at .cl. -/
def State.cbarAt (s : State) (n p : Nat) : State :=
  let gs := (List.range 64).filter fun gi => ((s.core p).group gi).park == some (.cbar n)
  (gs.foldl (fun s gi => s.acquireGroup p gi 2) s).modWg p (·.cbarOver n)
/-- Complete a phase of CBAR where every workgroup of the gang that has not retired has arrived (R323). -/
def State.cbarCheck (s : State) (w : Workgroup) (n : Nat) : State :=
  let ps := s.gangCores w
  let ws := (ps.filterMap fun p => (s.core p).wg) ++ s.gangSaved w
  if ws.all (fun x => (mget [] x.cbars n).isEmpty) || !ws.all (fun x => x.allIn x.cbars n) then s
  else
    let s := ps.foldl (fun s p => s.cbarAt n p) s
    let over_ (x : Workgroup × Nat) : Workgroup × Nat := if x.1.sameGang w && clusterOf x.1.lcore == clusterOf w.lcore then (x.1.cbarOver n, x.2) else x
    { s with saved := s.saved.map fun u => { u with units := u.units.map over_ } }

/-- Enter an arrival whose release has been performed (R322, R323). -/
def State.barEnter (s : State) (p gi n : Nat) (cluster : Bool) : State :=
  if cluster then
    let s := s.modWg p fun w => { w with cbars := arriveIn w.cbars n gi }
    match (s.core p).wg with
    | some w => s.cbarCheck w n
    | none => s
  else (s.modWg p fun w => { w with bars := arriveIn w.bars n gi }).barCheck p n
/-- BAR and CBAR: the group is parked before it arrives, so that the completing arrival unparks it and its run goes on. -/
def barOp (c : Ctl) (i : Instr) (n : Nat) (cluster : Bool) (s : State) : Out1 :=
  groupIssue c i s fun e =>
    let k : Park := if cluster then .cbar n else .bar n
    let s := e.s.park e.p e.gi k
    let op : Op := { i, args := [n], act := e.act, id := (e.s.group e.p e.gi).nextOp }
    let s := if s.waitsAny e.p e.gi op then e.enter s c op else s.barEnter e.p e.gi n cluster
    .ok (s, (s.group e.p e.gi).park.isSome)
def execBar (c : Ctl) (n : Nat) (s : State) : Out1 := barOp c (.bar c n) n false s
def execCbar (c : Ctl) (n : Nat) (s : State) : Out1 := barOp c (.cbar c n) n true s
/-- The arrival of a BAR or CBAR whose participants' releases have been performed. -/
def State.countBar (s : State) (p gi : Nat) (o : Op) (cluster : Bool) : State :=
  if s.waitsAny p gi o then s
  else (s.modGroup p gi (·.dropOp o.id)).barEnter p gi (o.args.getD 0 0) cluster
/-- A group of a core has ended: what it is no longer awaited for completes (R322, R323). -/
def State.barDrop (s : State) (p : Nat) : State :=
  (List.range 16).foldl (fun s n =>
    let s := s.barCheck p n
    match (s.core p).wg with
    | some w => s.cbarCheck w n
    | none => s) s

/-! Message queues (R324 to R327). -/

/-- A queue header as it stands. -/
structure QHead where
  head : Nat
  tail : Nat
  ring : Nat
  logcap : Nat
  top : Nat
deriving DecidableEq, Repr
def State.qhead (s : State) (p off : Nat) : QHead :=
  let w := s.read (windowKey p off) 16
  { head := bits w 31 0, tail := bits w 63 32, ring := bits w 95 64, logcap := bits w 99 96, top := bits w 127 100 }
def QHead.cap (q : QHead) : Nat := 2 ^ q.logcap
/-- Messages in the queue. -/
def QHead.held (q : QHead) : Nat := (q.tail + 2 ^ 32 - q.head) % 2 ^ 32
/-- A malformed header (R324). -/
def State.qbad (s : State) (p off : Nat) (q : QHead) : Bool :=
  let c := s.core p
  q.top != 0 || q.ring % 8 != 0 || decide (carveBytes (c.wg.elim 0 (·.carve)) < q.ring + 8 * q.cap)
    || rangesMeet q.ring (8 * q.cap) off 16 || (c.mirrorHit off 16).isSome || (c.mirrorHit q.ring (8 * q.cap)).isSome
    || decide (q.cap < q.held)
/-- The place of an entry. -/
def QHead.entry (q : QHead) (p i : Nat) : Nat := windowKey p (q.ring + 8 * (i % 2 ^ 32 % q.cap))

/-- QSEND (R325): the message of each active lane is kept with the operation: home, offset, arrival number, messages. -/
def execQsend (c : Ctl) (o : BarOps) (s : State) : Out1 :=
  groupIssue c (.qsend c o) s fun e => do
    let (w, _, off) ← e.poolName o.cm o.base o.off
    let os := [(RdAs.w32, o.base), (RdAs.w64z, o.b)]
    let msgs := (e.read e.act os).map fun l => l.b.toNat
    let e := e.latched os
    e.post e.s c { i := .qsend c o, args := [w.lcore, off, 0] ++ msgs, mate := some (w.launch, w.wg) } []

/-- A send that has been discarded (R325): QUEUE_FORMAT is deferred, the token counts down. -/
def State.dropSend (s : State) (p gi : Nat) (o : Op) : State :=
  (s.deferTrap p gi o { cause := 0x1A, info := o.args.getD 1 0, addr := o.args.getD 1 0 }).complete p gi o
/-- Whether an earlier send waits at the same queue. -/
def State.earlierSend (s : State) (o : Op) : Bool := s.everyOp.any fun x =>
  (match x.i with | .qsend _ _ => true | _ => false) && x.stage == 1 && x.args.take 2 == o.args.take 2 && x.mate == o.mate
    && decide (x.args.getD 2 0 < o.args.getD 2 0)
/-- Whether a send meets a range lock on the queue's core: it reads the header, and writes TAIL and its entries (R218, R325). -/
def Core.sendLocked (c : Core) (ctx lc off tail n : Nat) (q : QHead) : Bool :=
  let hit (a len : Nat) (wr : Bool) : Bool := (c.lockHit ctx 1 a len wr (lc % 16)).isSome
  hit off 16 false || hit (off + 4) 4 true || (List.range n).any fun i => hit (q.ring + 8 * ((tail + i) % 2 ^ 32 % q.cap)) 8 true
/-- What an arrival at a queue does (R325); a send to a workgroup that is saved waits, one to a workgroup that has retired is discarded. -/
def State.sendNow (s : State) (p gi : Nat) (o : Op) : State :=
  let lc := o.args.getD 0 0
  let off := o.args.getD 1 0
  let h := s.phys lc
  let c := s.core h
  let msgs := o.args.drop 3
  let mate (w : Workgroup) : Bool := o.mate.all fun m => isMate lc m w
  if !c.wg.any mate then
    if s.saved.any fun u => u.units.any fun x => x.1.lcore == lc && mate x.1 then s else s.dropSend p gi o
  else
    let q := s.qhead h off
    if s.qbad h off q || decide (q.cap < msgs.length) then s.dropSend p gi o
    else if s.earlierSend o || decide (q.cap - q.held < msgs.length) || c.sendLocked o.ctx lc off q.tail msgs.length q then s
    else
      let s := (msgs.zipIdx).foldl (fun s m => s.write (q.entry h (q.tail + m.2)) 8 m.1) s
      (s.write (windowKey h (off + 4)) 4 ((q.tail + msgs.length) % 2 ^ 32)).complete p gi o
/-- QSEND_ARRIVAL (R325): a send whose releases are performed reaches the queue and takes its place there; it is written once it
is the first there and has room. -/
def State.countQsend (s : State) (p gi : Nat) (o : Op) : State :=
  if o.stage = 0 && s.waitsAny p gi o then s
  else
    let o := if o.stage = 0 then { o with stage := 1, args := o.args.set 2 s.draws } else o
    (s.modGroup p gi (·.setOp o)).sendNow p gi o

/-- The writes of a receive: the entries that its threads take (R326). -/
def State.entriesFor (s : State) (p : Nat) (o : Op) (d : Dst) : List RegWrite :=
  let q := s.qhead p (o.args.getD 0 0)
  dstWrites d 2 (o.act.zipIdx.map fun n => (n.1, BitVec.ofNat 64 (s.read (q.entry p (q.head + n.2)) 8)))
/-- The queue without the entries of a receive. -/
def State.taken (s : State) (p : Nat) (o : Op) : State :=
  let off := o.args.getD 0 0
  s.write (windowKey p off) 4 (((s.qhead p off).head + o.act.length) % 2 ^ 32)
/-- A waiting receiver takes its entries; its threads, which kept the QRECV's PC (R342), go on. -/
def State.takeEntries (s : State) (p gi : Nat) (o : Op) : State :=
  let ws := match o.i with | .qrecv _ d _ _ => s.entriesFor p o d | _ => []
  (s.taken p o).modGroup p gi fun g =>
    (g.setOp { o with stage := 1, writes := ws }).modThreads o.head fun t => { t with pc := nextPC o.pc }
/-- Whether a receive may take its entries now. -/
def State.recvReady (s : State) (p : Nat) (o : Op) : Bool :=
  let off := o.args.getD 0 0
  let earlier := (s.core p).allOps.any fun x => (match x.i with | .qrecv .. => true | _ => false)
    && x.stage == 0 && x.args.getD 0 0 == off && decide (x.args.getD 1 0 < o.args.getD 1 0)
  !earlier && decide (o.act.length ≤ (s.qhead p off).held)
/-- QRECV (R326): checks; the entries are taken at once where the queue holds them and no receiver waits before. -/
def execQrecv (c : Ctl) (dst : Dst) (base : Src) (off : Word) (s : State) : Out1 :=
  groupIssue c (.qrecv c dst base off) s fun e => do
    let (_, p, a) ← e.poolAddr false base off
    let e := e.latched [(.w32, base)]
    let q := e.s.qhead p a
    if e.s.qbad p a q || decide (q.cap < e.act.length) then throw (.trap { cause := 0x1A, info := a })
    let o : Op := { i := .qrecv c dst base off, args := [a, e.s.draws], act := e.act }
    if e.s.recvReady p o then
      e.post (e.s.taken p o) c { o with stage := 1, writes := e.s.entriesFor p o dst } (e.dsts dst 2)
    else
      let (s, _) ← e.post e.s c o (e.dsts dst 2)
      .ok ((s.modGroup e.p e.gi fun g => g.modThreads e.head fun t => { t with pc := e.pc }).park e.p e.gi
        (.qrecv (e.s.group e.p e.gi).nextOp), true)
/-- The turn of a waiting receiver, or the writes of one that has taken its entries; the acquire at .cl (R326, R203). -/
def State.countQrecv (s : State) (p gi : Nat) (o : Op) : State :=
  if o.stage = 1 then (s.acquire p gi o.act 2).landOp p gi o o.writes
  else if s.recvReady p o then
    (s.takeEntries p gi o).modGroup p gi fun g => if g.park = some (.qrecv o.id) then g.unpark else g
  else s
def execQsendArrival (core group op : Nat) (s : State) : Out1 :=
  let s := s.draw
  match (s.group core group).op? op with
  | some o => .next (match o.i with | .qsend _ _ => s.countQsend core group o | _ => s)
  | none => .next s

end Sys2Proof.Machine
end

