-- ==== Sys2Proof/Machine/Fetch.lean ====
section
/-! DEFINITION. What is decided before an
instruction is decoded: deferred traps, the fetch, and checks 1 to 4 of R35 (spec/02_instruction_word.md R30 to R37). -/

namespace Sys2Proof.Machine

/-- Whether the low w bits of a number hold an odd number of ones (R31). -/
def oddOnes (n w : Nat) : Bool := (List.range w).foldl (fun a i => a != n.testBit i) false
/-- Whether a line word fails check 2 of R35. -/
def lineBad (lw : Nat) : Bool := bits lw 16 0 != 0 || oddOnes lw 32
/-- The slot of a PC offset (R29). -/
def slotOf (pc : DWord) : Nat := pc.toNat % 64 / 12
/-- The line word's TGT bit of a slot (R30). -/
def lineTgt (lw slot : Nat) : Bool := bit lw (27 + slot)
/-- Whether a slot's word fails its parity (R31, check 4). -/
def slotBad (lw slot w : Nat) : Bool := oddOnes w 96 != bit lw (22 + slot)

/-- What reading a line as instructions answers (R308, R395, R396, R458). -/
inductive FetchLine where
  | word (key lw : Nat) | trap (t : Trap) | short (page size : Nat) | long
deriving Repr

/-- Fetch the line of an address for a context at a core. A line whose word fails is read again from the same bytes, so it
fails again (R35 check 2). `host` is a page for which the control node answered REFUSED (R395). -/
def State.fetchLine (s : State) (p ctx : Nat) (host : Option Nat) (a : Nat) : State × FetchLine :=
  let va := a / 64 * 64
  if 2 ^ 57 ≤ va then (s, .trap { cause := 0x10, reason := 2, addr := a })
  else
  let (s, r) := s.xlate p ctx va .fetch
  match r with
  | .hit k _ _ =>
    if !s.reaches (pdie p) k || s.leaseWaits k 64 false then (s, .short (a / 2 ^ 16 * 2 ^ 16) (2 ^ 16)) else
    match s.poisonAt k 64 with
    | some cls => (s.readUe k 64, .trap { cause := 0x17, info := cls, addr := a })
    | none => (s, .word k (s.read (k + 60) 4))
  | .refusedNow f | .missRefused f => (s, .trap { cause := f.cause, reason := f.reason, addr := a })
  | .short page size => (s.shortMiss ctx page size false, .short page size)
  | .long page =>
    if host = some page then (s, .trap { cause := 0x10, reason := 4, addr := a }) else (s.longMiss ctx a 2, .long)

/-- What the fetch stage decides: the word with the state after the fetch, or a state in which nothing issues. -/
inductive Fetched where
  | word (s : State) (w : IWord) | stop (s : State)
deriving Repr

/-- Whether the head set holds no thread of the last instruction's head set: the run is over (R290). -/
def Group.headGone (g : Group) (guest : Bool) : Bool :=
  g.run.any fun r => !r.head.isEmpty && !(g.headSet guest).any r.head.contains
/-- Everything before decode for the group in focus, whose head set is not empty (R35, R37). A run whose threads have all left the head set
meanwhile, in a sleep or while it was held, ends instead (R290). -/
def State.fetch (s : State) (p gi : Nat) : Fetched :=
  let g := s.group p gi
  let head := g.headSet (gi == guestIx)
  if g.headGone (gi == guestIx) then .stop (s.endRun p gi) else
  match g.thread? (head.headD 0) with
  | none => .stop s
  | some t =>
    let trap (s : State) (pc : DWord) (x : Trap) : Fetched := .stop (s.trapIn p gi head pc x)
    match g.trapDue, (if g.handler then [] else g.deferred) with
    | some (x, pc, H), _ =>
      .stop (if s.trapWaits p gi pc then s.trapIn p gi H pc x else (s.modGroup p gi fun g => { g with trapDue := none }).trapIn p gi H pc x)
    | none, d :: ds =>
      let s' := s.trapIn p gi head t.pc { d with defer := true }
      .stop (if (s'.group p gi).handler || gi == guestIx then s'.modGroup p gi fun g => { g with deferred := ds } else s')
    | none, [] =>
      let ctx := s.ctxAt p gi t.slot
      let (s, l) := s.fetchLine p ctx g.hostPage t.pc.toNat
      match l with
      | .trap x => trap s t.pc { x with xpc := (t.target.orElse fun _ => t.returned).elim 0 (·.toNat) }
      | .short page _ => .stop (s.holdIssue p gi (.page ctx page))
      | .long => .stop (s.parkFetch p gi (t.pc.toNat / 2 ^ 16 * 2 ^ 16))
      | .word k lw =>
        if !pcAligned t.pc then trap s t.pc { cause := 0x03, pc := t.target, addr := t.pc.toNat }
        else if lineBad lw then trap s t.pc { cause := 0x04 }
        else if t.target.isSome && !lineTgt lw (slotOf t.pc) then trap s t.pc { cause := 0x05, pc := t.target, addr := t.pc.toNat }
        else
          let w := s.read (k + 12 * slotOf t.pc) 12
          if slotBad lw (slotOf t.pc) w then trap s t.pc { cause := 0x06, info := slotOf t.pc }
          else .word s (BitVec.ofNat 96 w)

/-- An issued word that is no instruction (R35 check 5). -/
def State.illegalWord (s : State) (p gi : Nat) : State :=
  let g := s.group p gi
  let head := g.headSet (gi == guestIx)
  s.trapIn p gi head ((g.thread? (head.headD 0)).elim 0 (·.pc)) trapIllegal

end Sys2Proof.Machine
end

