-- ==== Sys2Proof/Machine/Engine.lean ====
section
/-! DEFINITION. Bulk copies, BROOM and weight preloads (spec/10_async_engines.md R262 to R272). A copy's segments land one by one;
which segment of which slice lands next is decided by the steps COPY_SEGMENT_LAND. -/

namespace Sys2Proof.Machine

/-! Ranges and locks (R266). -/

/-- A range of a tier: tier code, first address, bytes. -/
abbrev Range := Nat × Nat × Nat
/-- The smallest range of each tier that covers all of a list (R266). -/
def cover (rs : List Range) : List Range :=
  (List.range 4).filterMap fun t =>
    match rs.filter fun r => r.1 == t && r.2.2 != 0 with
    | [] => none
    | x :: xs =>
      let lo := xs.foldl (fun m r => min m r.2.1) x.2.1
      let hi := xs.foldl (fun m r => max m (r.2.1 + r.2.2)) (x.2.1 + x.2.2)
      some (t, lo, hi - lo)
/-- Whether an operation's ranges conflict with an entry of a core's table (R266). -/
def Core.lockConflict (c : Core) (ctx self : Nat) (srcs dsts : List Range) : Bool :=
  srcs.any (fun r => (c.lockHit ctx r.1 r.2.1 r.2.2 false self).isSome) || dsts.any fun r => (c.lockHit ctx r.1 r.2.1 r.2.2 true self).isSome
/-- The lowest free entry of the range-lock table (R218). -/
def Core.freeLock (c : Core) : Option Nat := (List.range 32).find? fun n => (mfind c.locks n).isNone

/-! Slices. -/

/-- Register i of a slice's block. -/
def Slice.word (x : Slice) (i : Nat) : Nat := (x.block.getD i 0).toNat
def Slice.copyOps (x : Slice) : CopyOps := match x.i with
  | .bcopy _ o | .bcopym _ o => o
  | _ => { scope := .grp, st := 0, dt := 0, dir := false, edge := false, bar := 0, dst := .none, block := .zero }
def Slice.boxed (x : Slice) : Bool := match x.i with | .bcopym _ _ => true | _ => false
/-- The barrier offset of a slice's block (R263). -/
def Slice.barOffset (x : Slice) : Nat := if x.boxed then x.word 3 else x.word 5
/-- Origin and extents of a box (R263, R265). -/
def Slice.org (x : Slice) (j : Nat) : Nat := x.word (4 + j / 2) / 2 ^ (16 * (j % 2)) % 2 ^ 16
def Slice.ext (x : Slice) (j : Nat) : Nat := x.word (6 + j / 2) / 2 ^ (16 * (j % 2)) % 2 ^ 16
def Slice.units (x : Slice) : Nat := x.ext 0 * x.ext 1 * x.ext 2 * x.ext 3
/-- An address of a tier in a slice's block: a 32-bit tier uses one register (R263). -/
def Slice.addr (x : Slice) (tier i : Nat) : Nat := if tier = 0 then x.word i + x.word (i + 1) % 2 ^ 32 * 2 ^ 32 else x.word i
/-- The unit index of a box coordinate, and whether it lies inside the record. -/
def Slice.unitAt (x : Slice) (u : Nat) : Nat × Nat × Nat × Nat :=
  (x.org 0 + u % x.ext 0, x.org 1 + u / x.ext 0 % x.ext 1, x.org 2 + u / (x.ext 0 * x.ext 1) % x.ext 2,
    x.org 3 + u / (x.ext 0 * x.ext 1 * x.ext 2))
/-- What part of a segment moves: from a range, or bytes that fill; to a range. -/
structure Piece where
  src : Option Range
  fill : List Byte := []
  dst : Range
deriving DecidableEq, Repr
/-- A unit's global address, or how its outside is treated: clamped for .edge; none for zero fill and skips (R265). -/
def Slice.unitSrc (x : Slice) (r : TRec) (u : Nat) : Option Nat :=
  let (a, b, c, d) := x.unitAt u
  if r.inside a b c d then some (r.at a b c d)
  else if x.copyOps.edge then some (r.at (min a (r.ext 0 - 1)) (min b (r.ext 1 - 1)) (min c (r.ext 2 - 1)) (min d (r.ext 3 - 1)))
  else none
/-- The pieces of a segment of a slice: bytes off to off + n of its own offsets (R264, R265). -/
def Slice.pieces (x : Slice) (off n : Nat) : List Piece :=
  let o := x.copyOps
  if !x.boxed then [{ src := some (o.st, x.src + off, n), dst := (o.dt, x.dst + off, n) }]
  else match x.rcd with
    | none => []
    | some w =>
      let r : TRec := ⟨w⟩
      let lo := off / r.unit
      let hi := (off + n + r.unit - 1) / r.unit
      (List.range (hi - lo)).filterMap fun i =>
        let u := lo + i
        let a := max off (u * r.unit)
        let b := min (off + n) ((u + 1) * r.unit)
        let loc : Range := (o.st, x.src + a, b - a)
        let inU := a - u * r.unit
        match x.unitSrc r u, o.dir with
        | some va, false => some { src := some (0, va + inU, b - a), dst := loc }
        | none, false => some { src := none, dst := loc
                                fill := (List.range (b - a)).map fun j => if inU + j = 0 && r.kind == 1 then 0x80 else 0 }
        | some va, true => some { src := some loc, dst := (0, va + inU, b - a) }
        | none, true => none
/-- The source and destination ranges of a slice for the range lock (R266). -/
def Slice.ranges (x : Slice) : List Range × List Range :=
  let o := x.copyOps
  if !x.boxed then ([(o.st, x.src, x.len)], [(o.dt, x.dst, x.len)])
  else match x.rcd with
    | none => ([], [])
    | some w =>
      let r : TRec := ⟨w⟩
      let loc : List Range := [(o.st, x.src, x.len)]
      let dim (j : Nat) : Option (Nat × Nat) :=
        let (a, b) := (x.org j, x.org j + x.ext j - 1)
        if o.edge then some (min a (r.ext j - 1), min b (r.ext j - 1))
        else if r.ext j ≤ a then none else some (a, min b (r.ext j - 1))
      let glob : List Range := match dim 0, dim 1, dim 2, dim 3 with
        | some a, some b, some c, some d =>
          let lo := r.at a.1 b.1 c.1 d.1
          [(0, lo, r.at a.2 b.2 c.2 d.2 + r.unit - lo)]
        | _, _, _, _ => []
      let glob := if x.units = 0 then [] else glob
      if o.dir then (loc, glob) else (glob, loc)

/-! Issue (R262 to R264). -/

/-- The copy number k of a workgroup. -/
def Workgroup.copy? (w : Workgroup) (k : Nat) : Option Copy := w.copies.find? (·.k == k)
/-- A copy of a core, by its number: the workgroup's own, or one of a retired workgroup. -/
def Core.copy? (c : Core) (k : Nat) : Option Copy :=
  match c.past.find? (·.k == k) with
  | some x => some x
  | none => c.wg.bind (·.copy? k)
def Core.setCopy (c : Core) (x : Copy) : Core :=
  let put (l : List Copy) : List Copy := l.map fun y => if y.k = x.k then x else y
  if c.past.any (·.k == x.k) then { c with past := put c.past } else { c with wg := c.wg.map fun w => { w with copies := put w.copies } }
def State.setCopy (s : State) (p : Nat) (x : Copy) : State := s.modCore p (·.setCopy x)

/-- The registers of a block, read from the lowest active lane (R263). -/
def Iss.regBlock (e : Iss) (a : Src) (n : Nat) : List Word :=
  match a with
  | .x r => (List.range n).map fun i => e.reg e.lowest (r + i) i
  | .s r => (List.range n).map fun i => e.reg e.lowest (0x80 + r + i) i
  | _ => []
/-- The holder of the barrier that a slice or preload names by kind and offset: its own workgroup, or a member of its gang (R263). -/
def Iss.barHolder (e : Iss) (kind off : Nat) : Option Home :=
  e.w.bind fun w => if kind = 2 then (e.s.gangMember w (barHome w.lcore kind off).1).map (·.1.home) else some w.home
/-- Whether that barrier is valid now, its holder placed or saved. -/
def Iss.barValid (e : Iss) (kind off : Nat) : Bool :=
  ((e.barHolder kind off).bind e.s.homeCore).any fun c => (mfind c.dir (barHome (e.w.elim 0 (·.lcore)) kind off).2).isSome
/-- The supply of a slice to its copy. -/
def State.supply (s : State) (p gi k : Nat) (home : Option Home) (fresh : Copy) (x : Slice) : State :=
  let sets (c : Copy) : Bool := !x.act.isEmpty && c.bar != 0
  let s := s.modGroup p gi fun g => { g with copyNo := k + 1 }
  s.modWg p fun w =>
    let w := if (w.copy? k).isSome then w else { w with copies := w.copies ++ [fresh] }
    { w with copies := w.copies.map fun c => if c.k = k then
        { c with slices := c.slices ++ [x], barOff := if sets c then some (c.barOff.getD x.barOffset) else c.barOff
                 home := if sets c then c.home.orElse fun _ => home else c.home } else c }

/-- Whether a range of a tier lies wholly in its window for a workgroup (R177 to R180, R264). -/
def State.rangeOk (s : State) (w : Workgroup) (r : Range) : Bool :=
  let (t, a, n) := r
  n == 0 || (match t with
    | 0 => decide (a + n ≤ 2 ^ 57)
    | 1 | 2 => (s.windowOf w (if t = 1 then .smem else .cmem) a n).isSome
    | _ => decide (a + n ≤ (s.ctx w.ctx).desc.dslimit * 2 ^ 16))
/-- The address of a BCOPYM slice's record. -/
def Slice.recordVa (x : Slice) : Nat := x.word 0 + x.word 1 * 2 ^ 32
/-- Whether a slice's record is still to be read. -/
def Slice.unread (x : Slice) : Bool := x.boxed && !x.act.isEmpty && x.rcd.isNone
/-- The length of a box whose record names no unit, or has not been read: its unit is free (log entry 87). -/
def State.freeLen (s : State) (x : Slice) : Nat :=
  x.units * [1, 2, 4, 8, 34, 26, 18].getD (Config.freeNat s.draws (site 32 x.group) % 7) 1
/-- What reading a slice's record comes to: the slice with its record, not yet, or an error code. -/
inductive RecRead where
  | read (x : Slice) | later | code (n : Nat) (x : Slice)
deriving DecidableEq, Repr
/-- Read a slice's record where it needs one, as a load of its core at .wg (R265); an uncorrectable error in it reads as poison, which is no
record (R455). A box that does not lie in its window any more ends the copy as a malformed record does (log entry 12). -/
def State.readRecord (s : State) (p : Nat) (w : Option Workgroup) (ctx : Nat) (host : List Nat) (x : Slice) : State × RecRead :=
  if !x.unread then (s, .read x)
  else match s.readVirt p ctx x.recordVa 64 with
    | (s, .ok bs none) =>
      let r : TRec := ⟨natOfBytes bs⟩
      let named := r.kind == 0 && decide (r.esize ≤ 3) || r.kind == 1 && decide (r.slotCode < 3)
      let x := { x with len := if named then x.units * r.unit else s.freeLen x }
      (s, if r.bad || w.any (fun w => !s.rangeOk w (x.copyOps.st, x.src, x.len)) then .code 6 x else .read { x with rcd := some r.w })
    | (s, .ok _ (some _)) => (s, .code 6 { x with len := s.freeLen x })
    | (t, .long page) => (s.missesOf t, if host.contains page then .code 4 { x with len := s.freeLen x } else .later)
    | (t, .wait _) => (s.missesOf t, .later)
    | (s, .refused _) => (s, .code 4 { x with len := s.freeLen x })
    | (s, .lost) => (s, .code 3 { x with len := s.freeLen x })
/-- Read the records of a copy's slices: those read, the error of the lowest group that met one, and whether all are read. -/
def State.readRecords (s : State) (p : Nat) (w : Option Workgroup) (ctx : Nat) (host : List Nat) : List Slice → State × List Slice × Option (Nat × Nat) × Bool
  | [] => (s, [], none, true)
  | x :: xs =>
    let (s, r) := s.readRecord p w ctx host x
    let (s, ys, err, all) := s.readRecords p w ctx host xs
    match r with
    | .read y => (s, y :: ys, err, all)
    | .later => (s, x :: ys, err, false)
    | .code c y => (s, y :: ys, (match err with | some (d, g) => if g < y.group then some (d, g) else some (c, y.group) | none => some (c, y.group)), all)

/-- Whether every group has supplied a copy or is withdrawn (R262). -/
def Workgroup.supplied (w : Workgroup) (k : Nat) : Bool := w.groups.all fun g => g.ended || decide (k < g.copyNo)
/-- Whether the release of a slice's participants is still to be performed (R217). -/
def State.releasing (s : State) (p : Nat) (c : Copy) : Bool := c.slices.any fun x =>
  let gi := if c.k < 2 ^ 32 then x.group else orphanIx
  (s.group p gi).ops.any fun o => o.i == x.i && o.pc == x.pc && o.args == [c.k] && s.waitsAny p gi o
/-- Whether a destination lies outside the core of the copy (R467). -/
def Slice.outside (x : Slice) (lcore : Nat) : Bool :=
  x.ranges.2.any fun r => r.2.2 != 0 && !(r.1 == 1 || (r.1 == 2 && r.2.1 / 2 ^ 22 == lcore % 16))
/-- Start a copy if everything it waits for has come (R262, R265, R266): its records are read, its ranges are registered. A copy
of a retired workgroup has every slice. A box whose record has not been read when the copy ends is as long as one of some unit. -/
def State.startCopy (s : State) (p k : Nat) : State :=
  match (s.core p).copy? k with
  | none => s
  | some c =>
    let past := decide (2 ^ 32 ≤ c.k)
    let w := if past then none else (s.core p).wg
    if c.started || !(past || w.any (·.supplied k)) then s
    else
      if c.slices.any (·.unread) && s.releasing p c then s
      else
        let (s, xs, err, all) := s.readRecords p w c.ctx c.host c.slices
        let c := { c with slices := xs }
        match err with
        | some (code, g) =>
          let fill (x : Slice) : Slice := if x.unread && x.len == 0 then { x with len := s.freeLen x } else x
          s.setCopy p { c with started := true, code, errGroup := g, slices := xs.map fill }
        | none =>
          let live := xs.filter fun x => !x.act.isEmpty
          let srcs := cover (live.flatMap fun x => x.ranges.1)
          let dsts := cover (live.flatMap fun x => x.ranges.2)
          let core := s.core p
          let out := w.any (·.tandem.isSome) && live.any (·.outside c.lcore)
          let pc := (xs.head?.map (·.pc)).getD 0
          if !all || core.lockConflict c.ctx (c.lcore % 16) srcs dsts then s.setCopy p c
          else if out && !core.passed 0x1000 pc then
            (s.setCopy p c).reachCommit p 0x1000 pc (k :: xs.flatMap fun x => x.group :: x.block.map (·.toNat))
          else match core.freeLock with
            | none => s.setCopy p c
            | some n =>
              let s := if out then s.leaveCommit p else s
              let shadow := out && w.any (·.tandem.any (·.1))
              (s.setCopy p { c with started := true, shadow }).modCore p fun x =>
                { x with locks := minsert x.locks n { opc := if c.bcopym then 0xA1 else 0xA0, k, srcs, dsts, ctx := c.ctx } }
/-- Start whatever waits on a core, oldest first. -/
def State.startCopies (s : State) (p : Nat) : State :=
  let c := s.core p
  ((c.past ++ c.wg.elim [] (·.copies)).filter (!·.started)).foldl (fun s c => s.startCopy p c.k) s

/-- The unit of the record that a BCOPYM slice names, as a load at .wg reads it at the issue (R265): none where the copy is to end at its record; a
miss is taken here, since the box cannot be judged before. -/
def Iss.boxUnit (e : Iss) (w : Workgroup) (va : Nat) : Except Stop (Option Nat) :=
  if va % 64 != 0 then .ok none else
  match (e.s.walkerXlate (clusterOf w.lcore) w.ctx va .read).2 with
  | .hit k _ _ =>
    if e.s.flagged.contains (k / 2 ^ 16) then .ok none
    else if !e.s.reaches (pdie e.p) k || e.s.leaseWaits k 64 false then .error (.hold (.read k))
    else
      let r : TRec := ⟨natOfBytes ((e.s.core e.p).l1Stores.foldl (fun bs x => overlay k bs x.2.1 x.2.2.1 x.2.2.2) (memTake e.s.mem k 64))⟩
      .ok (if r.bad || (e.s.poisonAt k 64).isSome then none else some r.unit)
  | .refusedNow _ | .missRefused _ => .ok none
  | .short page size => .error (.shortMiss page size)
  | .long page => if e.g.hostPage == some page then .ok none else .error (.longMiss va 3)
/-- BCOPY and BCOPYM (R262 to R264). -/
def copyIssue (c : Ctl) (i : Instr) (o : CopyOps) (boxed : Bool) (s : State) : Out1 :=
  issue c i 1 s fun e => do
    let k := e.g.copyNo
    let cur := e.w.bind (·.copy? k)
    let block := if e.act.isEmpty then [] else e.regBlock o.block (if boxed then 8 else 6)
    let w := e.w.getD { ctx := 0, launch := 0, threads := 0, regs := 0 }
    let x : Slice := { group := e.gi, i, tok := if e.act.isEmpty then none else some c.t, pc := e.pc, act := e.act, block }
    let x := if boxed then { x with src := x.word 2 } else { x with src := x.addr o.st 0, dst := x.addr o.dt 2, len := x.word 4 }
    let x := { x with gone := !e.act.isEmpty && o.bar != 0 && (!e.barValid o.bar x.barOffset || cur.any (·.detached)) }
    match cur with
    | some y =>
      if y.bcopym != boxed || y.scope != o.scope || y.bar != o.bar then throw (.trap trapIllegal)
      if !e.act.isEmpty && o.bar != 0 && y.barOff.any (· != x.barOffset) then throw (.trap trapIllegal)
    | none => pure ()
    if !e.act.isEmpty then
      let at_ (a : Nat) (t : Trap) : Stop := laneTrap e [] { slot := e.lowest, a } t
      let outside (rs : List Range) : Option Nat := (rs.find? fun r => !e.s.rangeOk w r).map (·.2.1)
      let barOut := o.bar != 0 && (e.w.all fun w => (e.s.windowOf w (if o.bar = 1 then .smem else .cmem) x.barOffset 16).isNone)
      let known : List Range := if boxed then [(0, x.recordVa, 64), (o.st, x.src, x.units)] else [(o.st, x.src, x.len), (o.dt, x.dst, x.len)]
      match (outside known).orElse fun _ => if barOut then some x.barOffset else none with
      | some a => throw (at_ a { cause := 0x0C })
      | none => pure ()
      let unit ← if boxed then e.boxUnit w x.recordVa else pure none
      match outside [(o.st, x.src, x.units * unit.getD 0)] with
      | some a => throw (at_ a { cause := 0x0C })
      | none => pure ()
      let odd := if boxed then (if x.recordVa % 64 != 0 then some x.recordVa else if x.src % 16 != 0 then some x.src else none)
        else if x.src % 16 != 0 || x.len % 16 != 0 then some x.src else if x.dst % 16 != 0 then some x.dst else none
      match odd.orElse fun _ => if o.bar != 0 && x.barOffset % 16 != 0 then some x.barOffset else none with
      | some a => throw (at_ a trapMisaligned)
      | none => pure ()
    if cur.isNone && decide (8 ≤ (w.copies.filter fun y => !y.started && !y.slices.isEmpty).length) then throw (.hold .copies)
    let (s, _) ← e.post e.s c { i, args := [k] } (e.dsts o.dst 2)
    let fresh : Copy := { k, no := e.s.draws, bcopym := boxed, scope := o.scope, bar := o.bar, ctx := w.ctx, lcore := w.lcore, launch := w.launch, wg := w.wg, base := w.wg - w.gang }
    .ok ((s.supply e.p e.gi k (e.barHolder o.bar x.barOffset) fresh x).startCopy e.p k, false)
def execBcopy (c : Ctl) (o : CopyOps) (s : State) : Out1 := copyIssue c (.bcopy c o) o false s
def execBcopym (c : Ctl) (o : CopyOps) (s : State) : Out1 := copyIssue c (.bcopym c o) o true s

/-! Segments (R264, R267, R268). -/

/-- Why a segment is not performed: an error code; a miss; something else comes first; its place is gone for good. -/
inductive SegStop where
  | code (c : Nat) | miss | wait | void
deriving DecidableEq, Repr
/-- The more telling of two outcomes: the first applicable code, then a wait, then a miss. -/
def SegStop.worse : SegStop → SegStop → SegStop
  | .code a, .code b => .code (min a b)
  | .code a, _ => .code a
  | _, .code b => .code b
  | .wait, _ => .wait
  | _, .wait => .wait
  | .miss, _ => .miss
  | _, .miss => .miss
  | .void, .void => .void

/-- The places of a global range: place, length and leaf of each part. -/
def State.engGlobal (s : State) (cl ctx : Nat) (host : List Nat) (wr : Bool) : List (Nat × Nat) → State × Except SegStop (List (Nat × Nat × Nat))
  | [] => (s, .ok [])
  | (va, n) :: ps =>
    let (s, x) := s.walkerXlate cl ctx va (if wr then .write else .read)
    let (s, r) : State × Except SegStop (Nat × Nat × Nat) := match x with
      | .hit k leaf _ =>
        if wr && s.sealedAt ctx va n then (s, .error (.code 2))
        else if s.flagged.contains (k / 2 ^ 16) then (s, .error (.code 3))
        else if !s.reaches (cl / 8) k || s.leaseWaits k n wr then (s, .error .wait)
        else (s, .ok (k, n, leaf))
      | .refusedNow _ | .missRefused _ => (s, .error (.code 4))
      | .short page size => (s.shortMiss ctx page size wr, .error .miss)
      | .long page =>
        if host.contains page then (s, .error (.code 4)) else (s.longMiss ctx va (if wr then 4 else 3), .error .miss)
    let (s, rs) := s.engGlobal cl ctx host wr ps
    (s, match r, rs with
      | .ok a, .ok as => .ok (a :: as)
      | .error a, .error b => .error (a.worse b)
      | .error a, _ => .error a
      | _, .error b => .error b)
/-- Whether a workgroup belongs to the gang of a copy's workgroup (R17, R179). -/
def Copy.mate (c : Copy) (w : Workgroup) : Bool := w.ctx == c.ctx && w.launch == c.launch && w.wg - w.gang == c.base
/-- Whether a member of a copy's gang, on a logical core, is saved. -/
def State.mateSaved (s : State) (c : Copy) (lc : Nat) : Bool := s.saved.any fun u => u.units.any fun x => x.1.lcore == lc && c.mate x.1
/-- The places of a range of a copy of core p. -/
def State.engRange (s : State) (p : Nat) (c : Copy) (wr : Bool) (r : Range) : State × Except SegStop (List (Nat × Nat × Nat)) :=
  let (t, a, n) := r
  let window (q off : Nat) : Except SegStop (List (Nat × Nat × Nat)) :=
    let core := s.core q
    let busy := (subsOf off n).any fun sub => match core.arr.window sub with
      | .ordinary => false
      | .free => Config.freeBool s.draws (site 0 sub)
      | .busy => true
    if 2 ^ 22 < off + n then .error .void
    else if busy then .error (.code 1)
    else if wr && (core.mirrorHit off n).isSome then .error (.code 5)
    else if q != p && (core.lockHit c.ctx 1 off n wr (s.logical q % 16)).isSome then .error .wait
    else .ok [(windowKey q off, n, 0)]
  match t with
  | 0 => s.engGlobal (clusterOf c.lcore) c.ctx c.host wr (pagePieces a n)
  | 1 => (s, window p a)
  | 2 =>
    let lc := clusterOf c.lcore * 16 + a / 2 ^ 22
    let q := s.phys lc
    if q = p || (s.core q).wg.any c.mate then (s, window q (a % 2 ^ 22)) else (s, .error (if s.mateSaved c lc then .wait else .void))
  | _ =>
    let d := (s.ctx c.ctx).desc
    (s, if a + n ≤ d.dslimit * 2 ^ 16 then .ok [(dieKey (dieOf c.lcore) (d.dsbase * 2 ^ 16 + a), n, 0)] else .error .void)

/-- The bytes of a range of places as a copy reads them, each with its poison class (R217, R267). -/
def State.engRead (s : State) (r : Nat × Nat × Nat) : List (Byte × Option Nat) :=
  let (k, n, _) := r
  (memTake s.mem k n).mapIdx fun i b => match s.poisonAt (k + i) 1 with
    | some c => (BitVec.ofNat 8 ((poisonWord c).toNat / 256 ^ ((k + i) % 4)), some c)
    | none => (b, none)
/-- Write bytes to a range of places for a copy at a scope level (R217, R452, R455); what is homed behind a lost structure takes no store
(R463). -/
def State.engWrite (s : State) (p ctx level : Nat) (r : Nat × Nat × Nat) (bs : List (Byte × Option Nat)) : State :=
  let (k, n, leaf) := r
  let glob := leaf != 0
  let s := if glob then s.transfer p ctx leaf k n true else s
  if s.lostAt k then s else
  let data : List Byte := bs.map Prod.fst
  let s := { s with mem := memPut s.mem k data }
  let s := if glob then s.refreshOwn p k n else s
  let s := if glob && decide (5 ≤ level) then (linesOf k n).foldl State.leaseBack s else s
  (bs.zipIdx).foldl (fun s b => match b.1.2 with | some c => s.enterPoison (k + b.2) c | none => s) s
/-- Distribute bytes over ranges of places. -/
def State.engWrites (s : State) (p ctx level : Nat) : List (Nat × Nat × Nat) → List (Byte × Option Nat) → State
  | [], _ => s
  | r :: rs, bs => (s.engWrite p ctx level r (bs.take r.2.1)).engWrites p ctx level rs (bs.drop r.2.1)

/-- A piece resolved: where its bytes come from and go to. -/
structure Ready where
  src : List (Nat × Nat × Nat)
  fill : List Byte
  dst : List (Nat × Nat × Nat)
deriving DecidableEq, Repr
/-- Resolve the pieces of a segment. -/
def State.resolve (s : State) (p : Nat) (c : Copy) : List Piece → State × Except SegStop (List Ready)
  | [] => (s, .ok [])
  | x :: xs =>
    let (s, a) : State × Except SegStop (List (Nat × Nat × Nat)) := match x.src with
      | some r => s.engRange p c false r
      | none => (s, .ok [])
    let (s, b) := s.engRange p c true x.dst
    let (s, rs) := s.resolve p c xs
    let stop (e : SegStop) : Except SegStop (List Ready) := .error (match rs with | .error f => e.worse f | .ok _ => e)
    (s, match a, b with
      | .ok a, .ok b => rs.map fun rs => ⟨a, x.fill, b⟩ :: rs
      | .error e, .error f => stop (e.worse f)
      | .error e, _ => stop e
      | _, .error f => stop f)

/-- Byte completions of a copy or preload, at a scope level, on its barrier, where the workgroup that holds it is placed (R255, R267). -/
def State.landBytes (s : State) (c : Copy) (n : Nat) (err : Bool) : State :=
  match c.home, c.barOff with
  | some h, some off =>
    let p := s.phys h.lc
    if c.bar = 0 || !s.homeHere h then s
    else match mfind (s.core p).dir (c.barAt off) with
    | none => s
    | some b => s.putBarrier p (c.barAt off) { (b.from_ (decide (2 ≤ c.scope.level) || h.lc != c.lcore)).land n with err := b.err || err }
  | _, _ => s
/-- Whether the barrier of a copy is with a workgroup that is saved: its bytes cannot land now (R395). -/
def State.barSaved (s : State) (c : Copy) : Bool :=
  c.bar != 0 && c.home.any fun h => !s.homeHere h && (s.homeCore h).isSome

/-- Segments of a slice. -/
def Slice.segs (x : Slice) : Nat := (x.len + 127) / 128
def Slice.segLen (x : Slice) (j : Nat) : Nat := min 128 (x.len - 128 * j)
/-- The first segment that is neither written nor in the fix-up list (R441 HIGH). -/
def Copy.high (c : Copy) (x : Slice) : Nat :=
  ((List.range x.segs).find? fun j => !x.written.contains j && !c.fix.contains (x.group, j)).getD x.segs
/-- A copy's slice changed. -/
def Copy.setSlice (c : Copy) (x : Slice) : Copy := { c with slices := c.slices.map fun y => if y.group = x.group then x else y }
/-- The walk-ahead of a box's record from the unit at an offset of the slice, where it lies in the record (R186). -/
def State.boxAhead (s : State) (c : Copy) (x : Slice) (off : Nat) : State :=
  match x.rcd with
  | none => s
  | some w =>
    let r : TRec := ⟨w⟩
    let (i0, i1, i2, i3) := x.unitAt (off / r.unit)
    if r.inside i0 i1 i2 i3 then s.walkBeyond (clusterOf c.lcore) c.ctx r (i0 + r.ext 0 * (i1 + r.ext 1 * (i2 + r.ext 2 * i3))) else s
/-- The granules that some ranges of places cover whole. -/
def wholeGranules (rs : List (Nat × Nat)) : List Nat :=
  ((rs.flatMap fun r => columnsOf r.1 r.2).eraseDups).filter fun g => (List.range 32).all fun i => rs.any fun r => r.1 ≤ 32 * g + i && decide (32 * g + i < r.1 + r.2)
/-- The 8-byte units of a segment that are still to be written (R217). -/
def Slice.part (x : Slice) (j : Nat) : SegPart := (x.parts.find? (·.seg == j)).getD { seg := j }
def Slice.unitsLeft (x : Slice) (j : Nat) : List Nat := (List.range ((x.segLen j + 7) / 8)).filter (!(x.part j).units.contains ·)
/-- The pieces of one unit of a segment, with the unit. -/
def Slice.unitPieces (x : Slice) (j u : Nat) : List (Nat × Piece) := (x.pieces (128 * j + 8 * u) (min 8 (x.segLen j - 8 * u))).map fun y => (u, y)
/-- A segment is over: its bytes land on the barrier (R267). -/
def State.segmentOver (s : State) (p : Nat) (c : Copy) (x : Slice) (j : Nat) : State :=
  let n := x.segLen j
  let x := { x with written := x.written ++ [j], parts := x.parts.filter (·.seg != j), landed := x.landed + n }
  let s := s.setCopy p { c.setSlice x with fix := c.fix.filter (· != (x.group, j)) }
  if x.gone then s else s.landBytes c n false
/-- Units of a segment have been written: the last of them clear the poison of the granules that the segment covers whole, but for those that
it made poison (R267, R452). -/
def State.unitsWritten (s : State) (p : Nat) (c : Copy) (x : Slice) (j : Nat) (q : SegPart) (m : Nat) : State :=
  let x := { x with done := x.done + m, parts := x.parts.filter (·.seg != j) ++ [q] }
  if !(x.unitsLeft j).isEmpty then s.setCopy p (c.setSlice x)
  else
    let s := { s with poison := s.poison.filter fun e => !(wholeGranules q.places).contains e.1 }
    (q.bad.foldl (fun s b => s.enterPoison b.1 b.2) s).segmentOver p c x j
/-- The places that data of ready pieces made poison. -/
def poisoned (y : Ready × List (Byte × Option Nat)) : List (Nat × Nat) :=
  ((y.1.dst.flatMap fun r => (List.range r.2.1).map (r.1 + ·)).zip y.2).filterMap fun b => b.2.2.map fun c => (b.1, c)
/-- Move units of a segment, some of those left by a free choice, or say why none can (R217, R264, R267, R268). Stores that the core's L1 still
holds of their bytes go home first. -/
def State.segment (s : State) (p : Nat) (c : Copy) (x : Slice) (j : Nat) : State × Option SegStop :=
  let s := if x.boxed then s.boxAhead c x (128 * j) else s
  let us := x.unitsLeft j
  let ps := us.flatMap (x.unitPieces j)
  match s.resolve p c (ps.map (·.2)) with
  | (s, .error .void) => (s.segmentOver p c x j, none)
  | (s, .error e) => (s, some e)
  | (s, .ok rs) =>
    let some_ := freeSome s.draws (site 1 0) us
    let go := if some_.isEmpty then us else some_
    let rs := ((ps.zip rs).filter fun y => go.contains y.1.1).map (·.2)
    let w : Writer := .segment p c.k x.group j
    let places := rs.flatMap fun y => (y.src ++ y.dst).filter (·.2.2 != 0)
    let must := (rs.flatMap (·.dst)).filter fun k => k.2.2 != 0 && s.mustStall k.2.2 k.1 w
    if !must.isEmpty then (must.foldl (fun s k => s.stall k.1 w) s, some .wait)
    else match s.flushAt p (places.map fun k => (k.1, k.2.1)) with
    | none => (s, some .wait)
    | some s =>
      let s := s.unstall w
      let data : List (List (Byte × Option Nat)) := rs.map fun y => if y.src.isEmpty then y.fill.map (fun b => ((b, none) : Byte × Option Nat)) else y.src.flatMap s.engRead
      let s := rs.foldl (fun s y => y.src.foldl (fun s k => if k.2.2 = 0 then s.readUe k.1 k.2.1 else s.transfer p c.ctx k.2.2 k.1 k.2.1 false) s) s
      let s := (rs.zip data).foldl (fun s y => s.engWrites p c.ctx c.scope.level y.1.dst y.2) s
      let q := x.part j
      (s.unitsWritten p { c with poison := c.poison.orElse fun _ => data.findSome? fun d => d.findSome? (·.2) } x j
        { q with units := q.units ++ go, places := q.places ++ rs.flatMap (fun y => y.dst.map fun k => (k.1, k.2.1)), bad := q.bad ++ (rs.zip data).flatMap poisoned }
        (rs.foldl (fun m y => y.dst.foldl (fun m k => m + k.2.1) m) 0), none)

/-- A copy by its number with the slice of a group. -/
def State.sliceAt (s : State) (p k gi : Nat) : Option (Copy × Slice) :=
  ((s.core p).copy? k).bind fun c => (c.slices.find? (·.group == gi)).map fun x => (c, x)
/-- Whether a segment may be tried: the copy has started and met no error, its participants' releases are performed, and the
segment lies in the window of 32 (R217, R267, R441). -/
def State.mayLand (s : State) (p : Nat) (c : Copy) (x : Slice) (j : Nat) : Bool :=
  c.started && !c.shadow && c.code == 0 && !x.act.isEmpty && decide (j < x.segs) && !x.written.contains j
    && !s.releasing p c && !s.barSaved c
/-- COPY_SEGMENT_LAND: a segment is written, enters the fix-up list on a miss, or ends the copy's issue with an error. -/
def execCopySegmentLand (core copy slice seg : Nat) (s : State) : Out1 :=
  let s := (s.draw).startCopy core copy
  match s.sliceAt core copy slice with
  | none => .next s
  | some (c, x) =>
    if !s.mayLand core c x seg || c.fix.contains (slice, seg) || decide (c.high x + 32 ≤ seg) || decide (64 ≤ c.fix.length) then .next s
    else match (s.publish c.scope.level).segment core c x seg with
      | (s, none) | (s, some .wait) | (s, some .void) => .next s
      | (s, some .miss) => .next (s.setCopy core { c with fix := c.fix ++ [(slice, seg)] })
      | (s, some (.code n)) => .next (s.setCopy core { c with code := n, errGroup := slice })
/-- FIXUP_REPLAY (R268): the oldest entry is tried again. -/
def execFixupReplay (core copy : Nat) (s : State) : Out1 :=
  let s := s.draw
  match (s.core core).copy? copy with
  | none => .next s
  | some c => match c.fix with
    | [] => .next s
    | (gi, j) :: _ => match c.slices.find? (·.group == gi) with
      | none => .next s
      | some x =>
        if !s.mayLand core c x j then .next s
        else match (s.publish c.scope.level).segment core c x j with
          | (s, some (.code n)) => .next (s.setCopy core { c with code := n, errGroup := gi, fix := [] })
          | (s, none) => .next (match (s.core core).copy? copy with | some c => s.setCopy core { c with fixup := true } | none => s)
          | (s, _) => .next s

/-- The first status word of a slice (R269). -/
def statusWord (code : Nat) (gone poison fixup : Bool) (errSlice : Nat) : Nat :=
  2 ^ 31 * b2n (code != 0) + 2 ^ 27 * code + 2 ^ 26 * b2n gone + 2 ^ 25 * b2n poison + 2 ^ 24 * b2n fixup
    + (if code = 0 then 0 else 2 ^ 8 * errSlice)
def Copy.status (c : Copy) (x : Slice) : Nat := statusWord c.code x.gone c.poison.isSome c.fixup c.errGroup + 2 ^ 32 * x.done
/-- The operation of a slice. -/
def State.sliceOp (s : State) (p : Nat) (c : Copy) (x : Slice) : Option (Nat × Op) :=
  let at_ (gi : Nat) : Option (Nat × Op) := ((s.group p gi).ops.find? fun o => o.i == x.i && o.pc == x.pc && o.args == [c.k]).map fun o => (gi, o)
  if c.k < 2 ^ 32 then at_ x.group else at_ orphanIx
/-- The end of a copy at a core (R267, R269): the bytes left are landed, the status pairs written, the lock released; it is an acquire of its
participants (R217). What a shadow ends with is reported by its twin (R477). -/
def State.finishCopy (s : State) (p : Nat) (c : Copy) : State :=
  let s := c.slices.foldl (fun s x =>
    if x.gone || x.act.isEmpty then s
    else if x.len = x.landed && c.code = 0 then s else s.landBytes c (x.len - x.landed) (c.code != 0)) s
  let s := c.slices.foldl (fun s x => if x.act.isEmpty then s else
    match s.sliceOp p c x with
    | none => s
    | some (gi, o) =>
      let ended := gi == orphanIx || (s.group p gi).ended
      let s := (s.acquire p gi o.act c.scope.level).landOp p gi o (dstWrites x.copyOps.dst 2 (o.act.map fun n => (n, BitVec.ofNat 64 (c.status x))))
      if ended && !c.shadow && (c.code != 0 || c.poison.isSome) then s.asyncFault c.ctx 1 (c.poison.getD 0) c.launch c.wg x.pc.toNat (c.status x) else s) s
  (s.modCore p fun y =>
    { y with past := y.past.filter (·.k != c.k), locks := y.locks.filter fun l => !(l.2.opc != 0xAB && l.2.k == c.k)
             wg := y.wg.map fun w => { w with copies := w.copies.filter (·.k != c.k) } }).startCopies p
/-- Whether a copy has nothing left to do. -/
def Copy.over (c : Copy) : Bool := c.started && !c.shadow
  && (c.code != 0 || (c.fix.isEmpty && c.slices.all fun x => x.act.isEmpty || decide (x.segs ≤ x.written.length)))
/-- COPY_END: in tandem the twin's copy ends with the same status (R467). -/
def execCopyEnd (core copy : Nat) (s : State) : Out1 :=
  let s := s.draw
  match (s.core core).copy? copy with
  | none => .next s
  | some c =>
    if !c.over || s.barSaved c then .next s
    else
      let w := (s.core core).wg
      let s := s.finishCopy core c
      match w.bind (·.tandem) with
      | some (false, other) =>
        let q := s.phys other
        match (s.core q).copy? copy with
        | some d => if d.shadow then
            .next (s.finishCopy q { d with code := c.code, errGroup := c.errGroup, poison := c.poison, fixup := c.fixup
                                           slices := d.slices.map fun x => match c.slices.find? (·.group == x.group) with
                                             | some y => { x with done := y.done, len := y.len, rcd := y.rcd }
                                             | none => x })
          else .next s
        | none => .next s
      | _ => .next s

/-! BROOM (R271, R219). -/

/-- What a BROOM waits for: the operations that are outstanding on the core for the context, and the copies that have started, by the numbers
that they keep wherever they go (R219, R271). -/
def State.broomList (s : State) (p ctx : Nat) : List Nat :=
  let c := s.core p
  let ops (gi : Nat) : List Nat := ((c.group gi).ops.filter fun o => o.ctx == ctx && ((o.i.accKind.getD {}).writes || (match o.i with
    | .nmar .. | .bdot .. | .gred .. => true
    | _ => false))).map fun o => 2 * o.issued
  (List.range (orphanIx + 1)).flatMap ops ++ ((c.past ++ c.wg.elim [] (·.copies)).filter fun x => x.started && x.ctx == ctx).map fun x => 2 * x.no + 1
def execBroom (c : Ctl) (s : State) : Out1 :=
  groupIssue c (.broom c) s fun e => e.post e.s c { i := .broom c, args := e.s.broomList e.p e.ctx } []
/-- Whether something that a BROOM waits for is not performed: it may be with a saved workgroup, on another core, or travelling. -/
def State.broomWaits (s : State) (o : Op) : Bool :=
  let ops := s.everyOp ++ s.panniers.filterMap (·.2.acc)
  let copies := s.cores.flatMap fun e => e.2.past ++ e.2.wg.elim [] (·.copies)
  o.args.any fun n => if n % 2 = 0 then ops.any (·.issued == n / 2) else copies.any (·.no == n / 2)
/-- BROOM_PROBE_RETURN. -/
def execBroomProbeReturn (core group op : Nat) (s : State) : Out1 :=
  let s := s.draw
  match (s.group core group).op? op with
  | some o => match o.i with
    | .broom _ => .next (if s.broomWaits o then s else s.complete core group o)
    | _ => .next s
  | none => .next s

/-! Weight preload (R272). -/

/-- The source ranges of a preload, as far as its record is read (R266). -/
def preSources (va k0 n0 : Nat) (rcd : Option Nat) : List Range :=
  cover ((0, va, 64) :: rcd.elim [] fun v => (TRec.tileRanges ⟨v⟩ k0 n0).map fun r => (0, r.1, r.2))
/-- How a preload's record that cannot be had ends it: the copy code, with the class of an uncorrectable error (R272; the operation keeps them as
its stage and error). -/
def TileRead.recordEnd : TileRead → Option (Nat × Option Nat)
  | .fault (.ue c) _ _ => some (6, some c)
  | .fault _ code _ => some (code, none)
  | _ => none
/-- Read the record of a preload at its issue: its value, or the code that the preload is to end with. A miss holds the issue, so that the source
is registered whole; the group is not parked (R266, R272; log entry 85). -/
def Iss.preRecord (e : Iss) (o : Op) (va : Nat) : Except Stop (State × (Nat ⊕ (Nat × Option Nat))) :=
  match e.s.readRcd e.p e.gi { o with id := (e.s.group e.p e.gi).nextOp, act := e.act } e.ctx va with
  | (t, .ok v) => .ok (t, .inl v)
  | (_, .error (.wait none _)) => .error (.hold (.read va))
  | (_, .error (.wait (some page) true)) => if e.g.hostPage == some page then .ok (e.s, .inr (4, none)) else .error (.longHold va 3)
  | (t, .error (.wait (some page) false)) =>
    .error (.shortMiss page (((t.misses.find? fun m => m.2.ctx == e.ctx && m.2.page == page).map (·.2.size)).getD (2 ^ 16)))
  | (t, .error r) => .ok (t, .inr (r.recordEnd.getD (4, none)))
/-- WPRE (R272): its operation keeps what Op.preBar lists; its source is registered at the issue. A barrier offset that is not a multiple of 16
or lies outside the window names no valid barrier, so the preload runs with GONE (log entry 110). -/
def execWpre (c : Ctl) (o : TileOps) (s : State) : Out1 :=
  arrayIssue c (.wpre c o) s fun e => do
    e.tileChecks o
    let b := (e.regBlock o.addr 4).map (·.toNat)
    let va : Nat := b.getD 0 0 + b.getD 1 0 * 2 ^ 32
    let (k0, n0) := (b.getD 2 0 % 2 ^ 16, b.getD 2 0 / 2 ^ 16 % 2 ^ 16)
    let off := b.getD 3 0
    let w := e.w.getD { ctx := 0, launch := 0, threads := 0, regs := 0 }
    if 2 ^ 57 < va + 64 then throw (laneTrap e [] { slot := e.lowest, a := va } { cause := 0x0C })
    if va % 64 != 0 then throw (laneTrap e [] { slot := e.lowest, a := va } trapMisaligned)
    let gone := o.bar != 0 && (off % 16 != 0 || !e.barValid o.bar off)
    let op : Op := { i := .wpre c o, args := [va, k0, n0, off, b2n gone, 0, 0, 0], mate := (e.barHolder o.bar off).map fun h => (h.launch, h.wg) }
    let (s, rcd) ← e.preRecord op va
    let srcs := preSources va k0 n0 (match rcd with | .inl v => some v | .inr _ => none)
    let core := s.core e.p
    e.room [o.q] false
    match (if core.lockConflict w.ctx (w.lcore % 16) srcs [] then none else core.freeLock) with
    | none => throw (.hold (.lock srcs))
    | some n =>
      let s := s.modCore e.p fun x => { x with locks := minsert x.locks n { opc := 0xAB, k := 0, srcs, dsts := [], ctx := w.ctx } }
      let op := { op with args := op.args.set 5 (n + 32 * e.gi) }
      let op : Op := match rcd with
        | .inl v => { op with args := op.args ++ [v] }
        | .inr (code, ue) => { op with stage := code, ue := ue.map fun c => (0, c, va) }
      e.tileWrite c o op (e.dsts o.dst 2) s

/-- Note the page that a preload's read missed; one that it missed before has then been replayed (R268). -/
def Op.missing (o : Op) (page : Nat) : Op :=
  let last := o.args.getD 6 0
  { o with args := (o.args.set 6 (page + 1)).set 7 (if last != 0 && last != page + 1 then 1 else o.args.getD 7 0) }
/-- Whether a read of a preload that missed was replayed (R268, R269): not where its miss was refused. -/
def State.replayed (s : State) (o : Op) (code : Nat) : Bool :=
  let last := o.args.getD 6 0
  o.args.getD 7 0 == 1 || (last != 0 && (code != 4 || (match s.walk o.ctx (last - 1) with | .leaf _ e => (permRefuse e .read).isNone | _ => false)))
/-- The lock entry and the group of a preload. -/
def Op.preLock (o : Op) : Nat := o.args.getD 5 0 % 32
def Op.preGroup (o : Op) : Nat := o.args.getD 5 0 / 32
/-- A preload as what a barrier counts (R272): its bytes land as a copy's do. -/
def State.preCopy (s : State) (p : Nat) (a : AOp) (o : Op) (t : TileOps) : Copy :=
  let w := (s.core p).wg.filter fun _ => a.group != orphanIx
  let lcore := s.logical p
  { k := 0, scope := .grp, bar := if o.args.getD 4 0 == 1 then 0 else t.bar, barOff := some (o.args.getD 3 0), ctx := o.ctx, lcore
    home := o.mate.map fun m => ⟨(barHome lcore t.bar (o.args.getD 3 0)).1, m.1, m.2⟩
    launch := w.elim o.launch (·.launch), wg := w.elim o.wg (·.wg) }
/-- The slot size of a preload's blocks: that of a record that is not read, or names none, is free (log entry 87). -/
def State.preSlot (s : State) (o : Op) : Nat :=
  match o.rcd.filter fun v => TRec.kind ⟨v⟩ == 1 && decide (TRec.slotCode ⟨v⟩ < 3) with
  | some v => slotBytes (TRec.slotCode ⟨v⟩)
  | none => [34, 26, 18].getD (Config.freeNat s.draws (site 9 0) % 3) 34
/-- The end of a preload (R272): the tile, the barrier, the lock, the status, the token. DONE counts the source bytes read. -/
def State.endPreload (s : State) (p : Nat) (a : AOp) (o : Op) (t : TileOps) (base width : Nat) (r : Except TileFault (List ABlock))
    (code done : Nat) (poison : Option Nat) : State :=
  let k := s.preCopy p a o t
  let ended := a.group == orphanIx || (s.group p a.group).ended
  let s := (s.endTile p a t.q base width t.dense r).landBytes k (512 * s.preSlot o) (code != 0)
  let s := s.modCore p fun c => { c with locks := merase c.locks o.preLock }
  let v := statusWord code (o.args.getD 4 0 == 1) poison.isSome (s.replayed o code) o.preGroup + 2 ^ 32 * done
  let s := s.landOp p a.group { o with ue := none } (dstWrites t.dst 2 (o.act.map fun n => (n, BitVec.ofNat 64 v)))
  let s := if ended && (code != 0 || poison.isSome) then s.asyncFault o.ctx 2 (poison.getD 0) k.launch k.wg o.pc.toNat v else s
  s.startCopies p
/-- TILE_WRITE_COMPLETE for WPRE: its source is read through the tensor walker's TLB, from the block at which it stopped; a miss is replayed by a
later step (R268, R272). It starts once its thread's earlier accesses of its source are performed (R152; log entry 110). -/
def State.preloadEnd (s : State) (p : Nat) (a : AOp) (o : Op) (t : TileOps) (base width : Nat) : State :=
  if s.barSaved (s.preCopy p a o t) then s
  else if o.stage = 6 then s.endPreload p a o t base width (.error ((o.ue.map fun u => TileFault.ue u.2.1).getD .format)) 6 0 none
  else if o.stage != 0 then s.endPreload p a o t base width (.error .refused) o.stage 0 none
  else
    let (s, r) := s.readTensor p a.group o o.ctx (o.rcd.getD 0) (o.args.getD 1 0) (o.args.getD 2 0)
    let o := ((s.group p a.group).op? o.id).getD o
    match r with
    | .wait none _ => s
    | .wait (some page) long =>
      if long && o.host.contains page then s.endPreload p a o t base width (.error .refused) 4 (bytesRead (s.preSlot o) o.blocks) none
      else s.modGroup p a.group (·.setOp (o.missing page))
    | .fault f code done => s.endPreload p a o t base width (.error f) code done none
    | .blocks slot rs =>
      match buildTile t.dense slot width s.junkTag rs with
      | .error _ => s.endPreload p a o t base width (.error .format) 0 (bytesRead slot rs) (firstBad rs)
      | .ok bs => s.endPreload p a o t base width (.ok bs) 0 (bytesRead slot rs) (firstBad rs)

/-- TILE_WRITE_COMPLETE (R140, R152, R153, R272): the tile write that is first in a sub-array's order. -/
def execTileWriteComplete (core q : Nat) (s : State) : Out1 :=
  let s := s.draw
  match s.tileWriteFirst core q with
  | none => .next s
  | some (a, o, base, width) => match o.i with
    | .wpre _ t => .next (s.preloadEnd core a o t base width)
    | _ => .next (s.tileWriteEnd core a o q base width)

end Sys2Proof.Machine
end

