-- ==== Sys2Proof/Machine/Nmu.lean ====
section
/-! DEFINITION. The near-memory unit (spec/10_async_engines.md R273 to R281): NMA, NMAR, BDOT and GRED. -/

namespace Sys2Proof.Machine

/-- NMA and NMAR (R276): RMWs performed at the single point of each lane's line; NMA is counted on no token. -/
def nmuAccess (c : Ctl) (i : Instr) (o : NmuOps) (counted : Bool) (s : State) : Out1 :=
  issue c i 1 s fun e => do
    let w := o.ty.words
    let second : Src := match o.b with | .x n => .x (n + w) | d => d
    let os := [(RdAs.w64z, o.base), (dataAs w, o.b), (dataAs w, second)]
    let ls : List LaneReq := (e.read e.act os).map fun l =>
      let a : Int := l.a.toNat + o.off.toInt
      if o.op == .cas then { slot := l.slot, a, v := l.c, v2 := l.b } else { slot := l.slot, a, v := l.b }
    let q : AccReq := { tier := .glob, n := 4 * w, reads := true, writes := true }
    let e := e.latched os
    let (s, los) ← e.locate q ls
    let (dst, n) := i.accDst
    e.postAccess c q { i } los (e.dsts dst n) s counted
def execNma (c : Ctl) (o : NmuOps) (s : State) : Out1 := nmuAccess c (.nma c o) o false s
def execNmar (c : Ctl) (o : NmuOps) (s : State) : Out1 := nmuAccess c (.nmar c o) o true s

/-! BDOT (R277, R278). -/

/-- BDOT: the addresses and the count are kept with the operation, and whether a column was replayed. -/
def execBdot (c : Ctl) (o : NmuOps) (s : State) : Out1 :=
  arrayIssue c (.bdot c o) s fun e => do
    let os := [(RdAs.w64z, o.base), (.w64z, o.b), (.w32, o.c)]
    let l := ((e.read [e.lowest] os).head?).getD ⟨e.lowest, []⟩
    let bad (f : Nat → Bool) : Option Nat := [l.a.toNat, l.b.toNat].find? f
    match bad fun a => decide (2 ^ 57 ≤ a) with
    | some a => throw (laneTrap e [] { slot := e.lowest, a } { cause := 0x0C })
    | none => pure ()
    match bad fun a => a % 32 != 0 with
    | some a => throw (laneTrap e [] { slot := e.lowest, a } trapMisaligned)
    | none => pure ()
    let n := l.c.toNat * (tyWidth o.ty / 8)
    match bad fun a => ((e.s.core e.p).lockHit e.ctx 0 a n false (e.s.logical e.p % 16)).isSome with
    | some a => throw (laneTrap e [] { slot := e.lowest, a }
        { cause := 0x0F, info := ((e.s.core e.p).lockHit e.ctx 0 a n false (e.s.logical e.p % 16)).getD 0 })
    | none => pure ()
    let e := e.latched os
    e.post e.s c { i := .bdot c o, args := [l.a.toNat, l.b.toNat, l.c.toNat, 0, 0] } (e.dsts o.dst 2)

/-- A column's sum of products (R277). -/
def columnSum (ty : Ty) (ps : List (Nat × Nat)) : Nat :=
  let m := fmtOf ty
  match (ps.flatMap fun p => [p.1, p.2]).find? m.isNan with
  | some n => if ty == .f32 then fp32.quiet n else nanConvert ty .f32 n
  | none =>
    if ps.any fun p => m.isInf p.1 || m.isInf p.2 then
      let bad := ps.any fun p => (m.isInf p.1 && m.isZero p.2) || (m.isZero p.1 && m.isInf p.2)
      infSum fp32 (ps.map fun p => if m.isInf p.1 || m.isInf p.2 then some (m.sign p.1 != m.sign p.2) else none) bad
    else
      let d := ps.map fun p => (m.dy p.1).mul (m.dy p.2)
      match d with
      | [] => 0
      | x :: xs =>
        let v := xs.foldl (fun s t => s.add t false) x
        fp32.round .rne false (if v.m = 0 then { v with s := d.all fun t => t.m == 0 && t.s } else v)
/-- What a BDOT has come to while it reads: the running result, the serving stack, the first uncorrectable column (class, vector,
column), and its error code. -/
structure Dot where
  r : Nat := 0
  serving : Option Nat := none
  ue : Option (Nat × Nat × Nat) := none
  code : Nat := 0
  /-- Columns read, those of A and of B. -/
  pos : Nat := 0
deriving DecidableEq, Repr
/-- Read one column of a vector: its place, or why not. The stack that serves a BDOT is the one of its first column; a column homed outside the
package has none, so the command ends with the code of a vector that is not in one stack (log entry 111). -/
def State.dotColumn (s : State) (p ctx : Nat) (host : List Nat) (va : Nat) (d : Dot) : State × Except SegStop (Nat × Dot) :=
  let (s, r) := s.engGlobal (clusterOf (s.logical p)) ctx host false [(va, 32)]
  match r with
  | .error e => (s, .error e)
  | .ok ks =>
    let k := (ks.headD (0, 0, 0)).1
    let stack := if k < 2 ^ 40 then k / 2 ^ 36 else 16
    let first := d.serving.getD stack
    if stack = 16 || stack != first then (s, .error (.code 7))
    else match s.flushAt p [(k, 32)] with
      | none => (s, .error .wait)
      | some s => (s, .ok (k, { d with serving := some first, pos := d.pos + 1 }))
/-- Read the columns from c on, A before B (R277, R278). -/
def State.dotGo (s : State) (p ctx : Nat) (host : List Nat) (ty : Ty) (va vb n : Nat) : Nat → Nat → Dot → State × Except (SegStop × Nat) Dot
  | 0, _, d => (s, .ok d)
  | k + 1, c, d =>
    let size := tyWidth ty / 8
    match s.dotColumn p ctx host (va + 32 * c) d with
    | (s, .error (.code x)) => (s, .ok { d with code := x })
    | (s, .error e) => (s, .error (e, d.pos))
    | (s, .ok (ka, d)) =>
      let d := match d.ue, s.poisonAt ka 32 with | none, some x => { d with ue := some (x, 0, c) } | _, _ => d
      let s := ((s.readUe ka 32).flits (pdie p) ctx ka).refreshOwn p ka 32
      match s.dotColumn p ctx host (vb + 32 * c) d with
      | (s, .error (.code x)) => (s, .ok { d with code := x })
      | (s, .error e) => (s, .error (e, d.pos))
      | (s, .ok (kb, d)) =>
        let d := match d.ue, s.poisonAt kb 32 with | none, some x => { d with ue := some (x, 1, c) } | _, _ => d
        let s := ((s.readUe kb 32).flits (pdie p) ctx kb).refreshOwn p kb 32
        let els := (List.range (32 / size)).filterMap fun i =>
          if c * (32 / size) + i < n then some (s.read (ka + size * i) size, s.read (kb + size * i) size) else none
        let s := (s.count ctx 17 64)
        s.dotGo p ctx host ty va vb n k (c + 1) { d with r := fAdd .f32 .rne false false d.r (columnSum ty els) }
/-- Perform a BDOT (R277, R278); a column that misses is replayed by a later step. -/
def State.countBdot (s : State) (p gi : Nat) (o : Op) (a : NmuOps) : State :=
  let va := o.args.getD 0 0
  let vb := o.args.getD 1 0
  let n := o.args.getD 2 0
  let size := tyWidth a.ty / 8
  let land (s : State) (d : Dot) : State :=
    let r := if d.code != 0 then 0x7FC00000 else match d.ue with
      | some (cls, _, _) => (poisonWord cls).toNat
      | none => d.r
    let st := 2 ^ 31 * b2n (d.code != 0) + 2 ^ 27 * d.code + 2 ^ 25 * b2n d.ue.isSome + 2 ^ 24 * b2n (o.args.getD 4 0 == 1 || (o.args.getD 3 0 != 0 && decide (o.args.getD 3 0 ≤ d.pos)))
      + (match d.ue with | some (_, v, c) => 2 ^ 16 * bits c 20 15 + 2 ^ 15 * v + bits c 14 0 | none => 0)
    let s := match d.ue with
      | some (cls, v, c) => s.deferTrap p gi o { cause := 0x17, info := cls, addr := (if v = 0 then va else vb) + 32 * c }
      | none => s
    (s.count o.ctx 21 1).landOp p gi o (dstWrites a.dst 2 (o.act.map fun n => (n, BitVec.ofNat 64 (r + 2 ^ 32 * st))))
  if 2 ^ 24 < n then land s { code := 8 }
  else if n = 0 then land s {}
  else if s.waitsAny p gi o || (s.group p gi).readWaits gi o [(va, n * size), (vb, n * size)] then s
  else
    let (t, r) := s.dotGo p o.ctx o.host a.ty va vb n ((n * size + 31) / 32) 0 {}
    match r with
    | .ok d => land t d
    | .error (.miss, pos) =>
      let last := o.args.getD 3 0
      -- A column that missed before and is behind the read now was replayed (R268, R278).
      let o := { o with args := (o.args.set 3 (pos + 1)).set 4 (if last != 0 && decide (last ≤ pos) then 1 else o.args.getD 4 0) }
      (s.missesOf t).modGroup p gi (·.setOp o)
    | .error _ => s.missesOf t

/-! GRED (R279). -/

def execGred (c : Ctl) (o : NmuOps) (s : State) : Out1 :=
  issue c (.gred c o) 1 s fun e => do
    let os := [(RdAs.w64z, o.base)]
    let ls := (e.read e.act os).map fun l => { slot := l.slot, a := l.a.toNat + o.off.toInt : LaneReq }
    let q : AccReq := { tier := .glob, n := 4, reads := true, writes := false }
    let e := e.latched os
    let (s, los) ← e.locate q ls
    e.postAccess c q { i := .gred c o } los (e.dsts o.dst 2) s
/-- Insert by a key. -/
def insertBy {α : Type} (le : α → α → Bool) (x : α) : List α → List α
  | [] => [x]
  | y :: ys => if le x y then x :: y :: ys else y :: insertBy le x ys
/-- A list in the order of a key. -/
def sortBy {α : Type} (le : α → α → Bool) (xs : List α) : List α := xs.foldr (insertBy le) []
/-- What a lane of a GRED reads: bank key (none outside the package), address, lane, value or poison class. -/
structure GredIn where
  key : Option Nat
  va : Nat
  slot : Nat
  v : Except Nat Nat
/-- The partials of a GRED in order: value and key. -/
def gredParts (op : RmwOp) (ty : Ty) (xs : List GredIn) : List (Nat × Nat) :=
  let inside := sortBy (fun a b => decide ((a.key.getD 0, a.va, a.slot) = (b.key.getD 0, b.va, b.slot))
    || decide (a.key.getD 0 < b.key.getD 0) || (a.key == b.key && (decide (a.va < b.va) || (a.va == b.va && decide (a.slot < b.slot)))))
    (xs.filter (·.key.isSome))
  let one (v : Except Nat Nat) : Except Nat Nat := v
  let join (a b : Except Nat Nat) : Except Nat Nat := match a, b with
    | .error c, _ => .error c
    | _, .error c => .error c
    | .ok a, .ok b => .ok (rmwNew op ty a b 0)
  let groups := inside.foldl (fun (acc : List (Nat × Except Nat Nat)) x => match acc with
    | (k, v) :: rest => if some k = x.key then (k, join v x.v) :: rest else (x.key.getD 0, one x.v) :: acc
    | [] => [(x.key.getD 0, one x.v)]) []
  let val (v : Except Nat Nat) : Nat := match v with | .ok n => n | .error c => (poisonWord c).toNat
  groups.reverse.map (fun g => (val g.2, g.1)) ++ (xs.filter (·.key.isNone)).map fun x => (val x.v, 0xFFFFFFFE)
/-- Perform a GRED once every lane can be read (R279). -/
def State.countGred (s : State) (p gi : Nat) (o : Op) (a : NmuOps) : State :=
  let waits (l : LaneOp) : Bool := match l.key with
    | none => true
    | some k => !s.reaches (pdie p) k || (s.core p).l1Pending none k 4 || s.leaseWaits k 4 false || s.waits p gi o l.slot (some l)
  if o.lanes.any (·.refused.isSome) then s.refuseOp p gi o
  else if o.lanes.any fun l => l.key.any fun k => s.flagged.contains (k / 2 ^ 16) then
    let o := { o with lanes := o.lanes.map fun l => if l.key.any fun k => s.flagged.contains (k / 2 ^ 16) then { l with refused := some (0x0E, 0) } else l }
    (s.modGroup p gi (·.setOp o)).refuseOp p gi o
  else if o.lanes.any waits then s
  else
    let xs : List GredIn := o.lanes.map fun l =>
      let k := l.key.getD 0
      { key := if k < 2 ^ 40 then some (bankKey k) else none, va := l.va, slot := l.slot
        v := match s.poisonAt k 4 with | some c => .error c | none => .ok (s.read k 4) }
    let s := o.lanes.foldl (fun s l =>
      let k := l.key.getD 0
      let s := if k < 2 ^ 40 then (s.readUe k 4).count o.ctx 17 32 else s.touchLease p l.leaf k 4 false
      (s.flits (pdie p) o.ctx k).refreshOwn p k 4) s
    let s := s.count o.ctx 21 o.lanes.length
    let o := o.lanes.foldl (fun o l => match s.poisonAt (l.key.getD 0) 4 with | some c => o.meet l c | none => o) o
    let s := match o.ue with
      | some (n, cls, va) => s.deferTrap p gi o { cause := 0x17, info := cls, lane := some n, addr := va }
      | none => s
    let ps := gredParts a.op a.ty xs
    let vals := o.act.mapIdx fun r n => let (v, k) := ps.getD r (0, 0xFFFFFFFF); (n, BitVec.ofNat 64 (v + 2 ^ 32 * k))
    (s.landOp p gi o (dstWrites a.dst 2 vals)).modGroup p gi (·.settleLanes)

/-- A near-memory command is performed (R274 to R281). -/
def State.countNmu (s : State) (p gi : Nat) (o : Op) : State :=
  match o.i with
  | .nma .. | .nmar .. => s.moveLanes p gi o
  | .bdot _ a => s.countBdot p gi o a
  | .gred _ a => s.countGred p gi o a
  | _ => s
/-- Whether an operation waits for its twin to post (R467), or is the shadow's and is not performed itself. -/
def Op.tandemWaits (o : Op) : Bool := o.shadow || o.twin.any fun t => t.2.2 == unlinked
/-- NMU_COMMAND_COMPLETE. -/
def execNmuCommandComplete (core group op : Nat) (s : State) : Out1 :=
  let s := s.draw
  match (s.group core group).op? op with
  | some o => .next (if o.tandemWaits then s else s.countNmu core group o)
  | none => .next s
/-- NMU_REFRESH (R275) changes no result and no order of any command. -/
def execNmuRefresh (_bank : Nat) (s : State) : Out1 := .next s

end Sys2Proof.Machine
end

