-- ==== Sys2Proof/Machine/Sha.lean ====
section
/-! DEFINITION. SHA-256, which R399, R402, R404, R405 and R406 name (spec/16_identity_accounting.md). Byte strings are numbers,
byte 0 lowest. -/

namespace Sys2Proof.Machine

/-! Its constants: the first 32 bits after the point of roots of the first primes. -/

/-- The largest number below r + 2^n whose k-th power is at most v, r being a candidate with n open bits. -/
def rootBits (k v : Nat) : Nat → Nat → Nat
  | 0, r => r
  | n + 1, r => rootBits k v n (if (r + 2 ^ n) ^ k ≤ v then r + 2 ^ n else r)
/-- The first 32 bits after the point of the k-th root of a number below 2^9. -/
def rootFraction (k p : Nat) : Word := BitVec.ofNat 32 (rootBits k (p * 2 ^ (32 * k)) 37 0)
/-- The first 64 primes. -/
def shaPrimes : List Nat := (List.range 312).filter fun n => decide (2 ≤ n) && (List.range 18).all fun d => decide (d < 2) || decide (n ≤ d) || n % d != 0
/-- The constants of the rounds, and those that a digest begins with. -/
def shaKeys : List Word := shaPrimes.map (rootFraction 3)
def shaStart : List Word := (shaPrimes.take 8).map (rootFraction 2)

/-! The compression. -/

/-- The sum without carries of a word turned right by three distances; the last is a plain shift in the message schedule. -/
def turned (x : Word) (i j : Nat) (last : Word) : Word := x.rotateRight i ^^^ x.rotateRight j ^^^ last
/-- Word n of the message schedule from the words before it, the newest first. -/
def scheduleNext (w : List Word) : Word :=
  let a := w.getD 14 0
  let b := w.getD 1 0
  w.getD 15 0 + w.getD 6 0 + turned a 7 18 (a >>> 3) + turned b 17 19 (b >>> 10)
def schedule : Nat → List Word → List Word
  | 0, w => w
  | n + 1, w => schedule n (scheduleNext w :: w)
/-- The two sequences that a compression extends, the newest word first: of the digest's first half and of its second. -/
structure ShaRun where
  hi : List Word
  lo : List Word
deriving DecidableEq, Repr
/-- One round: each sequence grows by a word. -/
def ShaRun.round (r : ShaRun) (key : Word) : ShaRun :=
  let x (n : Nat) : Word := r.hi.getD n 0
  let y (n : Nat) : Word := r.lo.getD n 0
  let pick := y 2 ^^^ (y 0 &&& (y 1 ^^^ y 2))
  let most := (x 0 &&& x 1) ||| (x 2 &&& (x 0 ||| x 1))
  let add := key + y 3 + pick + turned (y 0) 6 11 ((y 0).rotateRight 25)
  { hi := (add + most + turned (x 0) 2 13 ((x 0).rotateRight 22)) :: r.hi, lo := (x 3 + add) :: r.lo }
/-- The digest so far after one more block of 16 words, the newest of the block first. -/
def shaBlock (h block : List Word) : List Word :=
  let keys := (schedule 48 block).reverse.zipWith (· + ·) shaKeys
  let r := keys.foldl ShaRun.round { hi := h.take 4, lo := h.drop 4 }
  (r.hi.take 4 ++ r.lo.take 4).zipWith (· + ·) h

/-! Messages. -/

/-- Four bytes in the other order. -/
def swapBytes (v : Nat) : Nat := (List.range 4).foldl (fun n i => 256 * n + v / 256 ^ i % 256) 0
/-- Message m of n bytes with its padding, as words in order: the byte 0x80, zeros, and the count of its bits. -/
def shaWords (m n blocks : Nat) : List Word :=
  let body := m % 256 ^ n + 0x80 * 256 ^ n
  (List.range (16 * blocks - 2)).map (fun i => BitVec.ofNat 32 (swapBytes (body / 2 ^ (32 * i) % 2 ^ 32)))
    ++ [BitVec.ofNat 32 (8 * n / 2 ^ 32), BitVec.ofNat 32 (8 * n)]
/-- The digest of the first n bytes of a message, byte 0 of the digest lowest. -/
def sha256 (m n : Nat) : Nat :=
  let blocks := (n + 8) / 64 + 1
  let ws := shaWords m n blocks
  let h := (List.range blocks).foldl (fun h i => shaBlock h ((ws.drop (16 * i)).take 16).reverse) shaStart
  h.foldr (fun x v => swapBytes x.toNat + 2 ^ 32 * v) 0

end Sys2Proof.Machine
end

