-- ==== Sys2Proof/Machine/Ecdsa.lean ====
section
/-! DEFINITION. ECDSA over the curve P-256, which R399, R404 and R415 name (spec/16_identity_accounting.md). -/

namespace Sys2Proof.Machine

/-- The prime of the curve's field, and the number of its points, its base point's order. -/
def curveP : Nat := 2 ^ 256 - 2 ^ 224 + 2 ^ 192 + 2 ^ 96 - 1
def curveN : Nat := 0xFFFFFFFF00000000FFFFFFFFFFFFFFFFBCE6FAADA7179E84F3B9CAC2FC632551

/-- A power modulo m, its exponent below 2 ^ n. -/
def powMod (m : Nat) : Nat → Nat → Nat → Nat
  | 0, _, _ => 1 % m
  | n + 1, x, e => let y := powMod m n (x * x % m) (e / 2); if e % 2 = 1 then x * y % m else y
/-- The inverse modulo a prime below 2^256. -/
def invMod (m x : Nat) : Nat := powMod m 256 (x % m) (m - 2)

/-- A point in affine coordinates; none at infinity. -/
abbrev Point := Option (Nat × Nat)
/-- The base point. -/
def curveG : Point := some
  (0x6B17D1F2E12C4247F8BCE6E563A440F277037D812DEB33A0F4A13945D898C296,
   0x4FE342E2FE1A7F9B8EE7EB4A7C0F9E162BCE33576B315ECECBB6406837BF51F5)
/-- The third point of the line through two points, of a slope, turned over. -/
def chord (slope : Nat) (a b : Nat × Nat) : Nat × Nat :=
  let x := (slope * slope + 2 * curveP - a.1 - b.1) % curveP
  (x, (slope * (a.1 + curveP - x) + curveP - a.2) % curveP)
/-- The sum of two points. -/
def addPoints : Point → Point → Point
  | none, b => b
  | a, none => a
  | some a, some b =>
    if a.1 = b.1 then
      if (a.2 + b.2) % curveP = 0 then none
      else some (chord ((3 * a.1 * a.1 + curveP - 3) * invMod curveP (2 * a.2) % curveP) a b)
    else some (chord ((b.2 + curveP - a.2) * invMod curveP (b.1 + curveP - a.1) % curveP) a b)
/-- A multiple of a point, the factor below 2 ^ n. -/
def mulPoint : Nat → Nat → Point → Point
  | 0, _, _ => none
  | n + 1, k, a => let b := mulPoint n (k / 2) (addPoints a a); if k % 2 = 1 then addPoints a b else b
/-- The public key of a private key. -/
def publicKey (d : Nat) : Point := mulPoint 256 d curveG

/-- The pair r, s of a digest, read as a big-endian number, under a private key and a number k of the signer's. -/
def signWith (d z k : Nat) : Nat × Nat :=
  let r := ((publicKey k).elim 0 (·.1)) % curveN
  (r, invMod curveN k * (z + r * d) % curveN)
/-- The signature of a digest with the signer's numbers, the first that gives no zero. -/
def ecdsaSign (d z : Nat) (k : Nat → Nat) : Nat → Nat × Nat
  | 0 => signWith d z (k 0)
  | n + 1 => let x := signWith d z (k (n + 1)); if x.1 = 0 || x.2 = 0 then ecdsaSign d z k n else x
/-- Whether r, s is a signature of a digest under a public key. -/
def ecdsaVerify (q : Point) (z r s : Nat) : Bool :=
  let w := invMod curveN s
  decide (0 < r) && decide (r < curveN) && decide (0 < s) && decide (s < curveN)
    && ((addPoints (mulPoint 256 (z * w % curveN) curveG) (mulPoint 256 (r * w % curveN) q)).any fun x => x.1 % curveN == r)

/-- A number of 32 bytes read in the other order of its bytes: SHA-256 gives byte 0 lowest, ECDSA reads it highest. -/
def turned32 (v : Nat) : Nat := (List.range 32).foldl (fun a i => a * 256 + v / 256 ^ i % 256) 0

end Sys2Proof.Machine
end

