-- ==== Sys2Proof/Machine/Records.lean ====
section
/-! DEFINITION. The records that the Ikienyon root signs (spec/16_identity_accounting.md R399, R404 to R411): the device ID, the
header and signature, attestation reports, roster entries, accounting reports. A record is one number, byte 0 lowest. -/

namespace Sys2Proof.Machine

/-- The root's private key, and its public one (R399). -/
def rootScalar : Nat := 1 + Config.rootKey % (curveN - 1)
def rootPublic : Nat × Nat := (publicKey rootScalar).getD (0, 0)
/-- The 64 coordinate bytes of the public key: X then Y, each big-endian (R399, R401). -/
def keyBytes : Nat := turned32 rootPublic.1 + 2 ^ 256 * turned32 rootPublic.2
/-- The device ID (R399). -/
def deviceId : Nat := sha256 keyBytes 64

/-- The signature of a message of n bytes by the root: r then s, each little-endian (R404). A signing that met a zero 64 times over is not drawn
again. -/
def rootSignature (m n count : Nat) : Nat :=
  let d := sha256 m n
  let (r, t) := ecdsaSign rootScalar (turned32 d) (fun i => 1 + Config.signNumber d count i % (curveN - 1)) 64
  r + 2 ^ 256 * t
/-- Whether a debug token of 160 bytes carries the debug key's signature over its first 96 (R415). -/
def tokenVerifies (t : Nat) : Bool :=
  ecdsaVerify (publicKey (1 + Config.debugKey % (curveN - 1))) (turned32 (sha256 (t % 2 ^ 768) 96)) (bits t 1023 768) (bits t 1279 1024)

/-- A snapshot of the counters at this tick is complete: no more increments carry the tick (R409; log entry 113). -/
def State.closeTick (s : State) : State :=
  { s with pace := match s.pace with | 0 :: r => 1 :: r | r => r }
/-- A record of `length` bytes with its type and its body, whose bytes stand at their offsets from 64 on, header and signature
added (R404). -/
def State.sign (s : State) (type length body : Nat) : State × Nat :=
  let n := (s.seq + 1) % 2 ^ 64
  let head := type + 2 ^ 16 * length + 2 ^ 32 * (s.pkgid % 1024) + 2 ^ 64 * n + 2 ^ 128 * (s.ticks % 2 ^ 64) + 2 ^ 192 * deviceId
  let m := head + body
  ({ s with seq := n }, m + 2 ^ (8 * length) * rootSignature m length n)

/-- Whether a context holds debug rights (R415). -/
def Ctx.hasRights (x : Ctx) : Bool := x.inj || x.watch || x.step

/-! Accounting reports (R411). -/

/-- Bytes of an accounting report with its signature. -/
def reportBytes : Nat := 416
/-- FLAGS of a report. -/
def Ctx.reportFlags (x : Ctx) (final : Bool) : Nat := b2n final + 2 * b2n x.dbgSeen + 4 * b2n x.haltedSince
/-- The body of a context's report. -/
def Ctx.reportBody (x : Ctx) (c : Nat) (final : Bool) : Nat :=
  2 ^ 512 * x.job.getD 0 + 2 ^ 576 * x.desc.asid + 2 ^ 592 * c + 2 ^ 600 * x.reportFlags final + 2 ^ 608 * x.acsat
    + (List.range 28).foldl (fun v i => v + 2 ^ (8 * (96 + 8 * i)) * mget 0 x.counters i) 0
/-- An accounting report of a context now, from the snapshot at this tick (R409); the next one tells of the halts after it. -/
def State.accountReport (s : State) (c : Nat) (final : Bool) : State × Nat :=
  let (s, r) := s.sign 3 352 ((s.ctx c).reportBody c final)
  (s.closeTick.modCtx c fun x => { x with haltedSince := false }, r)

/-! Roster entries (R406). -/

/-- Bytes of a roster entry with its signature. -/
def rosterBytes : Nat := 176
/-- A roster entry: EVENT 1 OPEN, 2 CLOSE; the digest of the final report in a CLOSE entry. -/
def State.rosterEntry (s : State) (c event digest : Nat) : State × Nat :=
  let x := s.ctx c
  s.sign 2 112 (2 ^ 512 * x.job.getD 0 + 2 ^ 576 * x.desc.asid + 2 ^ 592 * c + 2 ^ 600 * event + 2 ^ 608 * x.desc.part
    + 2 ^ 616 * (s.part x.desc.part).elim 0 (·.size) + 2 ^ 640 * digest)
/-- The final report and the CLOSE entry; the tag is no longer held. -/
def State.closeJob (s : State) (c : Nat) : State × Nat × Nat :=
  let (s, r) := s.accountReport c true
  let (s, e) := s.rosterEntry c 2 (sha256 r reportBytes)
  (s.modCtx c fun x => { x with job := none }, r, e)

/-! Attestation (R405). -/

/-- The image of a kind that the last reset examined: its bytes and length. -/
def State.imageOf (s : State) (kind : Nat) : Nat × Nat := (mfind s.running kind).getD (Config.factoryImage kind)
/-- The image of a kind that the next reset examines (R401). -/
def State.storedImage (s : State) (kind : Nat) : Nat × Nat := (mfind s.images kind).getD (Config.factoryImage kind)
/-- The fused core map and the partition configuration as one number, from which the digested bytes are made. -/
def State.configNumber (s : State) : Nat :=
  let map := (List.range 1024).foldl (fun v l => v * 2 ^ 8 + s.fusePhys l % 136) 1
  s.parts.foldl (fun v e => v * 2 ^ 256 + (e.1 + 2 ^ 8 * e.2.size + 2 ^ 16 * e.2.rho + 2 ^ 32 * e.2.slice + 2 ^ 72 * e.2.stopBase
    + 2 ^ 128 * e.2.fqBase + 2 ^ 184 * e.2.fqLog + 2 ^ 192)) map
/-- The attestation report for a nonce. -/
def State.attest (s : State) (nonce : Nat) : State × Nat :=
  let images := (List.range 6).foldl (fun v i => let m := s.imageOf (i + 1); v + 2 ^ (8 * (104 + 32 * i)) * sha256 m.1 m.2) 0
  let debug := s.ctxs.foldl (fun v e => if e.2.hasRights then v + 2 ^ e.1 else v) 0
  s.sign 1 336 (2 ^ 512 * nonce + 2 ^ 768 * s.recovery + images + 2 ^ (8 * 296) * (let c := Config.configBytes s.configNumber; sha256 c.1 c.2)
    + 2 ^ (8 * 328) * debug)

end Sys2Proof.Machine
end

