-- ==== Sys2Proof/Machine/Settle.lean ====
section
/-! DEFINITION. When what system software has written for a context takes effect (spec/15_translation.md R376, R377,
spec/16_identity_accounting.md R406, R414, R415, spec/08_consistency.md R215). -/

namespace Sys2Proof.Machine

/-- Drop TLB entries that a condition picks, everywhere (R376, R386). -/
def State.dropTlb (s : State) (f : TlbEntry → Bool) : State :=
  { s with cores := s.cores.map (fun e => (e.1, { e.2 with tlb := e.2.tlb.filter fun t => !f t }))
           walkers := s.walkers.map fun e => (e.1, e.2.filter fun t => !f t) }
/-- Whether a context has a workgroup placed; whether it has one placed, saved or being restored (a restore is one step). -/
def State.placedCtx (s : State) (c : Nat) : Bool := s.cores.any fun e => e.2.wg.any (·.ctx == c)
def State.savedCtx (s : State) (c : Nat) : Bool := s.saved.any (·.ctx == c)

/-- A core's injection register is cleared (R415). -/
def Core.disarm (c : Core) : Core := { c with arr := { c.arr with ckinj := 0 } }
/-- Debug rights of a context end (R415): CKINJ is cleared on its cores and in what is saved of them, breakpoints and watchpoints are removed, and no
step or stop-all is left. -/
def State.endRights (s : State) (c : Nat) : State :=
  let go (e : Nat × Core) : Nat × Core := if e.2.wg.any (·.ctx == c) then (e.1, e.2.disarm) else e
  let put (u : Saved) : Saved := if u.ctx = c then { u with cores := u.cores.map (·.disarm) } else u
  let s := { s with cores := s.cores.map go, saved := s.saved.map put }
  s.modCtx c fun x => { x with inj := false, watch := false, step := false, untilTick := 0, debug := [] }

/-- The die-scratchpad range of a context reads zero (R180). -/
def State.zeroRange (s : State) (c : Nat) : State :=
  let d := (s.ctx c).desc
  let n := (s.part d.part).elim 0 (·.size)
  (List.range n).foldl (fun s i =>
    let k := dieKey (d.part + i) (d.dsbase * 2 ^ 16)
    let len := d.dslimit * 2 ^ 16
    { s with mem := memClear s.mem k len, poison := s.poison.filter fun e => !(k / 32 ≤ e.1 && e.1 * 32 < k + len) }) s

/-- Cached leaves onto frame regions that are in effect now are dropped (R385). -/
def State.dropProtected (s : State) : State :=
  s.dropTlb fun t => pteLoc t.leaf == 0 && s.protectedPage (pteStack t.leaf) (pteFrame t.leaf) t.size
/-- A written descriptor takes effect (R376, R377, R385, R406). -/
def State.applyDesc (s : State) (c : Nat) (d : Desc) : State :=
  let old := (s.ctx c).desc
  let s := if old.valid && !d.valid then
      let s := if (s.ctx c).job.isSome then
          let (s, r, e) := s.closeJob c
          { s with outbox := s.outbox ++ [.signed r reportBytes, .signed e rosterBytes] }
        else s
      s.endRights c
    else s
  let s := if !old.valid && d.valid then
      -- R377: nothing that the number's last holder left in a core is visible: the core is cleared before its next use (R398).
      let used (e : Nat × Core) : Nat × Core := if e.2.lastCtx = some c then (e.1, { e.2 with lastCtx := none }) else e
      { s.modCtx c (fun x => { asyncProd := x.asyncProd }) with seals := s.seals.filter (·.ctx != c), cores := s.cores.map used }
    else s
  let s := s.modCtx c fun x => { x with desc := d, pend := none, slots := if d.valid then x.slots else [] }
  let s := if old.asid != d.asid || old.root != d.root || (!old.valid && d.valid) then
      s.dropTlb fun t => t.asid == old.asid || t.asid == d.asid
    else s
  let s := s.dropProtected
  if d.valid && (!old.valid || old.dsbase != d.dsbase || old.dslimit != d.dslimit || old.part != d.part) then s.zeroRange c else s

/-- What waits for a context's workgroups to be gone takes effect where its moment has come (R215, R376, R414). -/
def State.settleCtx (s : State) (c : Nat) : State :=
  if s.placedCtx c then s
  else
    let s := if s.savedCtx c then s
      else
        let s := match (s.ctx c).pend with
          | some d => s.applyDesc c d
          | none => s
        match (s.ctx c).acceptPend with
        | some v => s.modCtx c fun x => { x with accept := v, acceptPend := none }
        | none => s
    s.modCtx c fun x => { x with ticket := x.desc.ticket && bit x.accept 4, checked := x.desc.checked }

end Sys2Proof.Machine
end

