-- ==== Sys2Proof/Machine/Control.lean ====
section
/-! DEFINITION. Class 2 but for its barriers and queues (spec/12_control_instructions.md R303 to R320, R328;
spec/11_execution_model.md R283, R284, R294 to R298): transfers, exits, waits, masks, values between lanes, LAUNCH. -/

namespace Sys2Proof.Machine

/-! Spending issues (R311 to R314). -/

def execNop (c : Ctl) (s : State) : Out1 := issue c (.nop c) 1 s fun e => .ok (e.s, false)
/-- DLY n weighs n in distances (R44, R311). -/
def execDly (c : Ctl) (n : Nat) (s : State) : Out1 := issue c (.dly c n) n s fun e => .ok (e.s, false)
/-- The quadrants of a core. -/
def Core.quad (c : Core) (q : Nat) : Quadrant := lget {} c.quads q
def Core.modQuad (c : Core) (q : Nat) (f : Quadrant → Quadrant) : Core :=
  { c with quads := (List.range 4).map fun i => if i = q then f (c.quad i) else c.quad i }
/-- The quadrant in which a group issues (R12, R353): the guest group's is the one that granted its run. -/
def Core.quadOf (c : Core) (gi : Nat) : Nat :=
  if gi = guestIx then ((List.range 4).find? fun q => (c.quad q).holder == some guestIx).getD 0 else gi % 4
/-- YIELD (R313). -/
def execYield (c : Ctl) (s : State) : Out1 :=
  groupIssue c (.yield c) s fun e => .ok (e.s.modGroup e.p e.gi fun g => { g with yielded := some ((e.s.core e.p).quadOf e.gi) }, false)
/-- Whether a group is ready (R288), its run not being held; a debug-stopped group sees the run that it has to its end (R436). -/
def Group.ready (g : Group) : Bool := g.park.isNone && !g.readyThreads.isEmpty && (g.dbgStop.isNone || g.run.isSome) && g.skidTrap.isNone
/-- The groups that take part in the arbitration of a quadrant (R12, R291, R353): its own, and the guest group last. -/
def Core.inQuad (c : Core) (q : Nat) : List Nat :=
  ((List.range (c.wg.elim 0 (·.groups.length))).filter fun g => g % 4 == q) ++ [guestIx]
/-- Whether SLEEP may go on: no other group of the quadrant is ready, and no relocation request, pre-emption at a slice's end or halt concerns
the workgroup (R314). -/
def State.maySleep (s : State) (p q gi : Nat) : Bool :=
  let c := s.core p
  !((c.inQuad q).any fun g => g != gi && (c.group g).ready) && !c.wg.any (·.reloc) && !s.halted (pdie p)
    && !(s.partOf (pdie p)).any fun e => e.2.ending && c.wg.any fun w => !w.multi && e.2.cur != some w.ctx
/-- SLEEP (R314): the slot is held until SLEEP_END. -/
def execSleep (c : Ctl) (ticks : Nat) (s : State) : Out1 :=
  groupIssue c (.sleep c ticks) s fun e =>
    let q := (e.s.core e.p).quadOf e.gi
    .ok (if ticks = 0 || !e.s.maySleep e.p q e.gi then e.s
      else e.s.modCore e.p (·.modQuad q fun x => { x with sleep := some (e.s.ticks + ticks, e.gi) }), false)
/-- SLEEP_END: the first of the events of R314; a run whose threads have gone meanwhile ends (R290). -/
def execSleepEnd (core q : Nat) (s : State) : Out1 :=
  let x := (s.core core).quad q
  match x.sleep with
  | none => .next s
  | some (t, gi) =>
    if t ≤ s.ticks || !s.maySleep core q gi then
      let s := s.modCore core (·.modQuad q fun x => { x with sleep := none })
      .next (if ((s.group core gi).headSet (gi == guestIx)).isEmpty then s.endRun core gi else s)
    else .next s

/-- TWAIT (R297, R312, R161). -/
def execTwait (c : Ctl) (n k : Nat) (s : State) : Out1 :=
  groupIssue c (.twait c n k) s fun e =>
    let g := e.s.group e.p e.gi
    if mget 0 g.tok n ≤ k then .ok (e.s.setGroup e.p e.gi (g.waited n k), false)
    else match (e.s.core e.p).stuck e.gi n k with
      | some f => .error (.trap (checksumTrap f 3))
      | none => .ok (e.s.park e.p e.gi (.twait n k e.pc e.head), true)

/-! Transfers of control (R308, R309). -/

/-- The checks of the targets of a transfer, each made for every active thread before the next; the state has the lines'
translations. -/
def Iss.targets (e : Iss) (ts : List (Nat × DWord)) : Except Stop State := do
  let at_ (t : Nat × DWord) (x : Trap) : Stop := .trap { x with lane := some (e.thread t.1).lane, addr := t.2.toNat }
  match ts.find? fun t => decide (2 ^ 57 ≤ t.2.toNat) || !pcAligned t.2 with
  | some t => throw (at_ t trapMisaligned)
  | none => pure ()
  let lines := ts.foldl (fun (acc : State × List (Nat × DWord × FetchLine)) t =>
    let (s, l) := acc.1.fetchLine e.p (e.s.ctxAt e.p e.gi t.1) e.g.hostPage t.2.toNat
    (s, acc.2 ++ [(t.1, t.2, l)])) (e.s, [])
  match lines.2.findSome? fun l => match l.2.2 with
      | .trap x => some (Stop.trap { x with xpc := e.pc.toNat, pc := some l.2.1, addr := l.2.1.toNat, unperf := some (maskOf e.head)
                                            lane := some (e.thread l.1).lane })
      | .short page size => some (.shortMiss page size)
      | .long => some (.longMiss l.2.1.toNat 2)
      | .word _ _ => none with
  | some x => throw x
  | none => pure ()
  match lines.2.find? fun l => match l.2.2 with | .word _ lw => lineBad lw | _ => false with
  | some l => throw (at_ (l.1, l.2.1) { cause := 0x04 })
  | none => pure ()
  match lines.2.find? fun l => match l.2.2 with | .word _ lw => !lineTgt lw (slotOf l.2.1) | _ => false with
  | some l => throw (at_ (l.1, l.2.1) { cause := 0x05 })
  | none => pure ()
  .ok lines.1
/-- A transfer of the active threads to their targets; with `push` the return address is pushed. -/
def transfer (c : Ctl) (i : Instr) (push : Bool) (target : Iss → Nat → DWord) (s : State) : Out1 :=
  issue c i 1 s fun e => do
    if push && !e.act.isEmpty then
      if (e.s.ctx e.ctx).checked && (List.range 7).any (fun t => mget 0 e.g.tok (t + 1) != 0) then throw (.trap trapIllegal)
      match e.act.find? fun n => decide (8 ≤ (e.thread n).rstack.length) with
      | some n => throw (.trap { cause := 0x19, reason := 1, lane := some (e.thread n).lane })
      | none => pure ()
    let ts := e.act.map fun n => (n, target e n)
    let s ← e.targets ts
    .ok (s.modGroup e.p e.gi fun g => g.modThreads e.act fun u =>
      { u with pc := target e u.slot, rstack := if push then nextPC e.pc :: u.rstack else u.rstack }, false)
/-- The target of BRX and CALL with a register pair. -/
def pairTarget (a : Src) (e : Iss) (n : Nat) : DWord := (e.srcs (e.thread n) 0 [(.w64z, a)]).1.getD 0 0
def execBra (c : Ctl) (disp : Word) (s : State) : Out1 :=
  transfer c (.bra c disp) false (fun e _ => e.pc + disp.signExtend 64) s
def execBrx (c : Ctl) (a : Src) (s : State) : Out1 := transfer c (.brx c a) false (pairTarget a) s
def execCall (c : Ctl) (disp : Word) (s : State) : Out1 :=
  transfer c (.call c disp) true (fun e _ => e.pc + disp.signExtend 64) s
def execCallReg (c : Ctl) (a : Src) (s : State) : Out1 := transfer c (.callReg c a) true (pairTarget a) s
/-- RET (R308, R309). -/
def execRet (c : Ctl) (s : State) : Out1 :=
  issue c (.ret c) 1 s fun e => do
    match e.act.find? fun n => (e.thread n).rstack.isEmpty with
    | some n => throw (.trap { cause := 0x19, reason := 2, lane := some (e.thread n).lane })
    | none => pure ()
    .ok (e.s.modGroup e.p e.gi fun g => g.modThreads e.act fun u =>
      { u with pc := u.rstack.headD 0, rstack := u.rstack.drop 1, returned := some e.pc }, false)

/-! Masks (R294 to R296, R315, R316). -/

/-- The lanes of a mask that are away. -/
def Group.awayIn (g : Group) (m : Nat) : List Nat :=
  (lanesOf (mget {} g.masks m).members).filter fun n => (g.thread? n).any (·.st == .away)
/-- A mask changed. -/
def Group.modMask (g : Group) (m : Nat) (f : Mask → Mask) : Group := { g with masks := mset {} g.masks m (f (mget {} g.masks m)) }
/-- Whether the wait on a mask completes (R295). -/
def Group.maskDone (g : Group) (m : Nat) : Bool :=
  let k := mget {} g.masks m
  k.members != 0 && k.members &&& ~~~ k.arrived == 0 && (g.awayIn m).isEmpty
/-- After an event that changes a mask (R294, R295): joiners enter once no member is away, which comes before the wait is tested for its completion
(log entry 114); a complete wait releases its threads. The
release and acquire among the members are a marker that their later accesses wait for (R203). -/
def Group.maskStep (g : Group) (m : Nat) : Group :=
  let joiners := if (g.awayIn m).isEmpty then (g.threads.filter fun t => t.st == .jwaiting m).map (·.slot) else []
  let g := if joiners.isEmpty then g else
    (g.modMask m fun k => { k with members := k.members ||| maskOf joiners }).modThreads joiners fun t => { t with st := .ready, wait := 0 }
  if !g.maskDone m then g
  else
    let out := (g.threads.filter fun t => t.st == .mwaiting m).map (·.slot)
    let busy := g.ops.any fun o => o.i.accKind.isSome && out.any o.act.contains
    let g := (g.modMask m fun k => { k with arrived := 0 }).modThreads out fun t => { t with st := .ready, wait := 0 }
    if busy then { g with ops := g.ops ++ [{ id := g.nextOp, i := .mwait ⟨none, false, false, 0⟩ m, act := out }], nextOp := g.nextOp + 1 } else g
/-- Every mask after a change of the threads. -/
def Group.maskSteps (g : Group) : Group := (List.range 12).foldl (·.maskStep ·) g
/-- Whether a group waits in a way that can never end (R296). -/
def Group.deadlocked (g : Group) : Bool :=
  let live := g.threads.filter fun t => t.st != .exited
  !live.isEmpty && live.all fun t => match t.st with | .mwaiting _ | .jwaiting _ => true | _ => false
/-- TOKEN_COUNTDOWN of the marker of an MWAIT: the members' accesses before it have been performed. -/
def State.countMwait (s : State) (p gi : Nat) (o : Op) : State :=
  if s.waitsAny p gi o then s else s.modGroup p gi (·.dropOp o.id)

/-- JOIN (R294). -/
def execJoin (c : Ctl) (m : Nat) (s : State) : Out1 :=
  issue c (.join c m) 1 s fun e => do
    let g := e.s.group e.p e.gi
    let new := e.act.filter fun n => !(mget {} g.masks m).members.toNat.testBit n
    let g' := if (g.awayIn m).isEmpty then g.modMask m fun k => { k with members := k.members ||| maskOf new }
      else g.modThreads new fun t => { t with st := .jwaiting m }
    if !e.act.isEmpty && g'.deadlocked then throw (.trap { cause := 0x18, info := m })
    .ok (e.s.setGroup e.p e.gi g', false)
/-- LEAVE (R294). -/
def execLeave (c : Ctl) (m : Nat) (s : State) : Out1 :=
  issue c (.leave c m) 1 s fun e =>
    .ok (e.s.modGroup e.p e.gi fun g =>
      (g.modMask m fun k => { members := k.members &&& ~~~ maskOf e.act, arrived := k.arrived &&& ~~~ maskOf e.act }).maskStep m, false)
/-- MWAIT (R295, R296): the run ends where an issuing thread goes on waiting. -/
def execMwait (c : Ctl) (m : Nat) (s : State) : Out1 :=
  issue c (.mwait c m) 1 s fun e => do
    let g := e.s.group e.p e.gi
    let mem := e.act.filter fun n => (mget {} g.masks m).members.toNat.testBit n
    if mem.isEmpty then pure (e.s, false)
    else
      let g := ((g.modMask m fun k => { k with arrived := k.arrived ||| maskOf mem }).modThreads mem fun t => { t with st := .mwaiting m }).maskStep m
      if g.deadlocked then throw (.trap { cause := 0x18, info := m })
      pure (e.s.setGroup e.p e.gi g, mem.any fun n => (g.thread? n).any fun t => t.st == .mwaiting m)
/-- MASK.rd and MASK.tst (R316). -/
def execMaskRd (c : Ctl) (dst : Dst) (m : Nat) (s : State) : Out1 :=
  issue c (.maskRd c dst m) 1 s fun e =>
    let v := (mget {} e.g.masks m).members
    .ok (e.write 2 (dstWrites dst 2 (e.act.map fun n => (n, v))) [], false)
def execMaskTst (c : Ctl) (dst : Dst) (m : Nat) (s : State) : Out1 :=
  issue c (.maskTst c dst m) 1 s fun e =>
    let v := (mget {} e.g.masks m).members
    .ok (e.write 2 (dstWrites dst 1 (e.act.map fun n => (n, BitVec.ofNat 64 (b2n (v.toNat.testBit (e.thread n).lane))))) [], false)

/-! Values between lanes (R317 to R320). -/

/-- The lanes that a thread's instruction sees, with their values of an operand: lane number and value. -/
def Iss.seen (e : Iss) (vals : List LaneVals) (slot : Nat) : List (Nat × Nat) :=
  let ps := e.peers slot
  (vals.filter fun l => ps.contains l.slot).map fun l => ((e.thread l.slot).lane, l.a.toNat)
def execBallot (c : Ctl) (dst : Dst) (a : Src) (s : State) : Out1 :=
  issue c (.ballot c dst a) 1 s fun e =>
    let os := [(RdAs.w32, a)]
    let vals := e.read e.act os
    let ws := dstWrites dst 2 (e.act.map fun n => (n, maskOf (((e.seen vals n).filter fun x => x.2 != 0).map (·.1))))
    .ok (e.write 2 ws os, false)
/-- The result of a vote (R319). -/
def voteOf (k : VoteKind) (vs : List Nat) : Nat :=
  match k with
  | .all => b2n (vs.all (· != 0))
  | .any => b2n (vs.any (· != 0))
  | .same => b2n (vs.all (· == vs.headD 0))
  | .cnt => (vs.filter (· != 0)).length
def execVote (c : Ctl) (k : VoteKind) (dst : Dst) (a : Src) (s : State) : Out1 :=
  issue c (.vote c k dst a) 1 s fun e =>
    let os := [(RdAs.w32, a)]
    let vals := e.read e.act os
    let ws := dstWrites dst 1 (e.act.map fun n => (n, BitVec.ofNat 64 (voteOf k ((e.seen vals n).map (·.2)))))
    .ok (e.write 2 ws os, false)
/-- The lane from which SHFL takes lane l's value (R320). -/
def shflLane (k : ShflKind) (w l b : Nat) : Nat :=
  let j := l % w
  let t := match k with
    | .lane => b % w
    | .rotu => (j + w - b % w) % w
    | .rotd => (j + b) % w
    | .xor => j ^^^ (b % w)
  l - j + t
def execShfl (c : Ctl) (k : ShflKind) (seg : Nat) (dst : Dst) (a b : Src) (s : State) : Out1 :=
  issue c (.shfl c k seg dst a b) 1 s fun e =>
    let os := [(RdAs.w32, a), (.w32, b)]
    let vals := e.read e.act os
    let w := 64 / 2 ^ seg
    let ws := dstWrites dst 1 (vals.map fun l =>
      let from_ := shflLane k w (e.thread l.slot).lane l.b.toNat
      let v := ((e.seen vals l.slot).find? fun x => x.1 == from_).elim l.a.toNat (·.2)
      (l.slot, BitVec.ofNat 64 v))
    .ok (e.write 4 ws os, false)

/-! Exits and retirement (R283, R310, R356). -/

/-- The operations of a workgroup that has retired: they go on without registers to write, under identifiers and thread numbers
of their own (R283). -/
def State.orphan (s : State) (p : Nat) (w : Workgroup) : State :=
  let base := (s.core p).orphans.nextOp
  let shift := 2 ^ 32 * (s.draws + 1)
  let olds : List (Nat × Op) := w.groups.zipIdx.flatMap fun g => g.1.ops.map fun o => (g.2, o)
  let news := olds.mapIdx fun i x =>
    let (gi, o) := x
    let slot (n : Nat) : Nat := shift + 64 * gi + n
    { o with id := base + i, tok := none, writes := [], act := o.act.map slot, head := [], launch := w.launch, wg := w.wg, twin := none
             lanes := o.lanes.map fun l => { l with slot := slot l.slot }
             args := match o.i with | .bcopy _ _ | .bcopym _ _ => o.args.map (shift + ·) | _ => o.args }
  -- Writes that wait at a chunk's home keep their turn under their new names (R191).
  let writer (x : Writer) : Writer := match x with
    | .lane q gi id slot => if q = p && gi < guestIx then (match olds.findIdx? fun y => y.1 == gi && y.2.id == id with
        | some i => .lane p orphanIx (base + i) (shift + 64 * gi + slot)
        | none => x) else x
    | .segment q k g j => if q = p && k < 2 ^ 32 then .segment p (shift + k) g j else x
    | x => x
  let s : State := { s with stalls := s.stalls.map fun e => (e.1, writer e.2) }
  let moved (gi id : Nat) : Nat × Nat := match olds.findIdx? fun x => x.1 == gi && x.2.id == id with
    | some i => (orphanIx, base + i)
    | none => (orphanIx, 2 ^ 64)
  s.modCore p fun c =>
    let aop (o : AOp) : AOp :=
      let (g, i) := moved o.group o.op
      match o.kind with
      | .mma j => { o with kind := .mma { j with refs := j.refs.map fun r => moved r.1 r.2 } }
      | _ => { o with group := g, op := i }
    let left := w.copies.filter fun x => !x.slices.all fun y => y.act.isEmpty
    { c with
      orphans := { c.orphans with ops := c.orphans.ops ++ news, nextOp := base + news.length }
      past := c.past ++ left.map fun x => { x with k := shift + x.k }
      locks := c.locks.map fun l => if l.2.opc != 0xAB && left.any (·.k == l.2.k) then (l.1, { l.2 with k := shift + l.2.k }) else l
      arr := { c.arr with ops := c.arr.ops.map aop, kregs := [] } }

/-- Abandon a relocation that has not been remapped (R27, R251, R367): the target is free again. -/
def State.dropTarget (s : State) (p : Nat) : State :=
  match (s.core p).wg with
  | none => s
  | some w =>
    let s := match w.target with | some t => s.modCore t fun c => { c with reserved := false } | none => s
    s.modWg p fun w => { w with reloc := false, target := none, honoured := false }
/-- A workgroup retires (R283): failures of its matrix work are discarded and reported (R337), its barriers stop being valid, which ends the
waits on them (R253, R288), a core reserved for its move is free again (R367), its core is empty. -/
def State.retire (s : State) (p : Nat) : State :=
  match (s.core p).wg with
  | none => s
  | some w =>
    let s := s.dropTarget p
    let s := (s.arr p).fails.foldl (fun s f =>
      let s := s.discard p f f.job.rcd.tiles
      s.asyncFault w.ctx 5 0 w.launch w.wg f.job.rcd.pc.toNat 0) s
    let bars := (s.core p).dir.map (·.1)
    let s := bars.foldl (fun s b => s.detachAll w.home b) s
    let s := s.orphan p w
    let s := s.modCore p fun c => { c with wg := none, dir := [], lastCtx := some w.ctx, tbuf := [], twait := none, tgo := none }
    let s := bars.foldl (·.wakeOf w.home p ·) s
    let s := { s with launches := mmod s.launches w.launch fun l => { l with live := l.live - 1 } }
    State.settleCtx ((List.range 16).foldl (·.cbarCheck w ·) (s.startCopies p)) w.ctx
/-- The retirement of a workgroup whose groups have all ended; a tandem copy waits for its twin there (R467). -/
def State.tryRetire (s : State) (p : Nat) : State :=
  match (s.core p).wg with
  | none => s
  | some w =>
    if !w.groups.all (·.ended) then s
    else if w.tandem.isSome && !(s.core p).passed 0x2000 0 then s.reachCommit p 0x2000 0 [w.wg]
    else s.retire p

/-- Threads of a workgroup's group exit (R310): they leave every mask, are withdrawn from the declarations that they have not signed, and the last of a
group ends it (R283). An MMA that an exit issues enters array order as any other; where a failure stands on its sub-array it is held behind it
(R161; log entry 104). -/
def State.exitThreads (s : State) (p gi : Nat) (slots : List Nat) : State :=
  let s := s.modGroup p gi fun g =>
    let g := g.modThreads slots fun t => { t with st := .exited, inH := false }
    let m := maskOf slots
    let left (k : Mask) : Mask := { members := k.members &&& ~~~ m, arrived := k.arrived &&& ~~~ m }
    ((List.range 12).foldl (fun g n => Group.modMask g n left) g).maskSteps
  let s := s.modArr p fun a => slots.foldl (·.withdraw gi ·) a
  let s := (s.arr p).completed.foldl (·.issueMma p ·) s
  let s := s.leaveHandler p gi
  if (s.group p gi).ended then ((s.startCopies p).barDrop p).tryRetire p else s
/-- The sub-arrays that have no room for the MMAs whose sets an exit completes (R144, R157). -/
def State.exitWaits (s : State) (p gi : Nat) (slots : List Nat) : List Nat :=
  let a := slots.foldl (·.withdraw gi ·) (s.arr p)
  (a.completed.filterMap fun k => (mget {} a.kregs k).record).flatMap fun r => if a.hasRoom (qsOf r.qmask) true then [] else qsOf r.qmask
/-- Whether the exits of guests from some slots must wait: for an origin that is saved, or for room in its arrays. -/
def State.guestExitWaits (s : State) (p : Nat) (slots : List Nat) : Bool :=
  slots.any fun n => (((s.core p).guests.thread? n).bind (·.origin)).any fun o =>
    (s.homeOf o).isNone || !(s.exitWaits (s.phys o.core) o.group [o.lane]).isEmpty
/-- EXIT (R310, R356). -/
def execExit (c : Ctl) (s : State) : Out1 :=
  issue c (.exit c) 1 s fun e =>
    if e.guest then
      let os := e.act.filterMap fun n => (e.thread n).origin.map fun o => (n, o)
      if e.s.guestExitWaits e.p e.act then .error (.hold .origin)
      else .ok (os.foldl (fun s o =>
        (s.modGroup e.p e.gi (·.dropGuest o.1)).exitThreads (s.phys o.2.core) o.2.group [o.2.lane]) e.s, false)
    else match e.s.exitWaits e.p e.gi e.act with
    | q :: qs => .error (.hold (.array (q :: qs) true))
    | [] => .ok (if e.act.isEmpty then e.s else e.s.exitThreads e.p e.gi e.act, false)

/-! LAUNCH (R328): posted; what it does is decided with the queues. -/

def execLaunch (c : Ctl) (dst : Dst) (rec_ queue : Src) (s : State) : Out1 :=
  groupIssue c (.launch c dst rec_ queue) s fun e =>
    let os := [(RdAs.w64z, rec_), (.w32, queue)]
    let l := ((e.read [e.lowest] os).head?).getD ⟨e.lowest, []⟩
    let e := e.latched os
    e.post e.s c { i := .launch c dst rec_ queue, args := [l.a.toNat, l.b.toNat % 64] } (e.dsts dst 1)

end Sys2Proof.Machine
end

