-- ==== Sys2Proof/Machine/Migration.lean ====
section
/-! DEFINITION. Travelling threads and relocation (spec/14_migration.md R344 to R373): departure, slots, arrival, the
migration instructions, and the move of a workgroup to another core. -/

namespace Sys2Proof.Machine

/-! The live set (R361). -/

/-- MIGSET. -/
def execMigset (c : Ctl) (live : BitVec 48) (s : State) : Out1 :=
  issue c (.migset c live) 1 s fun e =>
    .ok (e.s.modGroup e.p e.gi fun g => g.modThreads e.act fun t => { t with live := live }, false)

/-! Leaving (R346, R350, R351). -/

/-- The registers that a travelling instruction names as store data, as a CAS block, or as destination (R346), by code. -/
def carriedBy (i : Instr) : List Nat :=
  if i.moves then []
  else
    let u := i.usesOf
    ((u.srcs.drop 1).flatMap fun e => e.1.codes e.2) ++ u.writes
/-- The carried set of a lane's hop: the live set and the instruction's registers, in ascending order. -/
def carriedSet (i : Instr) (t : Thread) : List Nat :=
  match i with
  | .migret _ => t.carried
  | _ =>
    let rs := liveRegs t.live ++ (carriedBy i).filter (· < 0x80)
    (List.range 128).filter rs.contains

/-- Where a lane goes: for MIGRET its origin core, else the home of its access. -/
def State.dest (s : State) (p gi : Nat) (o : Op) (l : LaneOp) : Option Nat :=
  match o.i with
  | .migret _ => ((s.group p gi).thread? l.slot).bind fun t => t.origin.map (·.core)
  | _ => s.travelTo p gi l
/-- Whether a hop to a core brings a guest back to its origin (R344). -/
def Thread.returns (t : Thread) (dest : Nat) : Bool := t.origin.any (·.core == dest)
/-- The reason for which a lane is refused at the drain (R350, R351). -/
def refusedAtDrain (i : Instr) (t : Thread) (dest : Nat) : Option Nat :=
  if (match i with | .migret _ => true | _ => false) then none
  else if (carriedBy i).any fun k => decide (0x80 ≤ k) && decide (k < 0xC0) then some 6
  else if 24 < (carriedSet i t).length then some 5
  else if !t.returns dest && decide (4 ≤ t.hop) then some 1
  else none

/-- The operation of a group with a travelling lane for which a condition holds. -/
def Group.travelling (g : Group) (f : Trav → Bool) : Option Op := g.ops.find? fun o => o.lanes.any fun l => f l.trav && !l.done

/-- Whether the drain before a departure is over (R346): earlier operations counted down and, the departure being a release at
.dev, performed (R222). -/
def State.departReady (s : State) (p gi : Nat) (o : Op) : Bool :=
  ((s.group p gi).ops.takeWhile fun x => x.id != o.id).all (·.tok.isNone)
    && !o.act.any fun n => s.waitsAs p gi { reads := true, order := .rel, level := 4 } o n none

/-- Whether a core is being relocated: requests and returns wait for the remap (R372). -/
def State.moving (s : State) (lc : Nat) : Bool := (s.core (s.phys lc)).wg.any (·.honoured)
/-- Whether the origin of a return is placed, with the thread away (R358). -/
def State.originPlaced (s : State) (a : Pannier) : Bool :=
  (s.homeOf a.origin).any fun w => ((w.groups[a.origin.group]?).bind (·.thread? a.origin.lane)).any (·.st == .away)

/-! Going home (R355, R358, R359). -/

/-- Bytes of a frame slot (R397). -/
def slotSpan : Nat := 2 ^ 23
/-- The place of a frame slot of a context. -/
def State.slotKey (s : State) (ctx slot : Nat) : Nat :=
  let d := (s.ctx ctx).desc
  stackKey d.frstack ((d.frbase + slot) * 2 ^ 23)
/-- The bytes of a pannier (R347 to R349). -/
def Pannier.bytes (a : Pannier) : Nat :=
  let o := a.origin
  let head := a.pc.toNat % 2 ^ 57 + 2 ^ 64 * (a.addr % 2 ^ 57) + 2 ^ 128 * a.live.toNat + 2 ^ 176 * o.core + 2 ^ 186 * o.group
    + 2 ^ 192 * o.lane + 2 ^ 198 * a.hop + 2 ^ 201 * o.ctx + 2 ^ 207 * a.kind + 2 ^ 209 * a.cause
  head + 2 ^ 256 * (a.p.toNat + 2 ^ 24 * a.memb) + 2 ^ 320 * a.regs.foldr (fun r n => r.2.toNat + 2 ^ 32 * n) 0
/-- Lanes rounded up to a multiple of 16 (R447). -/
def lanesUp (threads : Nat) : Nat := (threads + 15) / 16 * 16
/-- The place of a pannier stored for a thread (R447). -/
def pannierSlot (w : Workgroup) (group lane : Nat) : Nat :=
  0x6D0000 + 0x20000 * (group % 4) + 256 * (lanesUp w.threads * (group / 4) + lane)

/-- MEMB of a thread: the masks at its origin that it is a member of (R349, R357). -/
def State.membOf (s : State) (o : Origin) : Nat :=
  let masks := ((s.originWg o).bind (·.groups[o.group]?)).elim [] (·.masks)
  (List.range 12).foldl (fun a j => a + 2 ^ j * b2n ((mget {} masks j).members.toNat.testBit o.lane)) 0
/-- The pannier of a guest that goes home other than by its own instruction: with its trap (KIND 2), or to resume (R355, R358). -/
def State.homePannier (s : State) (p : Nat) (th : Thread) (o : Origin) : Pannier :=
  let trap := th.bound.bind id
  { kind := if trap.isSome then 2 else 0, cause := trap.elim 0 (·.cause), origin := o, hop := 0, live := th.live, pc := th.pc, p := th.p
    memb := s.membOf o, regs := th.regsOf th.carried, dest := o.core, slot := th.slot, fromCore := s.logical p, fromGroup := guestIx, trap
    cycHigh := th.cycHigh, timeHigh := th.timeHigh }
/-- Whether a thread of the guest group has an operation that still has something to do for it. -/
def Group.unfinished (g : Group) (slot : Nat) : Bool := g.ops.any fun o =>
  o.act.contains slot && (o.tok.isSome || o.lanes.isEmpty || o.lanes.any fun l => l.slot == slot && !l.done)
/-- Whether a core has passed to another context than a guest's (R341, R358). -/
def State.handedOver (s : State) (p ctx : Nat) : Bool :=
  (s.core p).wg.isNone && (s.partOf (pdie p)).any fun e => e.2.cur.any (· != ctx)
/-- Store a pannier in the frame of its saved origin (R358, R447). -/
def State.storePannier (s : State) (a : Pannier) : State :=
  let mine (u : Saved) : Option (Workgroup × Nat) := u.units.find? fun x => x.1.owns a.origin
  match s.saved.findSome? mine with
  | none => s
  | some (w, slot) =>
    let base := s.slotKey w.ctx slot
    let s := s.write (base + pannierSlot w a.origin.group a.origin.lane) 256 (a.bytes % 2 ^ 2040 + 2 ^ 2040)
    let s := s.write (base + 44) 4 (s.read (base + 44) 4 + 1)
    { s with saved := s.saved.map fun u => if (mine u).isSome then { u with panniers := u.panniers ++ [a] } else u }
/-- A bound guest leaves once its operations are over and its departure has released (R222, R355, R359): for its origin; while that is
saved it waits here with its slot, or, the core handed over, its pannier is stored (R358). A thread whose workgroup is no more is gone with
it (log entry 88). -/
def State.sendBound (s : State) (p : Nat) (th : Thread) (o : Origin) : State :=
  let g := s.group p guestIx
  let own : Op := { i := .nop ⟨none, false, false, 0⟩, id := g.nextOp, act := [th.slot] }
  if g.unfinished th.slot || s.waitsAs p guestIx { reads := true, order := .rel, level := 4 } own th.slot none || s.moving o.core then s
  else
    let a := s.homePannier p th o
    let left := (s.modGroup p guestIx (·.dropGuest th.slot)).endIdle p
    if (s.homeOf o).isSome then { left with panniers := minsert s.panniers s.nextPannier a, nextPannier := s.nextPannier + 1 }
    else if (s.originWg o).isNone then left
    else if s.handedOver p o.ctx then left.storePannier a
    else s
/-- Every bound guest of a core. -/
def State.sendAllBound (s : State) (p : Nat) : State :=
  (s.core p).guests.threads.foldl (fun s th => match th.bound, th.origin with
    | some _, some o => s.sendBound p th o
    | _, _ => s) s

/-- TRAVEL_DRAIN_END (R346, R350): each lane is judged, a refused instruction traps, the others ask for their slots. In a guest group the
threads that are to go home leave as well. -/
def execTravelDrainEnd (core group : Nat) (s : State) : Out1 :=
  let s := s.draw
  let s := if group = guestIx then s.sendAllBound core else s
  let g := s.group core group
  match g.travelling (· == .due) with
  | none => .next s
  | some o =>
    if !s.departReady core group o then .next s
    else
      let judge (l : LaneOp) : LaneOp :=
        if l.trav != .due then l else
        match g.thread? l.slot, s.dest core group o l with
        | some t, some d => match refusedAtDrain o.i t d with
          | some r => { l with trav := .no, refused := some (0x12, r) }
          | none => { l with trav := .asked 1 }
        -- MIGCTL.OFF set meanwhile, or the home moved here: the access is performed in place.
        | _, _ => { l with trav := .no }
      let o := { o with lanes := o.lanes.map judge }
      let s := s.modGroup core group fun g =>
        { g.setOp o with hazards := g.hazards.filter fun h => h.op == some o.id }
      if o.lanes.any (·.refused.isSome) then .next (s.refuseDue core group o)
      else .next (s.modGroup core group (·.settleLanes))

/-- Guest slots of a logical core that are taken (R350, R353, R358): residents, panniers on their way to a slot, and guests
whose return waits for a saved origin. -/
def State.takenSlots (s : State) (lc : Nat) : List Nat :=
  (s.core (s.phys lc)).guests.threads.map (·.slot)
    ++ (s.panniers.filter fun e => e.2.dest == lc && e.2.origin.core != lc).map (·.2.slot)
    ++ (s.panniers.filter fun e => e.2.fromGroup == guestIx && e.2.fromCore == lc && e.2.dest == e.2.origin.core
        && !s.originPlaced e.2).map (·.2.slot)
def State.freeSlots (s : State) (lc : Nat) : List Nat :=
  let taken := s.takenSlots lc
  (List.range 64).filter fun n => !taken.contains n

/-- The partition of a logical core. -/
def State.partAt (s : State) (lc : Nat) : Option (Nat × Part) := s.partOf (dieOf lc)
/-- Why a core refuses a guest of a context at once (R350). -/
def State.refuses (s : State) (from_ dest ctx : Nat) : Option Nat :=
  if (s.partAt from_).map (·.1) != (s.partAt dest).map (·.1) then some 2
  else match (s.core (s.phys dest)).wg with
    | some w => if w.ctx == ctx then none else some 3
    | none => if (s.partAt dest).any (fun q => q.2.cur == some ctx) then none else some 3

/-- The lane leaves with a pannier (R346 to R349). -/
def State.depart (s : State) (p gi : Nat) (o : Op) (l : LaneOp) (t : Thread) (dest slot : Nat) : State :=
  let lc := s.logical p
  let mine : Origin :=
    { ctx := s.ctxAt p gi t.slot, core := lc, group := gi, lane := t.lane, launch := (s.core p).wg.elim 0 (·.launch), wg := (s.core p).wg.elim 0 (·.wg) }
  let origin := t.origin.getD mine
  let back := t.returns dest
  let access := !o.i.moves
  let pan : Pannier :=
    { kind := if access then 1 else 0, origin, hop := if back then 0 else t.hop + 1, live := t.live
      addr := if access then l.va else 0, pc := if access then o.pc else nextPC o.pc, p := t.p, memb := s.membOf origin
      cycHigh := t.cycHigh, timeHigh := t.timeHigh, regs := t.regsOf (carriedSet o.i t), dest, slot, fromCore := lc, fromGroup := gi, op := some o.id
      acc := if access then some { o with lanes := [{ l with trav := .no }], tok := none, writes := [], head := [], stage := 0, args := [], probes := [], ticket := none
                                          ue := none, twin := none, shadow := false } else none }
  let s := { s with panniers := minsert s.panniers s.nextPannier pan, nextPannier := s.nextPannier + 1 }
  let o := o.setLane { l with trav := .gone, done := !access }
  let s := s.modGroup p gi fun g =>
    let g := { g.setOp o with hazards := g.hazards.filter fun h => h.slot != t.slot }
    if t.origin.isSome then g.dropGuest t.slot else g.modThread t.slot fun u => { u with st := .away, cur := dest }
  match (s.group p gi).op? o.id with
  | some o => if o.lanes.all (·.done) then s.putOp p gi o else s.modGroup p gi (·.settleLanes)
  | none => s

/-- A lane that has exhausted its requests (R350): it falls back, or is refused with reason SLOTS. -/
def State.exhausted (s : State) (p gi : Nat) (o : Op) (l : LaneOp) (ctx : Nat) : State :=
  let x := s.ctx ctx
  if (l.tier == .glob && pteTravel l.leaf) || x.noFall then
    let o := o.setLane { l with trav := .no, refused := some (0x12, 4) }
    (s.modGroup p gi (·.setOp o)).refuseDue p gi o
  else
    let s := if o.i.moves then s else s.modCtx ctx fun x => { x with falls := min 0xFFFF (x.falls + 1) }
    let o := o.setLane { l with trav := .fell, done := o.i.moves }
    if o.lanes.all (·.done) then s.putOp p gi o else s.modGroup p gi fun g => (g.setOp o).settleLanes

/-- SLOT_REQUEST_ANSWER (R350). -/
def execSlotRequestAnswer (core group lane : Nat) (s : State) : Out1 :=
  let s := s.draw
  let g := s.group core group
  match g.ops.findSome? fun o => (o.lanes.find? fun l => l.slot == lane && (match l.trav with | .asked _ => true | _ => false)).map fun l => (o, l) with
  | none => .next s
  | some (o, l) => match g.thread? lane, s.dest core group o l with
    | some t, some d =>
      let ctx := s.ctxAt core group lane
      if s.moving d then .next s
      else if t.returns d then
        -- R358: a return waits here while its origin's workgroup is not placed; from a core that is handed over it goes into the frame.
        let left := s.depart core group o l t d t.slot
        if (t.origin.bind s.homeOf).isSome then .next left
        else .next (if s.handedOver core ctx then (mfind left.panniers s.nextPannier).elim left fun a =>
          State.storePannier { left with panniers := merase left.panniers s.nextPannier } a else s)
      else match s.refuses (s.logical core) d ctx with
        | some r =>
          let o := o.setLane { l with trav := .no, refused := some (0x12, r) }
          .next ((s.modGroup core group (·.setOp o)).refuseDue core group o)
        | none => match s.freeSlots d with
          | n :: _ => .next (s.depart core group o l t d n)
          | [] => match l.trav with
            | .asked n =>
              if 17 ≤ n then .next (s.exhausted core group o l ctx)
              else .next (s.modGroup core group (·.setOp (o.setLane { l with trav := .again n s.ticks })))
            | _ => .next s
    | _, _ => .next (s.modGroup core group fun g => (g.setOp (o.setLane { l with trav := .no })).settleLanes)
/-- SLOT_REQUEST_RETRY (R350): 256 ticks after a refusal for now. -/
def execSlotRequestRetry (core group lane : Nat) (s : State) : Out1 :=
  let s := s.draw
  let g := s.group core group
  match g.ops.findSome? fun o => (o.lanes.find? fun l => l.slot == lane && (match l.trav with | .again _ _ => true | _ => false)).map fun l => (o, l) with
  | some (o, l) => match l.trav with
    | .again n t => .next (if t + 256 ≤ s.ticks then s.modGroup core group (·.setOp (o.setLane { l with trav := .asked (n + 1) })) else s)
    | _ => .next s
  | none => .next s

/-! Arriving (R352, R355, R357). -/

/-- What comes of a travelling access where it is performed: it waits, its lane is refused, or it is over, with what reaches the destination
register and the class of the poison that it met. -/
inductive TravelEnd where
  | wait | refused (cause : Nat) | performed (v : Option DWord) (ue : Option Nat)
deriving DecidableEq, Repr
/-- The access of a pannier at the home of its line (R196, R197, R352): as a lane's there, but that the thread is away, so its scope is at least .dev
(R200) and none of its accesses is before it. -/
def State.travelAccess (s : State) (i p : Nat) (lower : Bool) (o : Op) (l : LaneOp) : State × TravelEnd :=
  let k := o.i.accKind.getD {}
  let lvl := o.level guestIx
  let glob := l.tier == .glob
  match s.placeNow guestIx l with
  | (none, gone) => (s, if gone then .performed (if k.reads then some (BitVec.ofNat 64 (Config.freeNat s.draws (site 6 l.slot))) else none) none else .wait)
  | (some a, _) =>
    let (op, ty) := o.i.rmw
    let old := s.read a l.size
    let failing := k.reads && k.writes && op == .cas && old != l.v2.toNat
    let releases := k.order.releases && !failing
    if glob && s.flagged.contains (a / 2 ^ 16) then (s, .refused 0x0E)
    else if glob && k.writes && s.sealedAt o.ctx l.va l.size then (s, .refused 0x0D)
    else if (releases && s.relWaits p lvl none) || (lower && k.writes && !k.reads)
        || (glob && (!s.reaches (pdie p) a || (s.core p).l1Pending none a l.size || s.leaseWaits a l.size k.writes)) then (s, .wait)
    else if k.writes && !failing && glob && s.mustStall l.leaf a (.pannier i) then (s.stall a (.pannier i), .wait)
    else
      let s := s.unstall (.pannier i)
      let after (s : State) : State := if releases then s.publish lvl else s
      let moved (s : State) : State := if glob then s.transfer p o.ctx l.leaf a l.size k.writes else s
      if k.writes && !k.reads then
        let (s, o) := s.storeHome p lvl o l a
        (after s, .performed none (o.ue.map (·.2.1)))
      else match s.poisonAt a l.size with
        | some cls => (moved s, .performed (some (poisonLoad o.i.loadWidth cls)) (some cls))
        | none =>
          if !k.writes then (after (moved s), .performed (some (extendLoad o.i.loadWidth old)) none)
          else
            let new := rmwNew op ty old (l.v.toNat % 256 ^ l.size) (l.v2.toNat % 256 ^ l.size)
            (after (if failing then moved s else s.writeHome p lvl o l a new), .performed (some (BitVec.ofNat 64 old)) none)

/-- The thread of a pannier is installed (R352, R357): in the reserved guest slot, or in its origin entry. Its arrival is an acquire at .dev
(R222). -/
def State.install (s : State) (p : Nat) (a : Pannier) (v : Option DWord) : State :=
  let (dst, words) := (a.acc.map (·.i.accDst)).getD (.none, 1)
  let back := a.dest == a.origin.core
  let slot := if back then a.origin.lane else a.slot
  let gi := if back then a.origin.group else guestIx
  let pc := if a.kind = 1 then nextPC a.pc else a.pc
  let put (t : Thread) : Thread :=
    { t with x := a.regs.foldl (fun x r => mset 0 x r.1 r.2) t.x, p := a.p, live := a.live, hop := a.hop, pc := pc
             st := .ready, wait := 0, target := none, returned := none, cycHigh := a.cycHigh, timeHigh := a.timeHigh
             carried := if back then [] else a.regs.map (·.1) }
  let s := s.modGroup p gi fun g =>
    let g := if back then g.modThread slot put
      else { g with threads := g.threads ++ [put { slot, lane := a.origin.lane, pc := a.pc, origin := some a.origin }] }
    let ws := match v with | some v => dstWrites dst words [(slot, v)] | none => []
    (ws.foldl (fun g w => g.setReg w.slot w.code w.v) g).maskSteps
  (s.acquire p gi [slot] 4).count a.origin.ctx 22 1

/-- The operation whose lane a pannier carries, in the group that issued it: a guest group of a core, or the thread's own group, placed or
saved (R342, R352). -/
def State.issued (s : State) (a : Pannier) : Option Op :=
  a.op.bind fun id =>
    if a.fromGroup = guestIx then (s.core (s.phys a.fromCore)).guests.op? id
    else (s.originWg a.origin).bind fun w => (w.groups[a.fromGroup]?).bind (·.op? id)
/-- Whether that group is on a core now. -/
def State.issuerPlaced (s : State) (a : Pannier) : Bool := a.fromGroup == guestIx || (s.homeOf a.origin).isSome
/-- A saved group after a lane of one of its operations has arrived: the last one removes the count (R234, R342, R352). -/
def Group.arrivedSaved (g : Group) (o : Op) : Group :=
  if !o.lanes.all (·.done) then g.setOp o
  else
    let g := match o.tok with | some t => g.unpost t | none => g
    let g := g.dropOp o.id
    match o.ue with
    | some (n, cls, va) => { g with deferred := g.deferred ++ [{ cause := 0x17, info := cls, lane := some n, addr := va, defer := true, xpc := o.pc.toNat }] }
    | none => g
/-- The lane's operation at the group that issued it: its count is removed at the arrival (R234, R352). -/
def State.arrivedOp (s : State) (a : Pannier) (o : Op) : State :=
  if s.issuerPlaced a then s.putOp (s.phys a.fromCore) a.fromGroup o
  else
    let unit (x : Workgroup × Nat) : Workgroup × Nat :=
      if x.1.owns a.origin then ({ x.1 with groups := lmod x.1.groups a.fromGroup (·.arrivedSaved o) }, x.2) else x
    { s with saved := s.saved.map fun u => { u with units := u.units.map unit } }
/-- The access that a pannier carries. -/
def Pannier.access (a : Pannier) : Option (Op × LaneOp) := a.acc.bind fun o => o.lanes.head?.map fun l => (o, l)
/-- The lane that a pannier carries, in the operation that it left. -/
def State.issuedLane (s : State) (a : Pannier) : Option (Op × LaneOp) := a.access.bind fun x => (s.issued a).bind fun o =>
  (o.lanes.find? fun m => m.trav == .gone && m.lane == x.2.lane && m.va == x.2.va && !m.done).map fun m => (o, m)
/-- Whether a lower lane of the instruction, in place or travelling, has still to store to bytes of a pannier's lane (R196). -/
def State.lowerTravels (s : State) (i : Nat) (a : Pannier) (o : Op) (l : LaneOp) : Bool :=
  (s.issued a).any (fun x => x.issued == o.issued && x.lowerFirst l 6)
    || s.panniers.any fun e => e.1 != i && e.2.acc.any fun x => x.issued == o.issued && x.ctx == o.ctx && x.lowerFirst l 6
/-- A pannier is discarded with its thread (R472): its lane has nothing more to do at the group that issued it. -/
def State.discardPannier (s : State) (i : Nat) (a : Pannier) : State :=
  let s := { s with panniers := merase s.panniers i }
  match s.issuedLane a with
  | some (o, m) => s.arrivedOp a { o with lanes := o.lanes.map fun l => if l == m then { l with done := true } else l }
  | none => s
/-- The trap that a thread has carried home is raised in its group (R355). -/
def State.homeTrap (s : State) (p : Nat) (a : Pannier) : State :=
  match a.trap with
  | some t => if a.kind = 2 then takeTrap s p a.origin.group [a.origin.lane] a.pc t else s
  | none => s
/-- The lane of an operation that a pannier carried is over at the group that issued it, with the poison it met: an .sc operation without numbers still
has its own fence after the lanes in place (R213), one with numbers passes them (R214). Where a refusal has dropped the operation, the error is
raised in the thread's group. -/
def State.laneArrived (s : State) (a : Pannier) (ue : Option Nat) : State :=
  match s.issuedLane a, a.access with
  | some (o, m), _ =>
    let o := o.setLane { m with done := true }
    let o := ue.elim o (o.meet m ·)
    let all := o.lanes.all (·.done)
    if all && (o.i.accKind.getD {}).order == .sc && o.ticket.isNone && !o.stays.isEmpty && s.issuerPlaced a then
      s.modGroup (s.phys a.fromCore) a.fromGroup (·.setOp { o with stage := 4, args := [s.cadence] })
    else (if all then s.ticketPass o else s).arrivedOp a o
  | none, some (o, l) => ue.elim s fun cls =>
      s.deferTrap (s.phys a.dest) (if a.dest == a.origin.core then a.origin.group else guestIx) o { cause := 0x17, info := cls, lane := some l.lane, addr := l.va }
  | _, _ => s
/-- A pannier's thread goes on, its access over (R352). -/
def State.arrive (s : State) (i p : Nat) (a : Pannier) (v : Option DWord) (ue : Option Nat) : State :=
  (State.install { s with panniers := merase s.panniers i } p a v).laneArrived a ue
/-- A pannier's access is refused where it is performed: its thread is there, at the instruction, and traps (R194, R252, R355). -/
def State.arriveRefused (s : State) (i p : Nat) (a : Pannier) (l : LaneOp) (cause : Nat) : State :=
  let back := a.dest == a.origin.core
  let slot := if back then a.origin.lane else a.slot
  let s := (State.install { s with panniers := merase s.panniers i } p { a with kind := 0 } none).laneArrived a none
  takeTrap s p (if back then a.origin.group else guestIx) [slot] a.pc
    { cause, lane := some l.lane, addr := l.va, unperf := some (maskOf [slot]), addrs := [(slot, l.va)] }
/-- One event of a pannier's access: its stages before, the access, the fence after (R204, R213, R214, R352). -/
def State.travelStep (s : State) (i p : Nat) (a : Pannier) (o : Op) (l : LaneOp) : State :=
  let put (s : State) (a : Pannier) : State := { s with panniers := minsert s.panniers i a }
  match a.got with
  | some v => if o.args.headD 0 < s.cadence then s.arrive i p a v (o.ue.map (·.2.1)) else s
  | none =>
    if o.staged guestIx && decide (o.stage < 3) then
      if o.stage = 1 then (match o.probes.foldl (fun (x : Option State) q => x.bind (·.flushL1 q)) (some s) with
        | some s => put s { a with acc := some { o with stage := 3, probes := [] } }
        | none => s)
      else let (s, o) := s.nextStage p guestIx o; put s { a with acc := some o }
    else if o.stage = 3 && s.reprobe p guestIx o then put s { a with acc := some { o with stage := 1, probes := s.probeSet p (o.level guestIx) o.ctx } }
    else match s.travelAccess i p (s.lowerTravels i a o l) o l with
      | (s, .wait) => s
      | (s, .refused c) => (s.ticketPass o).arriveRefused i p a l c
      | (s, .performed v ue) =>
        if (o.i.accKind.getD {}).order == .sc && o.ticket.isNone then
          put s { a with got := some v, acc := some { o with stage := 4, args := [s.cadence], ue := ue.map fun c => (l.lane, c, l.va) } }
        else (s.ticketPass o).arrive i p a v ue
/-- PANNIER_ARRIVAL (R352): a thread of a launch that is being rolled back is discarded (R472); arrivals at a core that is being relocated, and returns
to an origin that is not placed, wait (R358, R372). -/
def execPannierArrival (i : Nat) (s : State) : Out1 :=
  let s := s.draw
  match mfind s.panniers i with
  | none => .next s
  | some a =>
    let p := s.phys a.dest
    if (mfind s.launches a.origin.launch).any (·.rolling) then .next (s.discardPannier i a)
    else if s.moving a.dest || (a.dest == a.origin.core && !s.originPlaced a) then .next s
    else match a.access with
      | none => .next ((State.install { s with panniers := merase s.panniers i } p a none).homeTrap p a)
      | some (o, l) => .next (s.travelStep i p a o l)

/-! The other migration instructions. -/

/-- The address of MIGTO and MIGQ, of each active lane. -/
def Iss.migReqs (e : Iss) (o : MigOps) : AccReq × List LaneReq × List (RdAs × Src) :=
  let tier : Tier := if o.cm then .cmem else .glob
  let os := [(baseAs tier, o.base)]
  ({ tier, n := 1, reads := true, writes := false, go := true, mayTravel := true, bare := true },
    (e.read e.act os).map fun l => { slot := l.slot, a := l.a.toNat + o.off.toInt }, os)
/-- MIGTO (R362): a lane that stays has no effect. -/
def execMigto (c : Ctl) (o : MigOps) (s : State) : Out1 :=
  issue c (.migto c o) 1 s fun e => do
    let (q, ls, os) := e.migReqs o
    let e := e.latched os
    let (s, los) ← e.locate q ls
    let los := los.map fun l => { l with done := !l.miss && l.trav != .due }
    if los.all (·.done) then .ok (s, false) else e.postAccess c q { i := .migto c o } los [] s false
/-- MIGRET (R363): the away threads' returns; the issue drains its group as a travelling one does. -/
def execMigret (c : Ctl) (s : State) : Out1 :=
  issue c (.migret c) 1 s fun e =>
    if !e.guest || e.act.isEmpty then .ok (e.s, false)
    else
      let los := e.act.map fun n => { slot := n, lane := (e.thread n).lane, va := 0, size := 0, trav := .due : LaneOp }
      let id := (e.s.group e.p e.gi).nextOp
      .ok ((e.enter e.s c { i := .migret c, lanes := los }).park e.p e.gi (.travel id), true)

/-- What MIGQ writes for a lane (R364). -/
def Iss.migQuery (e : Iss) (q : AccReq) (l : LaneReq) : Nat :=
  let s := e.s
  let t := e.thread l.slot
  let ctx := s.ctxAt e.p e.gi l.slot
  let cur := s.logical e.p
  let answer (h : Nat) : Nat :=
    let free := (s.freeSlots h).length
    let reason := if h = cur || t.returns h then 0
      else if 4 ≤ t.hop then 1
      else match s.refuses cur h ctx with
        | some r => r
        | none => if free = 0 then 4 else 0
    2 ^ 31 + 2 ^ 30 * b2n (h == cur) + 2 ^ 26 * reason + 2 ^ 16 * free + h
  match e.place q l with
  | none => 0
  | some o => match q.tier with
    | .cmem => answer o.lc
    | _ => match s.lineOf e.p ctx o.va with
      | none => 0
      | some (k, leaf) => if pteMemside leaf || pteLoc leaf != 0 then 2 ^ 31 + 2 ^ 30 + 2 ^ 10 else answer (guestCore k)
/-- MIGQ (R364): the state is that at the issue. -/
def execMigq (c : Ctl) (o : MigOps) (s : State) : Out1 :=
  issue c (.migq c o) 1 s fun e =>
    let (q, ls, os) := e.migReqs o
    let ws := dstWrites o.dst 1 (ls.map fun l => (l.slot, BitVec.ofNat 64 (e.migQuery q l)))
    let e := e.latched os
    e.post e.s c { i := .migq c o, writes := ws } (e.dsts o.dst 1)

/-! Relocation (R367 to R373). -/

/-- Whether a tandem workgroup's twin is in the cluster of a core (R369). -/
def State.twinNear (s : State) (w : Workgroup) (p : Nat) : Bool :=
  match w.tandem with
  | some (_, other) => clusterOf (s.logical p) == clusterOf other
  | none => false
/-- Enabled physical cores of a die, in order (R13). -/
def State.dieCores (s : State) (die : Nat) : List Nat := (List.range 128).map fun i => s.phys (128 * die + i)
/-- The target for a core's workgroup (R369): the coolest, the lowest on a tie. -/
def State.target (s : State) (p : Nat) (w : Workgroup) (cool : Nat) : Option Nat :=
  let ok := (s.dieCores (pdie p)).filter fun t => let c := s.core t
    c.wg.isNone && c.held.isNone && !c.reserved && decide (c.temp < cool) && !s.twinNear w t
  ok.foldl (fun b t => match b with
    | none => some t
    | some u =>
      let (a, b') := ((s.core t).temp, (s.core u).temp)
      if a < b' || (a == b' && t < u) then some t else some u) none
/-- Look for a target for a pending request (R369). -/
def State.seekTarget (s : State) (p : Nat) : State :=
  match (s.core p).wg, s.partOf (pdie p) with
  | some w, some (_, q) =>
    if !w.reloc || w.target.isSome then s
    else match s.target p w q.cool with
      | none => s
      | some t => (s.modWg p fun w => { w with target := some t }).modCore t fun c => { c with reserved := true }
  | _, _ => s
/-- A relocation request is set for a core's workgroup (R367). -/
def State.requestRelocation (s : State) (p : Nat) : State :=
  match (s.core p).wg, s.partOf (pdie p) with
  | some w, some (_, q) =>
    if w.reloc || q.relthOff || (s.core p).temp < q.level then s else (s.modWg p fun w => { w with reloc := true }).seekTarget p
  | _, _ => s

/-- Whether no group of a core, the guest group among them, holds a run or a suspended run (R370). -/
def Core.atBoundary (c : Core) : Bool := c.guests.run.isNone && c.wg.all fun w => w.groups.all (·.run.isNone)
/-- RELOCATION_HONOUR (R370), but not after a halt (R27, R372). A conversion pass is one event, so none is in flight between steps. -/
def execRelocationHonour (core : Nat) (s : State) : Out1 :=
  let s := s.draw
  let c := s.core core
  if c.wg.any (fun w => w.reloc && w.target.isSome && !w.honoured) && c.atBoundary && !s.halted (pdie core) then
    .next (s.modWg core fun w => { w with honoured := true })
  else .next s

/-- The n bytes from a place read as zero and hold no poison. -/
def State.clearPlaces (s : State) (k n : Nat) : State :=
  { s with mem := memClear s.mem k n, poison := s.poison.filter fun e => !(k / 32 ≤ e.1 && e.1 * 32 < k + n) }
/-- The bytes of two intervals of places are exchanged, with their poison. -/
def State.swapPlaces (s : State) (a b n : Nat) : State :=
  let gran (g : Nat) : Nat := if a / 32 ≤ g && g < (a + n) / 32 then g - a / 32 + b / 32
    else if b / 32 ≤ g && g < (b + n) / 32 then g - b / 32 + a / 32 else g
  { s with mem := memSwap s.mem a b n
           poison := s.poison.foldl (fun m e => minsert m (gran e.1) e.2) [] }
/-- Bytes of the private slices of a core: 65 groups of 64 lanes. -/
def privSpan : Nat := 65 * 64 * 512
/-- Bytes of a core's window. -/
def windowSpan : Nat := 2 ^ 22
/-- A core's window and private slices read as zero. -/
def State.clearWindows (s : State) (p : Nat) : State := (s.clearPlaces (windowKey p 0) windowSpan).clearPlaces (privKey p 0 0 0) privSpan
/-- What stays with the physical core when two cores exchange what they hold: sensor, caches, TLB, carve-out, context last used, calibration
(R371). -/
def Core.stayAs (moved here : Core) : Core :=
  { moved with
    temp := here.temp, tlb := here.tlb, l1 := here.l1, lastCtx := here.lastCtx, held := here.held, reserved := false, carve := here.carve
    arr := { moved.arr with subs := (moved.arr.subs.zip here.arr.subs).map fun x =>
      { x.1 with calDue := x.2.calDue, samples := x.2.samples, calTemp := x.2.calTemp, spares := x.2.spares } } }
/-- Two physical cores exchange their logical numbers; what names them otherwise follows (R371, R343). -/
def State.exchangeNames (s : State) (p t : Nat) : State :=
  let turn (n : Nat) : Nat := if n = p then t else if n = t then p else n
  let op (o : Op) : Op := { o with twin := o.twin.map fun x => (turn x.1, x.2), probes := o.probes.map turn }
  let grp (g : Group) : Group := { g with ops := g.ops.map op }
  let core (c : Core) : Core := { c with guests := grp c.guests, orphans := grp c.orphans
                                         wg := c.wg.map fun w => { w with groups := w.groups.map grp } }
  let writer (x : Writer) : Writer := match x with
    | .lane q g i n => .lane (turn q) g i n
    | .segment q k g j => .segment (turn q) k g j
    | .held q => .held (turn q)
    | x => x
  { s with cores := s.cores.map (fun e => (e.1, core e.2))
           stalls := s.stalls.map (fun e => (e.1, writer e.2))
           lmap := minsert (minsert s.lmap (s.logical p) t) (s.logical t) p
           focus := (turn s.focus.1, s.focus.2) }
/-- Two empty cores exchange their logical numbers and their guests, for a restore (R343). -/
def State.exchangeGuests (s : State) (p t : Nat) : State :=
  let gp := (s.core p).guests
  let gt := (s.core t).guests
  ((s.modCore t fun c => { c with guests := gp }).modCore p fun c => { c with guests := gt }).exchangeNames p t
/-- Two physical cores exchange what they hold and their logical numbers (R371). -/
def State.exchange (s : State) (p t : Nat) : State :=
  let cp := s.core p
  let ct := s.core t
  let s := (s.setCore t (cp.stayAs ct)).setCore p (ct.stayAs cp)
  ((s.swapPlaces (windowKey p 0) (windowKey t 0) windowSpan).swapPlaces (privKey p 0 0 0) (privKey t 0 0 0) privSpan).exchangeNames p t

/-- Whether a tile write of a core is in flight: it is first in the order of its sub-arrays and has not stopped at a long miss. One that stands
behind another operation, or behind such a write, goes with the workgroup and runs after it (R170, R371, R395; log entry 106). -/
def Core.writingTile (c : Core) : Bool := c.arr.ops.any fun a => match a.kind with
  | .write .. => c.arr.canRun a && !((c.group a.group).op? a.op).any fun o => o.lanes.any (·.long.isSome)
  | _ => false
/-- Whether the drain of R371 is over: no operation, but one with a lane held for replay, still writes a register, and no tile
write is in flight. -/
def Core.drainedForMove (c : Core) : Bool :=
  let held (o : Op) : Bool := o.lanes.any fun l => l.miss && !l.doneAt 1
  let busy (g : Group) : Bool := g.ops.any fun o => !held o && g.hazards.any fun h => h.op == some o.id && h.old.isNone
  !busy c.guests && !c.wg.any (fun w => w.groups.any busy)
    && !c.writingTile
/-- What a relocation leaves (R371): the target has the workgroup's carve-out, its L1 keeps sealed lines alone, none where the split changes
or another context used it (R182, R398); the old core is empty, with its own split, modes and L1 (log entry 89). -/
def State.afterMove (s : State) (old t : Nat) (w : Workgroup) (before : Core) : State :=
  let fresh := (s.core t).carve != w.carve || (s.core t).lastCtx != some w.ctx
  let s := (s.selfInvalidate t).modCore t fun c => { c with carve := w.carve, l1 := if fresh then [] else c.l1, lastCtx := some w.ctx }
  (s.clearWindows old).modCore old fun c =>
    { c with lastCtx := some w.ctx, arr := { subs := before.arr.subs.map fun x => { x with tiles := [] } } }
/-- RELOCATION_REMAP (R371), but not after a halt (R27, R372). -/
def execRelocationRemap (core : Nat) (s : State) : Out1 :=
  let s := s.draw
  let c := s.core core
  match c.wg with
  | none => .next s
  | some w => match w.target with
    | none => .next s
    | some t =>
      if !w.honoured || !c.drainedForMove || s.halted (pdie core) then .next s
      else
        let s := s.exchange core t
        let s := s.modWg t fun w => { w with reloc := false, target := none, honoured := false }
        .next ((s.afterMove core t w c).count w.ctx 23 1)

end Sys2Proof.Machine
end

