-- ==== Sys2Proof/Machine/Miss.lean ====
section
/-! DEFINITION. Demand misses as they are resolved, snapshots, and invalidation (spec/15_translation.md R389 to R396,
spec/09_memory_instructions.md R250 to R252, spec/18_containment.md R470, R471). -/

namespace Sys2Proof

/-- The class 3 instructions whose lanes can travel (R228, R234, R344). -/
def Instr.mayTravel : Instr → Bool
  | .ldg .. | .stg .. | .ldc .. | .stc .. | .migto .. => true
  | .atom _ _ o | .atomf _ _ o | .cas _ o => o.tier == .glob || o.tier == .cmem
  | _ => false

end Sys2Proof

namespace Sys2Proof.Machine

/-! Frame slots (R397). -/

/-- The lowest free frame slot of a context (which free slot a save takes is not stated). -/
def State.freeFrame (s : State) (ctx : Nat) : Option Nat :=
  let x := s.ctx ctx
  (List.range x.desc.frslots).find? fun n => !x.slots.contains n
def State.takeFrame (s : State) (ctx slot : Nat) : State := s.modCtx ctx fun x => { x with slots := x.slots ++ [slot] }
def State.dropFrame (s : State) (ctx slot : Nat) : State := s.modCtx ctx fun x => { x with slots := x.slots.filter (· != slot) }

/-- Copy n bytes between places, with their poison (R452, R455); n and both places are multiples of 32. What lies behind a lost structure reads as
poison and takes no store (R463). -/
def State.copyPlaces (s : State) (a b n : Nat) : State :=
  let s := s.readUe a n
  if s.lostAt b then s
  else
    let cells := s.mem.filter fun c => a ≤ c.1 && c.1 < a + n
    let bad := if s.lostAt a then (List.range (n / 32)).map fun i => (a / 32 + i, 0x0F) else s.poison.filter fun e => a / 32 ≤ e.1 && e.1 < (a + n) / 32
    let s := State.clearPoison { s with mem := cells.foldl (fun m c => memSet m (b + (c.1 - a)) c.2) (memClear s.mem b n) } b n
    bad.foldl (fun s e => s.enterPoison (b + (e.1 * 32 - a)) e.2) s

/-! Snapshots (R470, R471). -/

/-- The running restartable launch of a context. -/
def State.restarting (s : State) (ctx : Nat) : Option Nat :=
  (s.launches.find? fun e => e.2.ctx == ctx && e.2.rcd.restartable && e.2.running).map (·.1)
/-- A place for a page in a snapshot slot: a slot holds an index of 64 KiB and pages of one size. -/
def State.snapPlace (s : State) (ctx slot size : Nat) (snaps : List Snap) : Option Nat :=
  let mine := snaps.filter (·.slot == slot)
  if mine.any (·.size != size) then none
  else
    let base := s.slotKey ctx slot
    ((List.range (if size = 2 ^ 16 then 127 else 3)).map fun i => base + (if size = 2 ^ 16 then 2 ^ 16 else 2 ^ 21) * (i + 1)).find? fun k =>
      !mine.any (fun m => m.copy == k) && !s.anyRetired k size
/-- A launch loses restartability (R471): its snapshots are discarded, KIND 6 is reported. -/
def State.loseRestart (s : State) (id : Nat) : State :=
  match mfind s.launches id with
  | none => s
  | some l =>
    let s := (l.snaps.map (·.slot)).eraseDups.foldl (fun s n => s.dropFrame l.ctx n) s
    let s := { s with launches := mmod s.launches id fun l => { l with snaps := [], rcd := { l.rcd with restartable := false } } }
    s.asyncFault l.ctx 6 0 id 0 0 0
/-- The page engine copies a page before the first write to it (R470); HBM traffic is charged to the context (R407). -/
def State.snapshot (s : State) (ctx va size home : Nat) : State :=
  match s.restarting ctx with
  | none => s
  | some id => match mfind s.launches id with
    | none => s
    | some l =>
      let old := (l.snaps.map (·.slot)).eraseDups
      let tryIn (slot : Nat) : Option (Nat × Nat) := (s.snapPlace ctx slot size l.snaps).map fun k => (slot, k)
      let fresh := (List.range (s.ctx ctx).desc.frslots).filter fun n => !(s.ctx ctx).slots.contains n
      match (old ++ fresh).findSome? tryIn with
      | none => s.loseRestart id
      | some (slot, k) =>
        let s := if old.contains slot then s else s.takeFrame ctx slot
        let s : State := { s with launches := mmod s.launches id fun l => { l with snaps := l.snaps ++ [(⟨va, size, home, slot, k⟩ : Snap)] } }
        -- The slot's index tells of the page, in a form that is not given (log entry 34).
        let s := s.write (s.slotKey ctx slot + 8 * ((k - s.slotKey ctx slot) / 2 ^ 16)) 8 (Config.freeNat s.draws (site 41 0))
        ((s.copyPlaces home k size).count ctx 17 size).count ctx 18 size

/-! Short misses (R394). -/

/-- The kind of access of an operation's lanes (R384). -/
def Op.acc (o : Op) : Acc :=
  let k := o.i.accKind.getD {}
  if k.writes && k.reads then .rmw else if k.writes then .write else .read
/-- Whether a held lane waits for a page of a context. -/
def Op.heldOn (o : Op) (ctx page size : Nat) (l : LaneOp) : Bool :=
  o.ctx == ctx && l.miss && !l.done && l.key.isNone && l.refused.isNone && l.tier == .glob && l.va / size * size == page
/-- A held lane of a tandem copy's store or RED is translated: its write, held since the issue, has its place (R465). -/
def State.placeHeld (s : State) (p gi : Nat) (o : Op) (l : LaneOp) : State × LaneOp :=
  let mine (h : Held) : Bool := h.key.isNone && h.group == gi && h.op == o.id && h.slot == l.slot
  if !(s.core p).tbuf.any mine then (s, l)
  else (s.modCore p fun c => { c with tbuf := c.tbuf.map fun h => if mine h then { h with key := l.key, leaf := l.leaf, psize := l.psize } else h }, { l with done := true })
/-- A held lane translated again (R250, R252, R395). -/
def State.relook (s : State) (p gi : Nat) (o : Op) (l : LaneOp) : State × LaneOp :=
  let (s, r) := s.xlate p o.ctx l.va o.acc
  match r with
  | .hit k leaf psize =>
    let l := { l with key := some k, leaf, psize, long := none }
    -- R188, R194: a store that is ordered after a seal, or an access that meets a lost lease.
    if o.acc != .read && s.sealedAt o.ctx l.va l.size then (s, { l with refused := some (0x0D, 0) })
    else if s.flagged.contains (k / 2 ^ 16) then (s, { l with refused := some (0x0E, 0) })
    else if o.i.mayTravel && (s.travelTo p gi l).isSome then (s, { l with trav := .due })
    else s.placeHeld p gi o l
  | .refusedNow f | .missRefused f => (s, { l with refused := some (f.cause, f.reason), long := none })
  | .short page size => (s.shortMiss o.ctx page size o.acc.writes, { l with long := none })
  | .long page => (s.longMiss o.ctx l.va (if o.acc.writes then 1 else 0), { l with long := some page })
/-- The held lanes of one operation. -/
def State.relooks (s : State) (p gi : Nat) (o : Op) (f : LaneOp → Bool) : List LaneOp → State × List LaneOp
  | [] => (s, [])
  | l :: ls =>
    let (s, l') := if f l then s.relook p gi o l else (s, l)
    let (s, ls) := s.relooks p gi o f ls
    (s, l' :: ls)
/-- The groups of a core by index. -/
def Core.groupIxs (c : Core) : List Nat := (List.range (c.wg.elim 0 (·.groups.length))) ++ [guestIx, orphanIx]
/-- Whether a workgroup still has something that waits for a long miss (R251). -/
def Workgroup.longWaits (w : Workgroup) : List Nat := w.groups.flatMap fun g =>
  (match g.park with | some (.fetch page) => [page] | _ => [])
    ++ g.ops.flatMap fun o => o.longs.toList ++ o.lanes.filterMap fun l => if l.done then none else l.long
/-- Translate again every placed lane that a condition picks; refusals trap, and a workgroup with a long miss is frozen. -/
def State.replayLanes (s : State) (f : Op → LaneOp → Bool) : State :=
  let work : List (Nat × Nat × Nat) := s.cores.flatMap fun e => e.2.groupIxs.flatMap fun gi =>
    ((e.2.group gi).ops.filter fun o => o.lanes.any (f o)).map fun o => (e.1, gi, o.id)
  let s := work.foldl (fun s w =>
    match (s.group w.1 w.2.1).op? w.2.2 with
    | none => s
    | some o =>
      let (s, ls) := s.relooks w.1 w.2.1 o (fun l => f o l && l.refused.isNone) o.lanes
      let o := { o with lanes := ls }
      let s := s.modGroup w.1 w.2.1 (·.setOp o)
      if ls.any (·.refused.isSome) && (match o.i with | .ald .. => false | _ => true) then s.refuseDue w.1 w.2.1 o
      else (if o.lanes.all (·.done) && !o.lanes.isEmpty then s.putOp w.1 w.2.1 o else s).modGroup w.1 w.2.1 (·.settleLanes)) s
  { s with cores := s.cores.map fun e => (e.1, { e.2 with wg := e.2.wg.map fun w => { w with frozen := !w.longWaits.isEmpty } }) }

/-- What the page engine does next for a miss (R394): it walks, and zero-fills the frame of a fillable page or copies a page for its snapshot;
then it swaps the entry if it is as it was read. The miss is over where the walk finds anything else than a page to fill; the answer says so. -/
def State.resolveMiss (s : State) (k : Nat) (m : Miss) : State × Bool :=
  let keep (s : State) (m : Miss) : State := { s with misses := minsert s.misses k m }
  let ended (s : State) : State := { s with misses := merase s.misses k }
  match m.swap with
  | some (entry, e) =>
    if s.leaseWaits entry 8 true then (s, false)
    -- V = 1 and STATE 0 in place of STATE 2; an entry that has changed, or reads as poison, is walked again.
    else if (s.poisonAt entry 8).isSome || s.read entry 8 != e then (keep s { m with swap := none }, false)
    else (ended ((s.write entry 8 (e + 1 - 8)).count m.ctx 18 32), true)
  | none =>
    let t := s.walkMoves m.ctx m.page
    match s.walk m.ctx m.page with
    | .wait => (s, false)
    | .short size pte entry =>
      let home := stackKey (pteStack pte) (pteFrame pte)
      let t := if t.lostAt home then t else State.clearPoison { t with mem := memClear t.mem home size } home size
      (keep (t.count m.ctx 18 size) { m with swap := some (entry, pte) }, false)
    | .leaf size pte =>
      let va := m.page / size * size
      (ended (if m.write && t.snapDue m.ctx pte m.page size then t.snapshot m.ctx va size (leafKey pte size va) else t), true)
    | _ => (ended t, true)
/-- SHORT_MISS_RESOLVED (R394): a step of the page engine; when the miss is over, the lanes that wait for it meet what the walk finds. -/
def execShortMissResolved (miss : Nat) (s : State) : Out1 :=
  let s := s.draw
  match mfind s.misses miss with
  | none => .next s
  | some m => match s.resolveMiss miss m with
    | (s, false) => .next s
    | (s, true) => .next (s.replayLanes fun o l => o.heldOn m.ctx m.page m.size l && l.long.isNone)

/-! Long misses (R395). -/

/-- Whether an operation without lanes of its own waits for a page: a launch, a preload, a dot product at the column that it misses. -/
def Op.waitsPage (o : Op) (page : Nat) : Bool :=
  match o.i with
  | .launch .. => o.longs == some page
  | .wpre .. => o.args.getD 6 0 == page + 1
  | .bdot .. => let n := o.args.getD 3 0 - 1
                o.args.getD 3 0 != 0 && (o.args.getD (n % 2) 0 + 32 * (n / 2)) / 2 ^ 16 * 2 ^ 16 == page
  | _ => false
/-- Whether a copy waits for a page: for a record in it, or with a segment that missed there (R268). -/
def Copy.waitsPage (c : Copy) (page : Nat) : Bool :=
  let here (a n : Nat) : Bool := rangesMeet a n page (2 ^ 16)
  (!c.started && c.slices.any fun x => x.unread && here x.recordVa 64)
    || c.fix.any fun e => (c.slices.filter (·.group == e.1)).any fun x => (x.pieces (128 * e.2) (x.segLen e.2)).any fun y =>
        (y.src.any fun r => r.1 == 0 && here r.2.1 r.2.2) || (y.dst.1 == 0 && here y.dst.2.1 y.dst.2.2)
/-- A copy after the answer to a long miss of its context. -/
def Copy.answered (c : Copy) (page : Nat) (ok : Bool) : Copy := if !ok && c.waitsPage page then { c with host := page :: c.host } else c
/-- A group's lanes and fetch after the answer to a long miss: `ok` for RESOLVED; a refusal concerns what waits for the page (R395; log entry
28). -/
def Group.answered (g : Group) (ctx page : Nat) (ok fetches : Bool) : Group :=
  let lane (l : LaneOp) : LaneOp :=
    if l.long = some page then (if ok then { l with long := none } else { l with long := none, refused := some (0x10, 4) }) else l
  let g := { g with ops := g.ops.map fun o =>
      if o.ctx = ctx then
        { o with lanes := o.lanes.map lane, longs := o.longs.filter (· != page), host := if !ok && o.waitsPage page then page :: o.host else o.host }
      else o }
  let g := if !ok && fetches && g.run.any (·.why == some (.page ctx page)) then { g with hostPage := some page } else g
  if g.park = some (.fetch page) && fetches then { g.unpark with hostPage := if ok then g.hostPage else some page } else g
/-- The same for a core's record of a workgroup, placed or saved. -/
def Workgroup.answered (w : Workgroup) (ctx page : Nat) (ok : Bool) : Workgroup :=
  if w.ctx = ctx then
    { w with groups := w.groups.map fun g => g.answered ctx page ok true
             copies := w.copies.map (·.answered page ok) }
  else w
/-- The same for a launch queue that waits for the page. -/
def Queue.answered (x : Queue) (ctx page : Nat) (ok : Bool) : Queue :=
  if x.ctx = ctx && x.longs = some page then { x with longs := none, host := if ok then x.host else page :: x.host } else x
/-- The same for a launch whose counters wait for the page. -/
def Launch.answered (l : Launch) (ctx page : Nat) (ok : Bool) : Launch :=
  if l.ctx = ctx && l.longs.contains page then { l with longs := l.longs.filter (· != page), host := if ok then l.host else page :: l.host } else l

/-- FAULT_QUEUE_RESPONSE (R395): a nonzero RESP is observed and acted on, its entry is free, and a miss that waited for a free
entry is written. -/
def execFaultQueueResponse (part entry : Nat) (s : State) : Out1 :=
  let s := s.draw
  match s.part part with
  | none => .next s
  | some q => match q.fqBusy.find? (·.1 == entry) with
    | none => .next s
    | some (_, ctx, page, _) =>
      let resp := s.read (ctlKey (q.fqBase + 32 * entry + 12)) 4
      if resp = 0 then .next s
      else
        let ok := resp == 1
        let waiting := q.fqWait
        let s := s.modPart part fun q => { q with fqBusy := q.fqBusy.filter (·.1 != entry), fqWait := [] }
        let s := waiting.foldl (fun s w => s.faultPut part w.1 w.2.1 w.2.2) s
        let core (c : Core) : Core := { c with
          wg := c.wg.map (·.answered ctx page ok)
          guests := c.guests.answered ctx page ok ((c.guests.threads.head?.bind (·.origin)).any (·.ctx == ctx))
          orphans := c.orphans.answered ctx page ok false
          past := c.past.map fun x => if x.ctx = ctx then x.answered page ok else x }
        let unit (u : Saved) : Saved :=
          if u.ctx = ctx then
            { u with waits := u.waits.filter (· != page), units := u.units.map (fun x => (x.1.answered ctx page ok, x.2)) }
          else u
        let s : State := { s with cores := s.cores.map (fun e => (e.1, core e.2)), saved := s.saved.map unit,
                                   queues := s.queues.map fun e => (e.1, e.2.answered ctx page ok),
                                   launches := s.launches.map fun e => (e.1, e.2.answered ctx page ok) }
        -- Lanes of placed groups are translated again, or trap.
        .next (s.replayLanes fun o l => (o.heldOn ctx page (2 ^ 16) l && l.long.isNone) || (o.ctx == ctx && l.refused.isSome && l.miss && !l.done))

/-! Invalidation (R389 to R392, R433). -/

/-- The TLB entry by which a place was translated. -/
def entryOf (asid va size leaf : Nat) : TlbEntry := ⟨asid, va / size * size, size, leaf⟩
/-- Drop the TLB entries that a condition picks, in every core and walker, and mark what was translated by one of them, wherever it is and whether or
not the entry has been displaced since, and is not performed, with the number of this invalidation. -/
def State.dropEntries (s : State) (mine : Bool) (f : TlbEntry → Bool) : State :=
  let num := 2 * (s.invals + 1) + b2n mine
  let asid (c : Nat) : Nat := (s.ctx c).desc.asid
  let lane (c : Nat) (l : LaneOp) : LaneOp :=
    if l.tier == .glob && l.key.isSome && !l.done && f (entryOf (asid c) l.va l.psize l.leaf) then { l with invals := l.invals ++ [num] } else l
  let op (o : Op) : Op := { o with lanes := o.lanes.map (lane o.ctx) }
  let held (h : Held) : Held :=
    if h.tier = 0 && h.key.isSome && f (entryOf (asid h.ctx) h.va h.psize h.leaf) then { h with invals := h.invals ++ [num] } else h
  let grp (g : Group) : Group := { g with ops := g.ops.map op }
  let wg (w : Workgroup) : Workgroup := { w with groups := w.groups.map grp }
  let core (c : Core) : Core :=
    { c with tlb := c.tlb.filter (fun t => !f t), guests := grp c.guests, orphans := grp c.orphans, wg := c.wg.map wg, tbuf := c.tbuf.map held }
  { s with invals := s.invals + 1, cores := s.cores.map (fun e => (e.1, core e.2))
           saved := s.saved.map fun u => { u with units := u.units.map (fun x => (wg x.1, x.2)), cores := u.cores.map fun c => { c with tbuf := c.tbuf.map held } }
           panniers := s.panniers.map fun e => (e.1, { e.2 with acc := e.2.acc.map op })
           walkers := s.walkers.map fun e => (e.1, e.2.filter fun t => !f t) }
/-- Whether an access translated by an entry that an invalidation of some numbers has dropped is still to be performed (R390, R392). -/
def State.staleBy (s : State) (f : Nat → Bool) : Bool :=
  (s.everyOp ++ s.panniers.filterMap (·.2.acc)).any (fun o => o.lanes.any fun l => !l.done && l.invals.any f)
    || (s.cores.map (·.2) ++ s.saved.flatMap (·.cores)).any fun c => c.tbuf.any fun h => h.invals.any f
/-- The same for the broadcasts up to a number (R390), and for one TLBI (R392). -/
def State.staleUpTo (s : State) (n : Nat) : Bool := s.staleBy fun m => m % 2 == 0 && decide (m / 2 ≤ n)
def State.staleFor (s : State) (n : Nat) : Bool := s.staleBy (· == 2 * n + 1)

/-- INVALIDATE_BROADCAST (R389, R391): a page or range in units of 64 KiB, or a whole ASID. -/
def execInvalidateBroadcast (asid : Nat) (range : Option (Nat × Nat)) (s : State) : Out1 :=
  .next (s.dropEntries false fun t => t.asid == asid && (match range with
    | none => true
    | some (a, n) => rangesMeet t.base t.size a (n * 2 ^ 16)))
/-- SYNC (R390). -/
def execSync (n : Nat) (s : State) : Out1 := .next { s with syncs := s.syncs ++ [⟨n % 2 ^ 16, s.invals⟩] }
/-- SYNC_ACK (R390): in the order of the SYNCs. -/
def execSyncAck (n : Nat) (s : State) : Out1 :=
  match s.syncs with
  | y :: ys => .next (if y.n = n && !s.staleUpTo y.upto then { s with syncs := ys, outbox := s.outbox ++ [.syncAck n] } else s)
  | [] => .next s

end Sys2Proof.Machine
end

