-- ==== Sys2Proof/Machine/System.lean ====
section
/-! DEFINITION. Class 6 (spec/17_traps.md R425 to R437) and the system registers that SYSR and SYSW reach (R429, R430;
spec/06_matrix_instructions.md R171 to R174; spec/14_migration.md R366, R368; spec/16_identity_accounting.md R410, R412 to R417). -/

namespace Sys2Proof.Machine

/-! System registers. -/

/-- A word without some bits. -/
def keep (v : Word) (mask : Nat) : Word := v &&& BitVec.ofNat 32 mask
/-- The writable bits of a debug register (R434). -/
def debugMask (i : Nat) : Nat :=
  if i = 0x11F then 0xC000003F
  else if 0x118 ≤ i then [0xFFFFFFFF, 0x01FFFFFF, 0xE000001F].getD ((i - 0x118) % 3) 0
  else if i % 2 = 0 then 0xFFFFFFFF else 0x01FFFFFF
/-- Whether an index names a debug register. -/
def isDebug (i : Nat) : Bool := (decide (0x110 ≤ i) && decide (i ≤ 0x11D)) || i == 0x11F
/-- The features the package offers (R413). -/
def feat0 : Nat := 0x3F
/-- LINKSTAT and LINKERR (R417). -/
def Port.stat (p : Port) (i : Nat) : Nat :=
  2 ^ 31 * b2n p.up + 2 ^ 29 * p.rate + 2 ^ 25 * p.lanes + (if !p.up then 0 else 2 ^ 15 * (if i = 0 then 0x3FF else Config.peer i % 1024))
def Port.err (p : Port) : Nat := 2 ^ 20 * min 0xFFF p.crc + 2 ^ 8 * min 0xFFF p.replay + min 0xFF p.retrain
/-- RELTH (R368). -/
def Part.relth (q : Part) : Nat := 2 ^ 31 * b2n q.relthOff + 2 ^ 16 * q.cool + q.level
/-- ACCTL (R410). -/
def Ctx.acctl (x : Ctx) : Nat := 2 ^ 31 * b2n x.job.isSome + 2 ^ 30 * b2n x.dbgSeen + x.period

/-- What SYSR reads for a context at a core (R429). -/
def State.readSys (s : State) (p c i : Nat) : Nat :=
  let x := s.ctx c
  let core := s.core p
  if i = 0x100 then x.tveclo.toNat
  else if i = 0x101 then x.tvechi.toNat
  else if i = 0x102 then x.trecbase.toNat
  else if isDebug i then (if x.watch then (mget 0 x.debug i).toNat else 0)
  else if 0x200 ≤ i && i ≤ 0x205 then s.cktol c (i - 0x200)
  else if i = 0x206 then ckstatWord core.arr
  else if i = 0x207 then (if x.inj then core.arr.ckinj.toNat else 0)
  else if i = 0x300 then b2n x.ticket
  else if i = 0x310 then 2 ^ 31 * b2n x.migOff + 2 ^ 30 * b2n x.noFall + 2 ^ 23 * core.guests.threads.length + x.falls
  else if i = 0x311 then (s.part x.desc.part).elim 0 (·.relth)
  else if i = 0x320 then x.acctl
  else if i = 0x321 then x.acsat
  else if i = 0x330 then feat0
  else if i = 0x334 then x.accept % 2 ^ 32
  else if i = 0x335 then bits x.accept 63 32
  else if i = 0x336 then bits x.accept 95 64
  else if i = 0x337 then bits x.accept 127 96
  else if i = 0x400 then s.pkgid % 1024 + 2 ^ 16 * (s.domain % 1024)
  else if 0x500 ≤ i && i ≤ 0x549 then
    let k := (i - 0x500) / 2
    let port := mget {} s.ports k
    if !x.desc.sys then 0 else if i % 2 = 0 then port.stat k else port.err
  else if 0x4000 ≤ i && i ≤ 0x7FFF then
    -- R274: only the banks of the stacks of the partition's dies.
    if (s.partOf ((i - 0x4000) / 2048)).any (·.1 == x.desc.part) then (mget 0 s.berr (i - 0x4000)).toNat else 0
  else 0

/-- What a write of CKINJ does (R174): nothing without INJ rights. -/
def State.writeCkinj (s : State) (p c : Nat) (v : Word) : State :=
  if (s.ctx c).inj then s.modArr p fun a => { a with ckinj := keep v 0xFFFFC0FF } else s
/-- Whether a write of a debug register lacks its rights (R434). -/
def Ctx.debugDenied (x : Ctx) (i : Nat) (v : Word) : Bool := !x.watch || (i == 0x11F && bit v.toNat 31 && !x.step)
/-- What SYSW writes (R429): only the writable fields of the listed registers. -/
def State.writeSys (s : State) (p c i : Nat) (v : Word) : State :=
  if i = 0x100 then s.modCtx c fun x => { x with tveclo := v }
  else if i = 0x101 then s.modCtx c fun x => { x with tvechi := keep v 0x01FFFFFF }
  else if i = 0x102 then s.modCtx c fun x => { x with trecbase := keep v 0x003FFF81 }
  else if isDebug i then s.modCtx c fun x => { x with debug := mset 0 x.debug i (keep v (debugMask i)) }
  else if 0x200 ≤ i && i ≤ 0x205 then s.modCtx c fun x => { x with cktol := mset 0x00100000#32 x.cktol (i - 0x200) (keep v 0x00FFFFFF) }
  else if i = 0x206 then s.modArr p fun a => { a with seen := a.seen &&& (15 - bits v.toNat 19 16), fallback := bits v.toNat 15 0 }
  else if i = 0x207 then s.writeCkinj p c v
  else if i = 0x310 then s.modCtx c fun x => { x with migOff := bit v.toNat 31, noFall := bit v.toNat 30, falls := bits v.toNat 15 0 }
  else s

/-! The instructions (R426 to R433). -/

/-- An issue with an active thread (R426). -/
def sysIssue (c : Ctl) (i : Instr) (s : State) (body : Iss → Eff) : Out1 :=
  issue c i 1 s fun e => if e.act.isEmpty then .ok (e.s, false) else body e

def execTrap (c : Ctl) (code : Nat) (s : State) : Out1 :=
  sysIssue c (.trap c code) s fun _ => .error (.trap { cause := 0x1C, info := code })
def execBrk (c : Ctl) (code : Nat) (s : State) : Out1 :=
  sysIssue c (.brk c code) s fun _ => .error (.trap { cause := 0x1D, info := code })
/-- TRET (R428): it ends the run. -/
def execTret (c : Ctl) (next : Bool) (s : State) : Out1 :=
  issue c (.tret c next) 1 s fun e =>
    if e.act.isEmpty then .ok (e.s, true)
    else if !e.g.handler then .error (.trap trapIllegal)
    else
      let t : DWord := pairOf (e.reg e.lowest (0x80 + 62) 0) (e.reg e.lowest (0x80 + 63) 0)
      let t := if next then nextPC t else t
      if decide (2 ^ 57 ≤ t.toNat) || !pcAligned t then .error (.trap { trapMisaligned with addr := t.toNat })
      else .ok (e.s.trapReturn e.p e.gi e.act e.pc t, true)
/-- A result in every active lane, delivered when the token counts down (R426, R430). -/
def Iss.postSys (e : Iss) (c : Ctl) (i : Instr) (dst : Dst) (words v : Nat) (s : State) : Eff :=
  e.post s c { i, writes := dstWrites dst words (e.act.map fun n => (n, BitVec.ofNat 64 v)) } (e.dsts dst words)
def execSysr (c : Ctl) (dst : Dst) (idx : Nat) (s : State) : Out1 :=
  sysIssue c (.sysr c dst idx) s fun e => e.postSys c (.sysr c dst idx) dst 1 (e.s.readSys e.p e.ctx idx) e.s
/-- SYSW takes effect at its issue (R430). -/
def execSysw (c : Ctl) (a : Src) (idx : Nat) (s : State) : Out1 :=
  sysIssue c (.sysw c a idx) s fun e =>
    let v : Word := BitVec.ofNat 32 (e.low32 a)
    let e := e.latched [(.w32, a)]
    if isDebug idx && (e.s.ctx e.ctx).debugDenied idx v then .error (.trap trapPrivilege)
    else e.post (e.s.writeSys e.p e.ctx idx v) c { i := .sysw c a idx } []
/-- CNTR (R409, R431): the counter in the snapshot at the issue tick, which is complete with it. -/
def execCntr (c : Ctl) (dst : Dst) (n : Nat) (s : State) : Out1 :=
  sysIssue c (.cntr c dst n) s fun e =>
    e.postSys c (.cntr c dst n) dst 2 (if 28 ≤ n then 0 else mget 0 (e.s.ctx e.ctx).counters n) e.s.closeTick
/-- HALT (R432). -/
def execHalt (c : Ctl) (code : Nat) (s : State) : Out1 :=
  sysIssue c (.halt c code) s fun e =>
    if !(e.s.ctx e.ctx).desc.sys then .error (.trap trapPrivilege)
    else
      .ok (e.s.raiseHalt (pdie e.p) { cause := 0x86, tick := e.s.ticks, kind := 1, die := pdie e.p, index := e.p % 136, core := e.p
                                      trapGroup := e.gi, trapPc := code }, false)

/-- Whether a context may invalidate an ASID (R378, R392). -/
def State.mayTlbi (s : State) (c asid : Nat) : Bool :=
  let d := (s.ctx c).desc
  if d.sys then s.ctxs.any fun e => e.2.desc.valid && e.2.desc.asid == asid && e.2.desc.part == d.part
  else d.asid == asid
/-- TLBI (R392, R433): device-only entries are dropped at the issue; the operation keeps the number of the invalidation. -/
def tlbi (c : Ctl) (i : Instr) (asid : Nat) (e : Iss) (f : TlbEntry → Bool) : Eff :=
  if !e.s.mayTlbi e.ctx asid then .error (.trap trapPrivilege)
  else
    let s := e.s.dropEntries true fun t => t.asid == asid && pteDO t.leaf && f t
    e.post s c { i, args := [s.invals] } []
def execTlbiVa (c : Ctl) (a b : Src) (s : State) : Out1 :=
  sysIssue c (.tlbiVa c a b) s fun e =>
    let os := [(RdAs.w64z, a), (.w32, b)]
    let l := ((e.read [e.lowest] os).head?).getD ⟨e.lowest, []⟩
    tlbi c (.tlbiVa c a b) (l.b.toNat % 2 ^ 16) (e.latched os) fun t => decide (t.base ≤ l.a.toNat) && decide (l.a.toNat < t.base + t.size)
def execTlbiAsid (c : Ctl) (b : Src) (s : State) : Out1 :=
  sysIssue c (.tlbiAsid c b) s fun e => tlbi c (.tlbiAsid c b) (e.low32 b % 2 ^ 16) (e.latched [(.w32, b)]) fun _ => true
/-- TOKEN_COUNTDOWN of TLBI (R390, R392). -/
def State.countTlbi (s : State) (p gi : Nat) (o : Op) : State := if s.staleFor (o.args.headD 0) then s else s.complete p gi o

/-! Debug access to stopped threads (R437). -/

/-- The fields of a selector. -/
structure Selector where
  num : Nat
  kind : Nat
  lane : Nat
  group : Nat
  bad : Bool
deriving DecidableEq, Repr
def selectorOf (v : Nat) : Selector :=
  { num := bits v 23 16, kind := bits v 15 12, lane := bits v 11 6, group := bits v 5 0, bad := bits v 31 24 != 0 }
/-- The status of an access: 2 for an invalid selector, 1 for a target that is neither stopped nor held. -/
def Iss.selectorStatus (e : Iss) (q : Selector) : Nat :=
  let w := e.w.getD { ctx := 0, launch := 0, threads := 0, regs := 0 }
  let g := if q.group = e.gi then e.g else w.groups.getD q.group {}
  if q.bad || decide (6 ≤ q.kind) || decide (w.groups.length ≤ q.group) || (q.kind == 0 && decide (w.regs ≤ q.num))
      || (q.kind == 1 && decide (64 ≤ q.num)) || (q.kind == 5 && decide (16 ≤ q.num)) || decide (w.threads ≤ q.lane) then 2
  else
    let stopped := q.group != e.gi && g.dbgStop.isSome && g.run.isNone
    let held := q.group == e.gi && g.handler && (g.thread? q.lane).any (!·.inH)
    if stopped || held then 0 else 1
/-- The value that a selector names. -/
def Group.selected (g : Group) (q : Selector) : Nat :=
  let t := (g.thread? q.lane).getD { slot := 0, lane := 0, pc := 0 }
  match q.kind with
  | 0 => (g.reg q.lane q.num).toNat
  | 1 => (g.reg q.lane (0x80 + q.num)).toNat
  | 2 => t.p.toNat
  | 3 => t.pc.toNat % 2 ^ 32
  | 4 => bits t.pc.toNat 56 32
  | _ => mget 0 g.tok q.num
def execDbgr (c : Ctl) (o : SysOps) (s : State) : Out1 :=
  sysIssue c (.dbgr c o) s fun e =>
    if !(e.s.ctx e.ctx).watch then .error (.trap trapPrivilege)
    else
      let q := selectorOf (e.low32 o.a)
      let st := e.selectorStatus q
      let v := if st = 0 then (if q.group = e.gi then e.g else (e.s.group e.p q.group)).selected q else 0
      e.postSys c (.dbgr c o) o.dst 2 (v + 2 ^ 32 * st) e.s
def execDbgw (c : Ctl) (o : SysOps) (s : State) : Out1 :=
  sysIssue c (.dbgw c o) s fun e =>
    if !(e.s.ctx e.ctx).watch then .error (.trap trapPrivilege)
    else
      let q := selectorOf (e.low32 o.a)
      let v : Word := BitVec.ofNat 32 (e.low32 o.b)
      let e := e.latched [(.w32, o.b)]
      let st := if 3 ≤ q.kind && q.kind ≤ 5 then 2 else e.selectorStatus q
      let s := if st != 0 then e.s else e.s.modGroup e.p q.group fun g =>
        match q.kind with
        | 0 => g.setReg q.lane q.num v
        | 1 => g.setReg q.lane (0x80 + q.num) v
        | _ => g.modThread q.lane fun t => { t with p := v.setWidth 24 }
      e.postSys c (.dbgw c o) o.dst 1 st s

/-! Register writes that are steps of their own (R174, R434): what SYSW does at these registers. -/

def execCkinjWrite (core : Nat) (v : Word) (s : State) : Out1 :=
  match (s.core core).wg with
  | some w => .next (s.writeCkinj core w.ctx v)
  | none => .next s
/-- DBGCTL_WRITE: without the rights the group traps PRIVILEGE at its next instruction. -/
def execDbgctlWrite (core group : Nat) (v : Word) (s : State) : Out1 :=
  match (s.core core).wg with
  | none => .next s
  | some w =>
    if (s.ctx w.ctx).debugDenied 0x11F v then
      let g := s.group core group
      match g.headSet false with
      | [] => .next s
      | n :: ns => .next (takeTrap s core group (n :: ns) ((g.thread? n).elim 0 (·.pc)) trapPrivilege)
    else .next (s.writeSys core w.ctx 0x11F v)

end Sys2Proof.Machine
end

