-- ==== Sys2Proof/Machine/Frame.lean ====
section
/-! DEFINITION. The image of a workgroup in a frame slot (spec/17_traps.md R446 to R450, R493, R494): every field written as
the layout gives it. A restore takes the workgroup back from State.Saved, which holds the same fields as records, and the
scratchpad part, the sub-arrays' storage and the private slices from the slot's bytes. -/

namespace Sys2Proof.Machine

/-- A field of an image: offset, bytes, value. -/
abbrev Field := Nat × Nat × Nat

/-- Write fields at a place. -/
def State.putFields (s : State) (base : Nat) (fs : List Field) : State :=
  { s with mem := fs.foldl (fun m f => memWrite m (base + f.1) f.2.1 f.2.2) s.mem }
/-- Copy n bytes between places; every granule that receives bytes of a poisoned granule becomes poisoned (R455). What lies behind a lost
structure reads as poison and takes no store (R463). -/
def State.copyBytes (s : State) (a b n : Nat) : State :=
  if s.lostAt b then s else
  let cells := s.mem.filter fun c => a ≤ c.1 && c.1 < a + n
  let bad := if s.lostAt a then (columnsOf a n).map fun c => (c, 0x0F) else s.poison.filter fun e => a < e.1 * 32 + 32 && e.1 * 32 < a + n
  let s := State.clearPlaces { s with mem := cells.foldl (fun m c => memSet m (b + (c.1 - a)) c.2) (memClear s.mem b n) } b 0
  bad.foldl (fun s e =>
    let lo := max a (e.1 * 32)
    let hi := min (a + n) (e.1 * 32 + 32) - 1
    (s.enterPoison (b + (lo - a)) e.2).enterPoison (b + (hi - a)) e.2) s

/-! The group block (R449, R450). -/

/-- STATE and ARG of a thread. -/
def TState.code : TState → Nat × Nat
  | .ready => (0, 0)
  | .mwaiting m => (1, m)
  | .jwaiting m => (2, m)
  | .signwait k => (3, k)
  | .away => (4, 0)
  | .exited => (5, 0)
/-- The thread entry (R450). -/
def Thread.entry (t : Thread) : Nat :=
  let (st, arg) := t.st.code
  t.pc.toNat % 2 ^ 57 + 2 ^ 57 * st + 2 ^ 61 * min 2047 t.wait + 2 ^ 72 * t.hop + 2 ^ 75 * arg + 2 ^ 79 * b2n t.inH + 2 ^ 80 * b2n t.exempt
    + 2 ^ 81 * (if t.st = .away then t.cur else 0)
/-- PARK, WAKE0 and WAKE1 of a group. -/
def Group.parkCode (g : Group) : Nat × Nat × Nat :=
  match g.park with
  | none => (if g.dbgStop.isSome then 9 else 0, 0, 0)
  | some (.twait t k _ _) => (1, t + 2 ^ 4 * k, 0)
  | some .drain => (2, 0, 0)
  | some .replay => (3, 0, 0)
  | some (.bwait h off ph cm) => (4, ph, if cm then off + 2 ^ 22 * (h.lc % 16) + 2 ^ 31 else off)
  | some (.bar n) => (5, n, 0)
  | some (.cbar n) => (6, n, 0)
  | some (.qrecv id) => match g.op? id with
    | some o => (7, o.act.length, o.args.getD 0 0)
    | none => (7, 0, 0)
  | some (.travel _) => (8, 0, 0)
  | some (.fetch _) => (0, 0, 0)
/-- The pending trap that the status names: a deferred one, else the trap of the skid. -/
def Group.pendingTrap (g : Group) : Option (Trap × Nat) :=
  match g.skidTrap, g.deferred with
  | some (t, pc), _ => some (t, pc.toNat)
  | none, t :: _ => some (t, t.xpc)
  | none, [] => none
/-- The group status, 48 bytes. -/
def Group.status (g : Group) : Nat :=
  let (park, w0, w1) := g.parkCode
  let t := g.pendingTrap
  park + 2 ^ 8 * (b2n g.handler + 2 * b2n (g.run.any (·.held)) + 4 * b2n g.yielded.isSome) + 2 ^ 16 * (g.run.elim 0 (·.count))
    + 2 ^ 32 * w0 + 2 ^ 64 * w1 + 2 ^ 96 * (t.elim 0 (·.1.cause)) + 2 ^ 104 * (t.elim 0 (·.1.reason)) + 2 ^ 128 * (t.elim 0 (·.1.info))
    + 2 ^ 160 * (t.elim 0 (·.2)) + 2 ^ 224 * (g.copyNo % 2 ^ 32)
/-- The fields of a group block, from its offset. -/
def Group.image (g : Group) (base : Nat) : List Field :=
  let ts := g.threads
  let absent : List Field := ((List.range 64).filter fun l => (g.thread? l).isNone).map fun l => (base + 16 * l, 16, 7 * 2 ^ 57)
  absent ++ ts.map (fun t => (base + 16 * t.lane, 16, t.entry)) ++ ts.map (fun t => (base + 0x400 + 4 * t.lane, 4, t.p.toNat))
    ++ ts.map (fun t => (base + 0x500 + 8 * t.lane, 8, t.live.toNat))
    ++ ts.flatMap (fun t => t.rstack.reverse.mapIdx fun i a => (base + 0x700 + 64 * t.lane + 8 * i, 8, a.toNat % 2 ^ 57 + 2 ^ 63))
    ++ g.s.map (fun e => (base + 0x1700 + 4 * e.1, 4, e.2.toNat)) ++ g.tok.map (fun e => (base + 0x1800 + e.1, 1, e.2))
    ++ g.masks.map (fun e => (base + 0x1810 + 16 * e.1, 16, e.2.members.toNat + 2 ^ 64 * e.2.arrived.toNat))
    ++ [(base + 0x18D0, 48, g.status)]

/-! Operation entries (R494). -/

/-- A class 4 operation as an entry: its instruction, its groups with their T, and the values it read. -/
def opEntry (base : Nat) (i : Instr) (gs : List (Nat × Nat)) (sa sb : Nat) : List Field :=
  [(base, 12, ((encode i).map (·.toNat)).getD 0), (base + 12, 1, gs.length)]
    ++ gs.zipIdx.flatMap (fun g => [(base + 16 + 2 * g.2, 1, g.1.1), (base + 17 + 2 * g.2, 1, g.1.2)])
    ++ [(base + 24, 8, sa), (base + 32, 4, sb)]
/-- The T of an operation of a group. -/
def Workgroup.tokOf (w : Workgroup) (r : Nat × Nat) : Nat × Nat :=
  (r.1, (((w.groups.getD r.1 {}).op? r.2).bind (·.tok)).getD 0)
/-- The values an operation read from SA and SB at issue (R494); of a MACC the lowest lane's (log entry 34). -/
def Op.saSb (o : Op) : Nat × Nat :=
  match o.i with
  | .awr _ t => ((o.lanes.head?.elim 0 (·.va) + 2 ^ 32 - t.off.toNat) % 2 ^ 32, 0)
  | .ald _ t => ((o.lanes.head?.elim 0 (·.va) + 2 ^ 64 - (t.off.signExtend 64).toNat) % 2 ^ 64, o.args.getD 0 0 + 2 ^ 16 * o.args.getD 1 0)
  | .ard .. | .macc .. => (o.args.headD 0, 0)
  | .mdrain .. => (o.args.getD 2048 0, o.args.getD 2049 0)
  | _ => (0, 0)
/-- The captured blocks of a job for a sub-array: block (m, c) is 36 bytes. -/
def Job.captured (j : Job) (q base : Nat) : List Field :=
  let nb := j.rcd.shape.groups
  (List.range 16).flatMap fun m => (List.range 4).map fun c =>
    let b := j.b.getD (4 * nb * m + kOf j.rcd.shape q c) {}
    (base + 36 * (4 * m + c), 34, b.hdr.getD 0 + 2 ^ 16 * b.codes.foldr (fun x n => x % 256 + 256 * n) 0)
/-- An array operation as an entry for a sub-array. -/
def AOp.entry (w : Workgroup) (o : AOp) (q base : Nat) : List Field :=
  match o.kind with
  | .mma j => opEntry base j.rcd.instr j.signs 0 0 ++ j.captured q (base + 64)
  | _ => match (w.groups.getD o.group {}).op? o.op with
    | some x => opEntry base x.i [w.tokOf (o.group, o.op)] x.saSb.1 x.saSb.2
    | none => []

/-! The arrays (R447). -/

/-- A plane slot of a tile: bit 128 n + k is bit j of the aligned integer of row k of column n (R123, R126). -/
def Tile.plane (t : Tile) (j : Nat) : Nat :=
  let bits := (List.range 128).flatMap fun n => (List.range 4).flatMap fun k =>
    let b := t.blocks.getD (4 * n + k) {}
    (List.range 32).map fun i => (b.a.getD i 0) / 2 ^ j % 2 == 1
  bits.foldr (fun x n => b2n x + 2 * n) 0
/-- The column sums S_A of a tile: entry 32 k + i, over the columns whose block is not resolved (R123, R135). -/
def Tile.sums (t : Tile) (k i : Nat) : Int := (List.range 128).foldl (fun n c =>
  let b := t.blocks.getD (4 * c + k) {}
  if b.resolved then n else n + b.a.getD i 0) 0
def word32 (v : Int) : Nat := (v % 2 ^ 32).toNat
/-- A sub-array's planes, tile directory, staging tile, retry buffer and held operations. -/
def subImage (c : Core) (w : Workgroup) (q : Nat) : List Field :=
  let a := c.arr
  let x := a.sub q
  let planes : List Field := if x.mul then x.tiles.flatMap fun t =>
      (List.range t.width).map fun j => (0x310000 + 0x80000 * q + 2048 * (t.base + j), 2048, t.plane j)
    else []
  let sorted := sortBy (fun (t u : Tile) => decide (t.base ≤ u.base)) x.tiles
  let dir : List Field := sorted.zipIdx.flatMap fun e =>
    let (t, i) := e
    let b := 0x510000 + 0x40000 * q + 5120 * i
    [((b, 4, ainfoWord c q 3 t.base) : Field)]
      ++ (t.blocks.mapIdx fun n k => (b + 8 + 8 * n, 8, k.tag + 2 ^ 8 * k.scale + 2 ^ 16 * (k.x % 256).toNat + 2 ^ 24 * b2n k.zero + 2 ^ 25 * b2n k.nan
          + 2 ^ 26 * b2n k.special + 2 ^ 27 * b2n k.grouped))
      ++ ((List.range 4).flatMap fun k => (List.range 32).map fun n => (b + 4104 + 4 * (32 * k + n), 4, word32 (t.sums k n)))
  let fail := a.failOn q
  let acc : Nat := (fail.bind fun f => f.job.rcd.tiles.find? (·.1 == q)).elim 0 (·.2)
  let sb := 0x650000 + 0x10000 * q
  let staging : List Field := (fail.elim [] fun f => f.stages.filter (·.q == q)).flatMap fun st =>
    let at_ (mn k : Nat) (v : Option Int) : Field := (sb + 4 * (4 * mn + k), 4, word32 ((v.getD 0) / 2))
    let rows := st.d.mapIdx fun i v => if st.dense then at_ i 0 v else at_ (i / 4) (i % 4) v
    let last := st.d17.mapIdx fun i v => (i, v)
    let row (r : Nat) (part : Int × Int → Int) : List Field := last.map fun e =>
      if st.dense then at_ (128 * r + e.1) 0 (e.2.map part) else at_ (128 * r + e.1 / 4) (e.1 % 4) (e.2.map part)
    rows ++ row 16 (·.1) ++ row 17 (·.2)
  let state : List Field := if fail.isSome then [(sb + 0x9000, 4, mcksWord a q acc), (sb + 0x9004, 8, mlocWord a q acc)] else []
  let rb := 0x690000 + 0x8000 * q
  let retry : List Field := fail.elim [] fun f => f.job.captured q rb ++ opEntry (rb + 0x1000) f.job.rcd.instr f.job.signs 0 0
  let held : List Field := ((a.opsOn q).take 8).zipIdx.flatMap fun e => e.1.entry w q (rb + 0x2000 + 0xC00 * e.2)
  planes ++ dir ++ staging ++ state ++ retry ++ held
/-- A convergence register: the MCONV's IMM, Record, the signed lanes and the captured blocks. -/
def KReg.image (r : KReg) (n : Nat) : List Field :=
  let b := 0x6B0000 + 0x4000 * n
  let gq (j : Nat) : Nat := ((r.groups.getD j none).getD 0x40) * 2 ^ (7 * j)
  let imm := 2 ^ 28 * n + gq 0 + gq 1 + gq 2 + gq 3
  let record : Nat := match r.record.bind fun x => encode x.instr with
    | some w => let f := Fields.ofWord w
                2 ^ 88 * f.op + 2 ^ 84 * f.fn + 2 ^ 40 * f.sc + 2 ^ 32 * f.mod + f.imm
    | none => 0
  let signed : Nat := r.signed.foldl (fun v e => v ||| 2 ^ (64 * (e.1 % 4) + e.2)) 0
  let caps : List Field := match r.record with
    | none => []
    | some x =>
      let nb := x.shape.groups
      (captureB x.shape r.caps).mapIdx fun i k =>
        let m := i / (4 * nb); let jc := i % (4 * nb)
        (b + 64 + 36 * (64 * (jc / nb) + 4 * m + jc % nb), 34, k.hdr.getD 0 + 2 ^ 16 * k.codes.foldr (fun x n => x % 256 + 256 * n) 0)
  [((b, 4, imm) : Field), (b + 4, 12, record), (b + 16, 32, signed)] ++ caps

/-! Barriers, copies, locks (R447, R493). -/

/-- A range-lock entry. -/
def Lock.image (l : Lock) (started : Bool) : Nat :=
  let find (rs : List (Nat × Nat × Nat)) (t : Nat) : Nat × Nat := ((rs.find? (·.1 == t)).map fun r => r.2).getD (0, 0)
  let mask (rs : List (Nat × Nat × Nat)) : Nat := rs.foldl (fun m r => m ||| 2 ^ r.1) 0
  let glob (rs : List (Nat × Nat × Nat)) : Nat := let r := find rs 0; r.1 % 2 ^ 57 + 2 ^ 64 * r.2
  let tier (t : Nat) : Nat :=
    let a := find l.srcs t; let b := find l.dsts t
    a.1 % 2 ^ 32 + 2 ^ 32 * (a.2 % 2 ^ 32) + 2 ^ 64 * (b.1 % 2 ^ 32) + 2 ^ 96 * (b.2 % 2 ^ 32)
  1 + 2 * b2n started + 2 ^ 8 * l.opc + 2 ^ 16 * ((if l.opc = 0xAB then 0 else l.k) % 2 ^ 32) + 2 ^ 48 * mask l.srcs + 2 ^ 56 * mask l.dsts
    + 2 ^ 128 * glob l.srcs + 2 ^ 256 * glob l.dsts + 2 ^ 384 * tier 1 + 2 ^ 512 * tier 2 + 2 ^ 640 * tier 3
/-- The groups of an arrival set as bits. -/
def groupBits (gs : List Nat) : Nat := gs.foldl (fun v g => v ||| 2 ^ g) 0
/-- The block at 0x08_1000. `gang` are the workgroups of the gang. -/
def barImage (c : Core) (w : Workgroup) (gang : List Workgroup) : List Field :=
  let b := 0x81000
  let bars : List Field := w.bars.map fun e => (b + 16 * e.1, 8, groupBits e.2)
  let came (n : Nat) : Nat := gang.foldl (fun v x => if x.allIn x.cbars n && !(mget [] x.cbars n).isEmpty then v ||| 2 ^ x.gang else v) 0
  let cbars : List Field := w.cbars.map fun e => (b + 0x100 + 16 * e.1, 16, came e.1 + 2 ^ 64 * groupBits e.2)
  let dir : List Field := (List.range 32).map fun i => (b + 0x200 + 4 * i, 4, (c.dir[i]?).elim 0xFFFFFFFF (·.1))
  let locks : List Field := c.locks.map fun e => (b + 0x300 + 96 * e.1, 96, e.2.image (e.2.opc == 0xAB || w.copies.all fun x => x.started || x.k != e.2.k))
  let slices : List Field := (w.copies.filter (!·.started)).zipIdx.flatMap fun e => e.1.slices.map fun x =>
    (b + 0x1000 + 64 * (64 * e.2 + x.group), 44, ((encode x.i).map (·.toNat)).getD 0 + 2 ^ 96 * x.block.foldr (fun v n => v.toNat + 2 ^ 32 * n) 0)
  bars ++ cbars ++ dir ++ [(b + 0x280, 4, ckstatWord c.arr), (b + 0x284, 4, c.arr.ckinj.toNat)] ++ locks ++ slices

/-! The variable area (R450). -/

/-- The outstanding operations of a workgroup in issue order: group, operation. -/
def Workgroup.inOrder (w : Workgroup) : List (Nat × Op) :=
  sortBy (fun (a b : Nat × Op) => decide (a.2.issued ≤ b.2.issued)) (w.groups.zipIdx.flatMap fun g => g.1.ops.map fun o => (g.2, o))
/-- The lanes held for replay, in issue order: group, operation, lane. -/
def Workgroup.replays (w : Workgroup) : List (Nat × Op × LaneOp) := w.inOrder.flatMap fun x =>
  (x.2.lanes.filter fun l => l.miss && !l.done).map fun l => (x.1, x.2, l)
/-- The sends that have not been entered in their queue, in issue order (R325, R342). -/
def Workgroup.sends (w : Workgroup) : List (Nat × Op) := w.inOrder.filter fun x => match x.2.i with | .qsend _ _ => true | _ => false
def replayEntry (x : Nat × Op × LaneOp) : Nat :=
  let (g, o, l) := x
  let f := Fields.ofWord ((encode o.i).getD 0)
  let cas := o.i.rmw.1 == .cas
  l.va + 2 ^ 64 * g + 2 ^ 72 * l.lane + 2 ^ 80 * f.op + 2 ^ 88 * f.fn + 2 ^ 96 * f.mod + 2 ^ 104 * f.sc + 2 ^ 112 * f.dst + 2 ^ 120 * f.t
    + 2 ^ 128 * (if cas then l.v2 else l.v).toNat + 2 ^ 192 * (if cas then l.v.toNat else 0) + 2 ^ 256 * o.pc.toNat
def sendEntry (x : Nat × Op) : Nat :=
  let (g, o) := x
  let cm := match o.i with | .qsend _ b => b.cm | _ => false
  let msgs := o.args.drop 3
  (o.args.getD 1 0 + (if cm then 2 ^ 22 * (o.args.getD 0 0 % 16) + 2 ^ 31 else 0)) + 2 ^ 32 * g + 2 ^ 40 * o.tok.getD 0 + 2 ^ 48 * msgs.length
    + 2 ^ 128 * msgs.foldr (fun v n => v % 2 ^ 64 + 2 ^ 64 * n) 0
/-- Bytes of the variable area. -/
def Workgroup.varBytes (w : Workgroup) : Nat := 48 * w.replays.length + 528 * w.sends.length
/-- Whether the variable area fits (R446). -/
def Workgroup.imageFits (w : Workgroup) : Bool := decide (w.varBytes ≤ 704 * 1024)
def varImage (w : Workgroup) : List Field :=
  let b := 0x750000
  let n := w.replays.length
  w.replays.mapIdx (fun i x => (b + 48 * i, 48, replayEntry x)) ++ w.sends.mapIdx fun i x => (b + 48 * n + 528 * i, 528, sendEntry x)

/-! The whole image. -/

/-- The frame header (R448). A tile's bit of TORN stands for its POISONED mark too (R457; log entry 34). -/
def frameHeader (s : State) (kind p : Nat) (w : Workgroup) (c : Core) (away : Nat) : List Field :=
  let mul := (List.range 4).foldl (fun v q => v + 2 ^ q * b2n (c.arr.sub q).mul) 0
  let regs := w.regs / 32 - 1
  let torn := (c.arr.torn ++ c.arr.poisoned).foldl (fun v i => v ||| 2 ^ i) 0
  let flags := b2n w.tandem.isSome + 2 * b2n w.restartable + 4 * b2n w.persistent + 8 * b2n w.reloc + 16 * b2n (w.groups.any (·.handler))
  [(0, 1, kind), (1, 1, w.ctx), (2, 2, w.seenCore), (4, 2, p), (6, 1, w.groups.length), (7, 1, w.threads), (8, 1, regs + 4 * (w.priv / 16)),
   (9, 1, w.carve + 16 * mul), (10, 1, w.cls), (11, 1, w.gang + 16 * (w.gangSize - 1)), (12, 4, w.wg), (16, 4, w.queue), (20, 4, w.entry),
   (24, 8, s.ticks), (32, 4, torn), (36, 4, w.replays.length), (40, 4, w.sends.length), (44, 4, away), (48, 4, flags)]
/-- The x registers. -/
def regImage (w : Workgroup) : List Field :=
  let l := lanesUp w.threads
  w.groups.zipIdx.flatMap fun g => g.1.threads.flatMap fun t => t.x.map fun e =>
    (0x90000 + 0x40000 * (g.2 % 4) + 4 * (w.regs * l * (g.2 / 4) + l * e.1 + t.lane), 4, e.2.toNat)
def pannierImage (w : Workgroup) (ps : List Pannier) : List Field := ps.map fun a =>
  (pannierSlot w a.origin.group a.origin.lane, 256, a.bytes % 2 ^ 2040 + 2 ^ 2040)
/-- The place of a lane's private bytes in a slot. -/
def privSlot (w : Workgroup) (group lane : Nat) : Nat :=
  0x190000 + 0x40000 * (group % 4) + w.priv * lanesUp w.threads * (group / 4) + w.priv * lane
/-- The lanes of a workgroup: group and lane. -/
def Workgroup.lanes (w : Workgroup) : List (Nat × Nat) := w.groups.zipIdx.flatMap fun g => g.1.threads.map fun t => (g.2, t.lane)

/-- Write the image of the workgroup on a core into a frame slot (R446 to R450). -/
def State.writeImage (s : State) (kind p slot : Nat) (w : Workgroup) (ps : List Pannier) : State :=
  let c := s.core p
  let base := s.slotKey w.ctx slot
  let gang := ((s.gangCores w).filterMap fun q => (s.core q).wg) ++ s.gangSaved w
  let fields : List Field := frameHeader s kind p w c ps.length
    ++ (w.groups.zipIdx.flatMap fun g => g.1.image (0x1000 + 0x2000 * g.2))
    ++ barImage c w gang ++ regImage w ++ ((List.range 4).flatMap fun q => subImage c w q)
    ++ (c.arr.acc.map fun e => (0x610000 + 4 * e.1, 4, e.2)) ++ (c.arr.kregs.flatMap fun e => e.2.image e.1)
    ++ pannierImage w ps ++ varImage w
  let s := if s.lostAt base then s else (s.clearPlaces base slotSpan).putFields base fields
  let s := s.copyBytes (windowKey p 0) (base + 0x290000) (carveBytes w.carve)
  let s := (List.range 4).foldl (fun s q =>
    if (c.arr.sub q).mul then s else s.copyBytes (windowKey p (0x80000 * (q + 1))) (base + 0x310000 + 0x80000 * q) 0x80000) s
  let s := if w.priv = 0 then s else w.lanes.foldl (fun s gl => s.copyBytes (privKey p gl.1 gl.2 0) (base + privSlot w gl.1 gl.2) w.priv) s
  -- R407: the traffic of the save is charged to the context.
  s.count w.ctx 18 (32 * Config.freeNat s.draws (site 10 slot))
/-- Bring back what the slot's bytes hold beside the records: scratchpad part, storage, private slices. -/
def State.readImage (s : State) (p slot : Nat) (w : Workgroup) : State :=
  let base := s.slotKey w.ctx slot
  let c := s.core p
  let s := s.readUe base slotSpan
  let s := (s.clearPlaces (windowKey p 0) windowSpan).copyBytes (base + 0x290000) (windowKey p 0) (carveBytes w.carve)
  let s := (List.range 4).foldl (fun s q =>
    if (c.arr.sub q).mul then s else s.copyBytes (base + 0x310000 + 0x80000 * q) (windowKey p (0x80000 * (q + 1))) 0x80000) s
  let s := if w.priv = 0 then s else w.lanes.foldl (fun s gl =>
    (s.clearPlaces (privKey p gl.1 gl.2 0) 512).copyBytes (base + privSlot w gl.1 gl.2) (privKey p gl.1 gl.2 0) w.priv) s
  s.count w.ctx 17 (32 * Config.freeNat s.draws (site 11 slot))
/-- Poisoned granules of a slot; behind a lost structure its first stands for all of them (R463). -/
def State.slotPoison (s : State) (ctx slot : Nat) : List Nat :=
  let base := s.slotKey ctx slot
  if s.lostAt base then [base / 32] else
  (s.poison.filter fun e => base / 32 ≤ e.1 && e.1 < (base + slotSpan) / 32).map (·.1)

end Sys2Proof.Machine
end

