-- ==== Sys2Proof/Machine/Launch.lean ====
section
/-! DEFINITION. Launch records, queues, completion counters and LAUNCH (spec/13_scheduling.md R330 to R335,
spec/12_control_instructions.md R328, R329). -/

namespace Sys2Proof.Machine

/-! What the command processor reads and writes. -/

/-- Where an address of a context lies for the command processor: its place and leaf, a miss that is being resolved, or a
refusal. -/
inductive CmdAt where
  | at (key leaf : Nat) | wait | refused
deriving DecidableEq, Repr

/-- The die whose command processor serves a context: the lowest of its partition (log entry 117). -/
def State.cmdDie (s : State) (ctx : Nat) : Nat := (s.ctx ctx).desc.part
/-- Translate for the command processor by a walk, an access waiting at its home as any other does (R192); `kind` is the KIND of a fault-queue record (R395), `host` the pages that the
control node answered with REFUSED. -/
def State.cmdAt (s : State) (ctx : Nat) (host : List Nat) (va kind : Nat) (a : Acc) : State × CmdAt :=
  if 2 ^ 57 ≤ va then (s, .refused)
  else match s.walk ctx va with
  | .leaf size e =>
    if (permRefuse e a).isSome then (s, .refused)
    else if !s.reaches (s.cmdDie ctx) (leafKey e size va) || s.leaseWaits (leafKey e size va) 1 a.writes then (s, .wait)
    else if a.writes && s.snapDue ctx e va size then (s.shortMiss ctx (va / size * size) size true, .wait)
    else (s, .at (leafKey e size va) e)
  | .short size _ _ => (s.shortMiss ctx (va / size * size) size a.writes, .wait)
  | .wait => (s, .wait)
  | .long => let page := va / 2 ^ 16 * 2 ^ 16
             if host.contains page then (s, .refused) else (s.longMiss ctx va kind, .wait)
  | .refused _ => (s.walkMoves ctx va, .refused)

/-- The page of the long miss that an address of a context meets, unless its answer was REFUSED (R395). -/
def State.longPage (s : State) (ctx : Nat) (host : List Nat) (va : Nat) : Option Nat :=
  match s.walk ctx va with
  | .long => let page := va / 2 ^ 16 * 2 ^ 16
             if host.contains page then none else some page
  | _ => none

/-- n bytes (a multiple of 4) as the command processor reads them: poisoned words read as poison (R75, R455). -/
def State.cmdRead (s : State) (k n : Nat) : Nat :=
  (List.range (n / 4)).foldr (fun i v => (match s.poisonAt (k + 4 * i) 4 with
    | some cls => (poisonWord cls).toNat
    | none => s.read (k + 4 * i) 4) + 2 ^ 32 * v) 0

/-! Launch records (R332, R333). -/

/-- The fields of a record read as one 1,024-bit number. -/
def recordOf (v : Nat) : Record :=
  { done := bits v 959 896
    waits := ((List.range 4).map fun j => (bits v (447 + 128 * j) (384 + 128 * j), bits v (511 + 128 * j) (448 + 128 * j))).filter (·.1 != 0)
    coord := bits v 377 368, gotmo := bits v 367 362, npkg := bits v 361 352, xid := bits v 351 320
    persistent := bit v 282, restartable := bit v 281, tandem := bit v 280
    gang := bits v 276 272, array := bits v 267 264, carve := bits v 258 256, priv := bits v 253 248
    regs := bits v 241 240, groups := bits v 238 232, threads := bits v 230 224
    gx := bits v 159 128, gy := bits v 191 160, gz := bits v 223 192, args := bits v 127 64, kaddr := bits v 63 0 }
/-- Workgroups of a launch (R335). -/
def Record.total (r : Record) : Nat := r.gx * r.gy * r.gz
/-- Groups of a launch that fit in one quadrant (R17). -/
def Record.fit (r : Record) : Nat :=
  let l := lanesUp r.threads
  let n := min 16 (min (65536 / (32 * (r.regs + 1) * l)) (512 / l))
  if r.priv = 0 then n else min n (262144 / (16 * r.priv * l))
/-- Whether a must-be-zero field of a record is nonzero. -/
def recordMbz (v : Nat) : Bool :=
  [(231, 231), (239, 239), (247, 242), (255, 254), (263, 259), (271, 268), (279, 277), (319, 283), (383, 378)].any fun r => bits v r.1 r.2 != 0
/-- Whether a record is rejected with CODE 3 (R333); `cores` are the cores of the context's partition. -/
def recordBad (v cores : Nat) : Bool :=
  let r := recordOf v
  recordMbz v || (r.npkg == 0 && r.xid != 0) || r.gang == 0 || decide (16 < r.gang) || decide (4 < r.carve) || decide (32 < r.priv)
    || r.groups == 0 || decide (64 < r.groups) || r.threads == 0 || decide (64 < r.threads) || r.gx == 0 || r.gy == 0 || r.gz == 0
    || decide (4 * r.fit < r.groups) || decide (2 ^ 32 - 1 < r.total) || r.total % r.gang != 0 || (r.persistent && decide (cores < r.total))
    || (r.tandem && (r.persistent || r.npkg != 0)) || r.done % 8 != 0 || r.waits.any (·.1 % 8 != 0)
/-- Cores of the partition of a context. -/
def State.partCores (s : State) (ctx : Nat) : Nat := 128 * (s.part (s.ctx ctx).desc.part).elim 0 (·.size)
/-- Whether the kernel address passes R34 and R32 against its line; none while the line misses (R333). A line that holds an uncorrectable error
passes neither (log entry 116). -/
def State.kernelOk (s : State) (ctx : Nat) (host : List Nat) (ka : Nat) : State × Option Bool :=
  if 2 ^ 57 ≤ ka || !pcAligned (BitVec.ofNat 64 ka) then (s, some false)
  else
    let line := ka / 64 * 64
    match s.cmdAt ctx host line 2 .fetch with
    | (s, .wait) => (s, none)
    | (s, .refused) => (s, some false)
    | (s, .at k _) => (s.readUe k 64, some ((s.poisonAt k 64).isNone && lineTgt (s.read (k + 60) 4) (slotOf (BitVec.ofNat 64 ka))))

/-! Queues (R330, R331). -/

/-- Whether a queue is served at all. -/
def Queue.served (d : Queue) : Bool := d.en && decide (d.logcap ≤ 12)
/-- The virtual address of the entry i. -/
def Queue.entryVa (d : Queue) (i : Nat) : Nat := d.base + 128 * (i % 2 ^ d.logcap)
/-- Whether the entry at HEAD is posted; its address must be readable by the context. -/
def State.posted (s : State) (d : Queue) : Bool :=
  match (s.cmdAt d.ctx d.host (d.entryVa d.head) 3 .read).2 with
  | .at k _ => s.cmdRead (k + 124) 4 == (d.head + 1) % 2 ^ 32
  | _ => false
/-- Whether a launch has dispatched its last unit, or has failed with nothing placed (R331, R335). -/
def Launch.passedOn (l : Launch) : Bool := (decide (l.rcd.total ≤ l.next) && !l.rolling) || (l.failed && !l.ready)
/-- Whether the launch ahead still blocks a queue. -/
def State.queueBlocked (s : State) (q : Nat) : Bool := s.launches.any fun e => e.2.queue == q && !e.2.passedOn
/-- Whether a context's partition is halted (R445). -/
def State.ctxHalted (s : State) (ctx : Nat) : Bool := (s.part (s.ctx ctx).desc.part).any (·.halt.isSome)

/-- The value of a waited counter, as the command processor reads it: a miss is registered (R393 to R395); none where it cannot be read now, or
reads as poison. -/
def State.counterNow (s : State) (l : Launch) (va : Nat) : State × Option Nat :=
  match s.cmdAt l.ctx l.host va 3 .read with
  | (t, .at k _) => (t.readUe k 8, if (s.poisonAt k 8).isSome then none else some (s.read k 8))
  | (t, .wait) => (t, none)
  | (_, .refused) => (s, none)
/-- Judge the waits of a launch (R334): a failed counter fails it, and it is ready once every wait is satisfied. -/
def State.judgeWaits (s : State) (id : Nat) : State :=
  match mfind s.launches id with
  | none => s
  | some l =>
    if l.ready || l.failed then s
    else
      let vals := l.rcd.waits.map fun w => ((s.counterNow l w.1).2, w.2)
      let s := l.rcd.waits.foldl (fun s w => (s.counterNow l w.1).1) s
      let failed := vals.any fun v => v.1.any fun x => x.testBit 63
      let ok := vals.all fun v => v.1.any fun x => decide (v.2 ≤ x)
      let longs := (l.rcd.waits.filterMap fun w => s.longPage l.ctx l.host w.1).eraseDups
      { s with launches := mmod s.launches id fun l => { l with failed, ready := !failed && ok, longs } }
/-- WAIT_REEVALUATION (R334). -/
def execWaitReevaluation (launch : Nat) (s : State) : Out1 := .next (s.draw.judgeWaits launch)

/-- Whether another restartable launch of a context has been taken and not ended (R470). -/
def State.restartTaken (s : State) (ctx : Nat) : Bool := s.launches.any fun e => e.2.ctx == ctx && e.2.rcd.restartable && !e.2.ended
/-- The record at a queue's HEAD: as read before, or read now; none where it is not posted, or its page misses (R331). -/
def State.takeRecord (s : State) (d : Queue) : State × Option (Nat × Nat) :=
  match d.rcd with
  | some r => (s, some r)
  | none => match s.cmdAt d.ctx d.host (d.entryVa d.head) 3 .read with
    | (_, .at k _) => if s.posted d then (s.readUe k 128, some (k, s.cmdRead k 128)) else (s, none)
    | (t, .wait) => (t, none)
    | (_, .refused) => (s, none)
/-- QUEUE_TAKE (R331 to R333): the entry at HEAD is read once and checked, STATUS is written, HEAD advances. A take that must wait, for the
kernel's line or for the launch before it to end (R470), keeps what it has read. -/
def execQueueTake (q : Nat) (s : State) : Out1 :=
  let s := s.draw
  match mfind s.queues q with
  | none => .next s
  | some d =>
    if !d.served || s.queueBlocked q || !(s.ctx d.ctx).desc.valid || s.ctxHalted d.ctx then .next s
    else match s.takeRecord d with
    | (s, some (k, v)) =>
      let r := recordOf v
      let keep (s : State) : State :=
        { s with queues := minsert s.queues q { d with rcd := some (k, v), longs := s.longPage d.ctx d.host (r.kaddr / 64 * 64) } }
      let bad := recordBad v (s.partCores d.ctx)
      let (s, kernel) : State × Option Bool := if bad then (s, some true) else s.kernelOk d.ctx d.host r.kaddr
      match kernel with
      | none => .next (keep s)
      | some ok =>
        if !bad && ok && r.restartable && s.restartTaken d.ctx then .next (keep s)
        else
          let code := if bad then 3 else if ok then 0 else 4
          let s := s.write (k + 120) 4 (2 ^ 31 + code)
          let s := { s with queues := minsert s.queues q { d with head := (d.head + 1) % 2 ^ 32, host := [], longs := none, rcd := none } }
          let l : Launch := { ctx := d.ctx, queue := q, entry := d.head, cls := q / 16, rcd := r, failed := code != 0, ended := code != 0 && r.done % 8 != 0 }
          let id := s.nextLaunch
          let s := { s with launches := minsert s.launches id l, nextLaunch := id + 1 }
          .next (if code != 0 then s else s.judgeWaits id)
    | (s, none) => .next { s with queues := minsert s.queues q { d with longs := s.longPage d.ctx d.host (d.entryVa d.head) } }

/-! Completion counters (R334). -/

/-- Whether an operation of a launch, or an access of it that travels, still goes on after its issuer has retired, or has exited away from its
origin (R283, R334, R355). -/
def State.launchBusy (s : State) (id : Nat) : Bool :=
  (s.cores.any fun e => e.2.orphans.ops.any (fun o => o.launch == id && o.tok.isNone) || e.2.guests.ops.any (·.left.contains id) || e.2.past.any (·.launch == id))
    || s.panniers.any (·.2.origin.launch == id)
/-- Whether a launch is at its end: rejected or its waits failed, or every workgroup retired and every operation of theirs
ended. -/
def State.launchOver (s : State) (id : Nat) (l : Launch) : Bool :=
  if l.ownOver then false
  else if l.failed && !l.ready then true
  else decide (l.rcd.total ≤ l.next) && l.live == 0 && !l.rolling && !s.launchBusy id
/-- Whether a coordinator still waits for GO-ACKs (R339). -/
def Launch.ackWait (l : Launch) : Bool := l.goTick.isSome && decide (l.acks.length < l.rcd.npkg)
/-- The launch is forgotten, unless other packages still owe it a GO-ACK (R339); its snapshots are discarded and their slots freed (R470). -/
def State.endLaunch (s : State) (id : Nat) (l : Launch) : State :=
  let s := (l.snaps.map (·.slot)).eraseDups.foldl (fun s n => s.dropFrame l.ctx n) s
  { s with launches := if l.ackWait then mmod s.launches id fun l => { l with ownOver := true, ended := true, snaps := [] } else merase s.launches id }
/-- Whether the release of an increment still waits: for a link that a line written under a lease goes back by (R193, R203). -/
def State.incrementWaits (s : State) : Bool := s.leases.any fun e => e.2.dirty && e.2.holder.isNone && !s.halted e.2.die && !s.reaches e.2.die (128 * e.1)
/-- COMPLETION_INCREMENT: the RMW at .sys with .rel on the DONE counter. -/
def execCompletionIncrement (launch : Nat) (s : State) : Out1 :=
  let s := s.draw
  match mfind s.launches launch with
  | none => .next s
  | some l =>
    if !s.launchOver launch l then .next s
    else if l.rcd.done = 0 || l.ended then .next (s.endLaunch launch l)
    else if s.incrementWaits then .next s
    else match s.cmdAt l.ctx l.host l.rcd.done 4 .rmw with
    | (s, .wait) => .next { s with launches := mmod s.launches launch fun l => { l with longs := (s.longPage l.ctx l.host l.rcd.done).toList } }
    | (s, .refused) => .next (s.endLaunch launch l)
    | (s, .at k leaf) =>
      if s.mustStall leaf k (.counter launch) then .next (s.stall k (.counter launch))
      else if (s.poisonAt k 8).isSome then .next ((s.readUe k 8).endLaunch launch l)
      else
        let s := (s.publish 6).unstall (.counter launch)
        let v := s.read k 8
        let n := (if l.failed || v.testBit 63 then 2 ^ 63 else 0) + (v % 2 ^ 63 + 1) % 2 ^ 63
        .next ((s.write k 8 n).endLaunch launch l)

/-! LAUNCH (R328, R329). -/

/-- What a LAUNCH has come to: it waits, with the page of a long miss, for the ring or for a short miss; its record; its status. -/
inductive LaunchAt where
  | wait (long : Option Nat) | read (v : Nat) | status (v : Nat)
deriving DecidableEq, Repr
/-- The queue of a LAUNCH, where it is open to the device launches of the context. -/
def State.openQueue (s : State) (ctx q : Nat) : Option Queue := (mfind s.queues q).filter fun d => d.served && d.devopen && d.ctx == ctx
/-- The record of a LAUNCH is read: the checks go alignment, QUEUE, the read (log entry 38). -/
def State.launchRead (s : State) (p : Nat) (o : Op) (va q : Nat) : State × LaunchAt :=
  if va % 128 != 0 || decide (2 ^ 57 < va + 128) then (s, .status 5)
  else if (s.openQueue o.ctx q).isNone then (s, .status 1)
  else match s.xlate p o.ctx va .read with
  | (s, .refusedNow _) | (s, .missRefused _) => (s, .status 5)
  | (s, .short page size) => (s.shortMiss o.ctx page size false, .wait none)
  | (s, .long page) => if o.host.contains page then (s, .status 5) else (s.longMiss o.ctx va 0, .wait (some page))
  | (s, .hit k leaf _) =>
    if s.flagged.contains (k / 2 ^ 16) || (s.poisonAt k 128).isSome then (s.readUe k 128, .status 5)
    else if !s.reaches (pdie p) k || (s.core p).l1Pending none k 128 || s.leaseWaits k 128 false then (s, .wait none)
    else ((s.hbm o.ctx k 128 (pteMemside leaf) false).flits (pdie p) o.ctx k, .read (s.read k 128))
/-- What follows once the record is read: RECORD, KERNEL, FULL, and the entry in the ring. -/
def State.launchEnter (s : State) (p gi : Nat) (o : Op) (v q : Nat) : State × LaunchAt :=
  match s.openQueue o.ctx q with
  | none => (s, .status 1)
  | some d =>
    let ka := (recordOf v).kaddr
    if recordBad v (s.partCores o.ctx) then (s, .status 3)
    else match s.kernelOk o.ctx o.host ka with
    | (t, none) => (t, .wait (s.longPage o.ctx o.host (ka / 64 * 64)))
    | (s, some false) => (s, .status 4)
    | (s, some true) =>
      if 2 ^ d.logcap ≤ (d.prod + 2 ^ 32 - d.head) % 2 ^ 32 then (s, .status 2)
      else match s.cmdAt o.ctx o.host (d.entryVa d.prod) 4 .write with
      | (s, .wait) => (s, .wait (s.longPage o.ctx o.host (d.entryVa d.prod)))
      | (s, .refused) => (s, .status 1)
      | (s, .at e leaf) =>
        let here : Writer := .lane p gi o.id (o.act.headD 0)
        if s.mustStall leaf e here then (s.stall e here, .wait none)
        else if s.lostAt e then (s, .status 1)
        else
          let seq := (d.prod + 1) % 2 ^ 32
          let s := ((s.unstall here).clearPoison e 128).write e 128 (v % 2 ^ 960 + 2 ^ 992 * seq)
          ({ s with queues := minsert s.queues q { d with prod := seq } }, .status (2 ^ 16 * (d.prod % 2 ^ 16)))
/-- A LAUNCH waits on; for a long miss as a load does: the workgroup is frozen (R251, R329). -/
def State.launchWait (s : State) (p gi : Nat) (o : Op) (long : Option Nat) : State :=
  let s := s.modGroup p gi (·.setOp { o with longs := long })
  if long.isSome && gi != guestIx && gi != orphanIx then s.modWg p fun w => { w with frozen := true } else s
/-- The record of a LAUNCH, its checks and its status; what has been read is kept over a wait. -/
def State.launchOn (s : State) (p gi : Nat) (o : Op) (d : Dst) (v : Nat) : State :=
  match s.launchEnter p gi o v (o.args.getD 1 0) with
  | (s, .status w) => s.landOp p gi o (dstWrites d 1 (o.act.map fun n => (n, BitVec.ofNat 64 w)))
  | (s, .wait long) => s.launchWait p gi o long
  | (s, .read _) => s
/-- TOKEN_COUNTDOWN of LAUNCH (R328): the release at .sys first, then the record is read once, then its checks. -/
def State.countLaunch (s : State) (p gi : Nat) (o : Op) (d : Dst) : State :=
  match o.args[2]? with
  | some v => s.launchOn p gi o d v
  | none =>
    if s.waitsAny p gi o then s
    else match (s.publish 6).launchRead p o (o.args.getD 0 0) (o.args.getD 1 0) with
    | (s, .status w) => s.landOp p gi o (dstWrites d 1 (o.act.map fun n => (n, BitVec.ofNat 64 w)))
    | (s, .wait long) => s.launchWait p gi o long
    | (s, .read v) =>
      let o := { o with args := o.args ++ [v], longs := none }
      (s.modGroup p gi (·.setOp o)).launchOn p gi o d v

end Sys2Proof.Machine
end

