-- ==== Sys2Proof/Machine/Sched.lean ====
section
/-! DEFINITION. Dispatch, placement, slices, pre-emption, saves, restores and launches across packages
(spec/13_scheduling.md R335 to R343; spec/15_translation.md R395 to R398; spec/11_execution_model.md R282). -/

namespace Sys2Proof.Machine

/-! Work and slices (R341). -/

/-- Whether a context has work: a posted entry, a taken launch with a unit still to dispatch, or a saved unit. -/
def State.hasWork (s : State) (ctx : Nat) : Bool :=
  (s.queues.any fun e => e.2.ctx == ctx && e.2.served && s.posted e.2)
    || (s.launches.any fun e => e.2.ctx == ctx && !e.2.passedOn) || s.saved.any (·.ctx == ctx)
/-- The valid contexts of a partition that have work. -/
def State.workOf (s : State) (part : Nat) : List Nat :=
  (s.ctxs.filter fun e => e.2.desc.valid && e.2.desc.part == part && s.hasWork e.1).map (·.1)
/-- The physical cores of a partition's logical cores. -/
def State.partPhys (s : State) (part : Nat) (q : Part) : List Nat := (List.range (128 * q.size)).map fun i => s.phys (128 * part + i)
/-- Whether a workgroup of another context than the current one is still placed in a partition. -/
def State.foreign (s : State) (part : Nat) (q : Part) : Bool :=
  (s.partPhys part q).any fun p => (s.core p).wg.any fun w => q.cur != some w.ctx
/-- Release what is held for the units that wait in a partition (R338, R341). -/
def State.releaseHolds (s : State) (part : Nat) : State :=
  { s with cores := s.cores.map fun e =>
      if (s.partOf (pdie e.1)).any (·.1 == part) && (e.2.held.any fun h => !(s.launches.any fun l => l.1 == h.2 && l.2.reserved))
      then (e.1, { e.2 with held := none }) else e }
/-- The slice of a context begins (R341). -/
def State.beginSlice (s : State) (part ctx endTick : Nat) : State :=
  let s := (s.releaseHolds part).modPart part fun q => { q with cur := some ctx, sliceEnd := endTick, chosen := [], making := [] }
  s.modPart part fun q => { q with ending := s.foreign part q }
/-- The next context of a rotation: the lowest above the current one, else the lowest. -/
def nextCtx (cur : Option Nat) (cs : List Nat) : Option Nat :=
  match cs.find? fun c => cur.all (· < c) with
  | some c => some c
  | none => cs.head?
/-- Begin a slice where the current context has no work while another has (R341). -/
def State.rotate (s : State) (part : Nat) : State :=
  match s.part part with
  | none => s
  | some q =>
    let cs := s.workOf part
    if q.cur.any cs.contains then s
    else match nextCtx q.cur cs with
    | some c => s.beginSlice part c (s.ticks + q.slice)
    | none => s
/-- SLICE_END (R341): the next context's slice is counted from this end; with no other context the slice is renewed. -/
def execSliceEnd (part : Nat) (s : State) : Out1 :=
  let s := s.draw
  match s.part part with
  | none => .next s
  | some q => match q.cur with
    | none => .next (s.rotate part)
    | some c =>
      if s.ticks < q.sliceEnd || q.halt.isSome then .next s
      else match nextCtx (some c) ((s.workOf part).filter (· != c)) with
      | some d => .next (s.beginSlice part d (q.sliceEnd + q.slice))
      | none => .next (s.modPart part fun q => { q with sliceEnd := q.sliceEnd + q.slice })

/-! Preparing a core (R337, R398). -/

/-- The guests of other contexts on the empty cores of a partition are to go home: the cores pass to the current context (R341, R358). -/
def State.handOver (s : State) (part : Nat) (q : Part) : State :=
  match q.cur with
  | none => s
  | some ctx =>
    let leave (t : Thread) : Thread := if t.bound.isNone && t.origin.any (·.ctx != ctx) then { t with bound := some none } else t
    let core (e : Nat × Core) : Nat × Core :=
      if e.2.wg.isNone && (s.partPhys part q).contains e.1 then (e.1, { e.2 with guests := { e.2.guests with threads := e.2.guests.threads.map leave } }) else e
    let s := (s.partPhys part q).foldl State.endIdle { s with cores := s.cores.map core }
    -- A return that has left such a core and whose origin is saved goes into the frame too (R358).
    let waits (a : Pannier) : Bool := a.fromGroup == guestIx && a.dest == a.origin.core && a.origin.ctx != ctx
      && (s.core (s.phys a.fromCore)).wg.isNone && (s.partPhys part q).contains (s.phys a.fromCore) && (s.homeOf a.origin).isNone && (s.originWg a.origin).isSome
    (s.panniers.filter fun e => waits e.2).foldl (fun s e => State.storePannier { s with panniers := merase s.panniers e.1 } e.2) s
/-- What a core holds is cleared for another context (R398): everything but calibration, TLB entries and the mode of the
sub-arrays. -/
def State.clearCore (s : State) (p : Nat) : State :=
  (s.clearWindows p).modCore p fun c =>
    let arr : ArrayCore := { subs := c.arr.subs.map fun x => { x with tiles := [] } }
    { c with l1 := [], dir := [], locks := [], arr, lastCtx := none }
/-- Whether a core's L1 is kept for a workgroup of a context with a split, or can be written back now (R182, R398). -/
def State.canTake (s : State) (p ctx carve : Nat) : Bool :=
  let c := s.core p
  (c.lastCtx == some ctx && c.carve == carve) || (s.flushL1 p).isSome
/-- A core is made ready for a workgroup of a context with a carve-out and, for a new one, array modes (R182, R337): the L1 is written back
before it is invalidated. -/
def State.prepare (s : State) (p ctx carve : Nat) (modes : Option Nat) : State :=
  let s := if (s.core p).lastCtx == some ctx && (s.core p).carve == carve then s else (s.flushL1 p).getD s
  let s := if (s.core p).lastCtx == some ctx then s else s.clearCore p
  let s := s.modCore p fun c => { c with l1 := if c.carve = carve then c.l1 else [], carve, lastCtx := some ctx, held := none, reserved := false
                                         quads := if c.quads.isEmpty then List.replicate 4 {} else c.quads }
  match modes with
  | none => s
  | some m =>
    let s := s.clearPlaces (windowKey p 0) (512 * 1024)
    let s := (List.range 4).foldl (fun s q => s.switchMode p q (m.testBit q)) s
    s.modCore p fun c =>
      { c with dir := [], locks := c.locks.filter (fun l => 2 ^ 32 ≤ l.2.k)
               arr := { c.arr with ops := [], kregs := [], fails := [], acc := [], poisoned := [], torn := [] } }
/-- Whether work of a retired workgroup still uses what a placement changes: its arrays, its scratchpad, its private slices. -/
def Core.busyWithPast (c : Core) : Bool :=
  !c.arr.ops.isEmpty || c.orphans.ops.any (fun o => o.lanes.any fun l => !l.done && l.tier != .glob && l.tier != .dmem)
    || c.past.any fun x => x.slices.any fun y => !y.act.isEmpty && (y.ranges.1 ++ y.ranges.2).any fun r => r.1 == 1 || r.1 == 2
/-- Whether a core can take a workgroup of a unit, named by its context and an identifier, which may hold it: guests of another context have
left it (R337, R338, R358). -/
def Core.emptyFor (c : Core) (tag : Nat × Nat) : Bool :=
  c.wg.isNone && !c.reserved && (c.held.isNone || c.held == some tag) && !c.busyWithPast
    && c.guests.threads.all fun t => t.origin.all (·.ctx == tag.1)
/-- The modes of a core's sub-arrays as bits. -/
def Core.modes (c : Core) : Nat := (List.range 4).foldl (fun v q => v + 2 ^ q * b2n (c.arr.sub q).mul) 0
/-- Whether a core holds what a workgroup wants: its context, carve-out and modes (R337). -/
def Core.suits (c : Core) (ctx carve modes : Nat) : Bool := c.lastCtx == some ctx && c.carve == carve && c.modes == modes
/-- Empty cores among some, those of the same context, carve-out and modes first, each part in logical order (R337). -/
def State.preferred (s : State) (ps : List Nat) (tag : Nat × Nat) (ctx carve modes : Nat) : List Nat :=
  let e := ps.filter fun p => (s.core p).emptyFor tag && s.canTake p ctx carve
  e.filter (fun p => (s.core p).suits ctx carve modes) ++ e.filter fun p => !(s.core p).suits ctx carve modes

/-- What names a saved unit among those of its context: the frame slot of its first workgroup; and the tag under which it holds cores. -/
def Saved.name (u : Saved) : Nat := u.units.head?.elim 0 (·.2)
def Saved.tag (u : Saved) : Nat × Nat := (u.ctx, 2 ^ 40 + u.name)

/-! New workgroups (R282, R335, R338). -/

/-- A group as it is created (R282); the satisfied waits of its launch are an acquire at .sys (R203, R334). -/
def newGroup (r : Record) : Group :=
  let ka : DWord := BitVec.ofNat 64 r.kaddr
  let a : DWord := BitVec.ofNat 64 r.args
  { threads := (List.range r.threads).map fun l => { slot := l, lane := l, pc := ka, target := some ka, acquired := !r.waits.isEmpty }
    s := mset 0 (mset 0 [] 0 (wordOf a 0)) 1 (wordOf a 1) }
/-- A workgroup of a launch, by its linear number, on a logical core. -/
def Launch.newWg (l : Launch) (id n lcore : Nat) (tandem : Option (Bool × Nat)) : Workgroup :=
  let r := l.rcd
  { ctx := l.ctx, launch := id, wg := n, wx := n % r.gx, wy := n / r.gx % r.gy, wz := n / (r.gx * r.gy)
    threads := r.threads, regs := 32 * (r.regs + 1), priv := 16 * r.priv, carve := r.carve, cls := l.cls
    gang := n % r.gang, gangSize := r.gang, lcore, groups := List.replicate r.groups (newGroup r)
    persistent := r.persistent, restartable := r.restartable, multi := r.npkg != 0, tandem, queue := l.queue, entry := l.entry }
/-- Place a workgroup of a launch on a core. A satisfied wait is an acquire (R334). -/
def State.placeNew (s : State) (id : Nat) (l : Launch) (n p : Nat) (tandem : Option (Bool × Nat)) : State :=
  let s := s.prepare p l.ctx l.rcd.carve (some l.rcd.array)
  let s := s.modCore p fun c => { c with wg := some (l.newWg id n (s.logical p) tandem), tbuf := [], twait := none, tgo := none }
  if l.rcd.waits.isEmpty then s else s.selfInvalidate p

/-- Workgroups of the next unit of a launch (R335). -/
def Launch.unit (l : Launch) : List Nat :=
  let r := l.rcd
  let n := if r.persistent || r.npkg != 0 then r.total - l.next else r.gang
  (List.range n).map (l.next + ·)
/-- A unit as gangs. -/
def gangsOf (g : Nat) (ns : List Nat) : List (List Nat) := (List.range (ns.length / g)).map fun i => (ns.drop (g * i)).take g
/-- The cores of a cluster that are empty for a unit, in ascending logical order. -/
def State.emptyIn (s : State) (cl : Nat) (tag : Nat × Nat) : List Nat :=
  ((List.range 16).map fun i => s.phys (16 * cl + i)).filter fun p => (s.core p).emptyFor tag
/-- Whether a unit holds clusters for its gangs, not single cores as a pair or a grid does (R338). -/
def State.holdsClusters (s : State) (tag : Nat × Nat) : Bool :=
  (s.launches.any fun e => e.1 == tag.2 && decide (1 < e.2.rcd.gang) && !e.2.rcd.persistent && e.2.rcd.npkg == 0)
    || s.saved.any fun u => u.tag == tag && u.units.any fun x => decide (1 < x.1.gangSize) && !x.1.persistent
/-- Whether another unit holds a cluster (R338). -/
def State.clusterHeld (s : State) (cl : Nat) (tag : Nat × Nat) : Bool :=
  (List.range 16).any fun i => (s.core (s.phys (16 * cl + i))).held.any fun h => h != tag && s.holdsClusters h
/-- Whether a unit holds a core already (R338). -/
def State.holdsCore (s : State) (tag : Nat × Nat) : Bool := s.cores.any fun e => e.2.held == some tag
/-- The cluster for a gang: one held for it already, else that with the most empty cores, the lowest on a tie (R338). -/
def State.gangCluster (s : State) (cls : List Nat) (tag : Nat × Nat) : Option Nat :=
  let mine := cls.filter fun cl => (List.range 16).any fun i => (s.core (s.phys (16 * cl + i))).held == some tag
  let ok := cls.filter fun cl => !s.clusterHeld cl tag
  match mine with
  | cl :: _ => some cl
  | [] => ok.foldl (fun b cl => match b with
    | none => some cl
    | some d => if (s.emptyIn d tag).length < (s.emptyIn cl tag).length then some cl else some d) none

/-- What a unit gets: cores for its workgroups (workgroup, core, tandem role), or cores to hold meanwhile. -/
inductive Assigned where
  | fits (ws : List (Nat × Nat × Option (Bool × Nat))) | holds (ps : List Nat)
deriving DecidableEq, Repr
/-- The copies of a pair: the one on the lower physical core is the primary (R465). -/
def State.pair (s : State) (n p q : Nat) : List (Nat × Nat × Option (Bool × Nat)) :=
  [(n, p, some (decide (q < p), s.logical q)), (n, q, some (decide (p < q), s.logical p))]
/-- What a gang is placed for: its tag, size, and what it wants a core to hold. -/
structure GangWant where
  tag : Nat × Nat
  g : Nat
  carve : Nat
  modes : Nat
deriving DecidableEq, Repr
/-- The empty cores of a cluster for a gang, beside those already given, those preferred first (R337). -/
def State.gangFree (s : State) (x : GangWant) (used : List Nat) (cl : Nat) : List Nat :=
  let free := (s.emptyIn cl x.tag).filter fun p => !used.contains p && s.canTake p x.tag.1 x.carve
  free.filter (fun p => (s.core p).suits x.tag.1 x.carve x.modes) ++ free.filter fun p => !(s.core p).suits x.tag.1 x.carve x.modes
/-- The cores of a cluster that a gang takes, in ascending logical order (R338); none where they do not suffice. -/
def State.gangIn (s : State) (x : GangWant) (used : List Nat) (cl : Nat) : Option (List Nat) :=
  let ps := s.gangFree x used cl
  if s.clusterHeld cl x.tag || decide (ps.length < x.g) then none
  else let take := ps.take x.g; some ((s.emptyIn cl x.tag).filter take.contains)
/-- The cluster for a gang that fits: that with the most preferred cores, then the most empty ones, then the lowest (R337, log entry 37). -/
def State.gangBest (s : State) (x : GangWant) (used cls : List Nat) : Option Nat :=
  let score (cl : Nat) : Nat :=
    let ps := s.gangFree x used cl
    32 * min x.g (ps.filter fun p => (s.core p).suits x.tag.1 x.carve x.modes).length + ps.length
  (cls.filter fun cl => (s.gangIn x used cl).isSome).foldl (fun b cl => match b with
    | none => some cl
    | some d => if score d < score cl then some cl else some d) none
/-- The cores that a gang which does not fit holds: those of its cluster, of two for a tandem gang (R338). -/
def State.gangHolds (s : State) (cls : List Nat) (tag : Nat × Nat) (tandem : Bool) : List Nat :=
  let all (cl : Nat) : List Nat := (List.range 16).map fun i => s.phys (16 * cl + i)
  let a := s.gangCluster cls tag
  a.elim [] all ++ (if tandem then (s.gangCluster (cls.filter (a != some ·)) tag).elim [] all else [])
/-- Cores for gangs, one after the other; `used` are those already given. -/
def State.assignGangs (s : State) (cls : List Nat) (x : GangWant) (tandem : Bool) : List (List Nat) → List Nat → Assigned
  | [], _ => .fits []
  | ns :: rest, used =>
    let a := s.gangBest x used cls
    let b := if tandem then s.gangBest x used (cls.filter (a != some ·)) else none
    match a.bind (s.gangIn x used), b.bind (s.gangIn x used) with
    | none, _ => .holds (s.gangHolds cls x.tag tandem)
    | some ps, qs =>
      if tandem && qs.isNone then .holds (s.gangHolds cls x.tag tandem)
      else
        let here := match qs with
          | some qs => (ns.zip (ps.zip qs)).flatMap fun y => s.pair y.1 y.2.1 y.2.2
          | none => (ns.zip ps).map fun y => (y.1, y.2, none)
        match s.assignGangs cls x tandem rest (used ++ here.map (·.2.1)) with
        | .fits ws => .fits (here ++ ws)
        | h => h
/-- Cores for the next unit of a launch (R337, R338). -/
def State.assign (s : State) (id : Nat) (l : Launch) (ps : List Nat) : Assigned :=
  let r := l.rcd
  let tag := (l.ctx, id)
  let ns := l.unit
  let pref := s.preferred ps tag l.ctx r.carve r.array
  if r.gang = 1 then
    if r.tandem then
      match ns, pref with
      | n :: _, a :: rest => match rest.find? fun b => clusterOf (s.logical b) != clusterOf (s.logical a) with
        | some b => .fits (s.pair n a b)
        | none => .holds (if s.holdsCore tag then [] else [a])
      | _, _ => .holds []
    else if ns.length ≤ pref.length then .fits ((ns.zip pref).map fun x => (x.1, x.2, none))
    else .holds (if r.persistent || r.npkg != 0 then pref else [])
  else
    let cls := (ps.map fun p => clusterOf (s.logical p)).eraseDups
    match s.assignGangs cls ⟨tag, r.gang, r.carve, r.array⟩ r.tandem (gangsOf r.gang ns) [] with
    | .holds h => .holds (if r.persistent || r.npkg != 0 then pref else h)
    | f => f
/-- Hold cores for a unit. -/
def State.holdCores (s : State) (ps : List Nat) (tag : Nat × Nat) : State :=
  ps.foldl (fun s p => s.modCore p fun c => if c.held.isNone then { c with held := some tag } else c) s
/-- Release the cores held under a tag. -/
def State.unhold (s : State) (tag : Nat × Nat) : State :=
  let go (e : Nat × Core) : Nat × Core := if e.2.held == some tag then (e.1, { e.2 with held := none }) else e
  { s with cores := s.cores.map go }
/-- Place the unit of a launch on its cores; the holds that are left are released. -/
def State.placeUnit (s : State) (id : Nat) (l : Launch) (ws : List (Nat × Nat × Option (Bool × Nat))) : State :=
  let s := ws.foldl (fun s w => s.placeNew id l w.1 w.2.1 w.2.2) s
  let s := s.unhold (l.ctx, id)
  { s with launches := mmod s.launches id fun l => { l with next := l.next + l.unit.length, live := l.live + ws.length } }

/-! Restores (R343, R395, R460). -/

/-- Whether the launch of a workgroup is being rolled back (R472). -/
def State.rollingWg (s : State) (w : Workgroup) : Bool := (mfind s.launches w.launch).any (·.rolling)
/-- Whether a saved unit may be restored: its records are answered (R395), and it is not to be rolled back. -/
def State.restorable (s : State) (u : Saved) : Bool := u.waits.isEmpty && u.units.all fun x => !s.rollingWg x.1
/-- The cores among which the workgroups of a gang, or a single workgroup, may be restored (R343, R395): those of its die; of one cluster for a
gang, its own where it was saved by itself on a long miss. -/
def State.savedPlaces (s : State) (u : Saved) (w : Workgroup) : List (List Nat) :=
  let in_ (cl : Nat) : List Nat := (List.range 16).map fun i => s.phys (16 * cl + i)
  let own := clusterOf w.lcore
  if w.gangSize = 1 then [s.dieCores (dieOf w.lcore)]
  else if u.longMiss then [in_ own]
  else in_ own :: (((List.range 8).map fun i => 8 * dieOf w.lcore + i).filter (· != own)).map in_
/-- Cores among some for workgroups, one after the other: preferred ones first (R337). A workgroup's own core, and the one it takes, are empty. -/
def State.pickCores (s : State) (tag : Nat × Nat) (among : List Nat) : List (Workgroup × Core) → List Nat → Option (List Nat)
  | [], _ => some []
  | (w, c) :: rest, used =>
    match s.preferred (among.filter fun p => !used.contains p) tag w.ctx w.carve c.modes with
    | [] => none
    | p :: _ => if (s.core (s.phys w.lcore)).emptyFor tag then (s.pickCores tag among rest (used ++ [p])).map (p :: ·) else none
/-- The workgroups of one gang that come first in a list, and the rest. -/
def splitGang : List (Workgroup × Core) → List (Workgroup × Core) × List (Workgroup × Core)
  | [] => ([], [])
  | x :: rest =>
    let same (y : Workgroup × Core) : Bool := decide (1 < x.1.gangSize) && y.1.sameGang x.1 && clusterOf y.1.lcore == clusterOf x.1.lcore
    (x :: rest.takeWhile same, rest.dropWhile same)
/-- Cores for a saved unit on its own die, gang by gang; n bounds the gangs. -/
def State.assignGangSaved (s : State) (u : Saved) : Nat → List (Workgroup × Core) → List Nat → Option (List Nat)
  | 0, ws, _ => if ws.isEmpty then some [] else none
  | n + 1, ws, used => match splitGang ws with
    | ([], _) => some []
    | (x :: xs, rest) =>
      -- The copies of a tandem unit stay in different clusters (R338, R465).
      let apart (p : Nat) : Bool := x.1.tandem.isNone || !used.any fun r => clusterOf (s.logical r) == clusterOf (s.logical p)
      match (s.savedPlaces u x.1).findSome? fun ps => s.pickCores u.tag (ps.filter apart) (x :: xs) used with
      | none => none
      | some here => (s.assignGangSaved u n rest (used ++ here)).map (here ++ ·)
/-- Cores for a saved unit (R343). -/
def State.assignSaved (s : State) (u : Saved) (ws : List (Workgroup × Core)) (used : List Nat) : Option (List Nat) :=
  s.assignGangSaved u ws.length ws used
/-- The cores that a saved unit which does not fit holds (R338). -/
def State.savedHolds (s : State) (u : Saved) (ps : List Nat) : List Nat :=
  match u.units.map (·.1) with
  | [] => []
  | w :: rest =>
    let dies := dieOf w.lcore :: rest.map fun x => dieOf x.lcore
    let free := ps.filter fun p => (s.core p).emptyFor u.tag && dies.contains (dieOf (s.logical p))
    if w.persistent then free
    else if 1 < w.gangSize then s.gangHolds (((List.range 8).map fun i => 8 * dieOf w.lcore + i)) u.tag w.tandem.isSome
    else if !rest.isEmpty && !s.holdsCore u.tag then free.take 1
    else []
/-- Test the wake conditions of a restored workgroup (R343); a satisfied BWAIT acquires (R203). -/
def State.testWakes (s : State) (p : Nat) : State :=
  match (s.core p).wg with
  | none => s
  | some w =>
    let s := (List.range w.groups.length).foldl (fun s gi =>
      let s := s.modGroup p gi fun g => (g.settle.settleLanes).maskSteps
      match (s.group p gi).park with
      | some (.bwait h off ph cm) => match s.homeCore h with
        | none => s.modGroup p gi (·.unpark)
        | some c =>
          let (done, sat) := c.barrierPast off ph
          if !done then s
          else
            let s := s.modGroup p gi (·.unpark)
            if sat then s.acquireGroup p gi (c.waitLevel off ph cm) else s
      | some (.fetch _) => s.modGroup p gi (·.unpark)
      | _ => s) s
    (List.range 16).foldl (fun s n => (s.barCheck p n).cbarCheck w n) s
/-- A workgroup is lost (R460): its launch ends failed, KIND 7 is reported. -/
def State.loseWg (s : State) (w : Workgroup) : State :=
  let was := (mfind s.launches w.launch).any (·.failed)
  let s := s.asyncFault w.ctx 7 0 w.launch w.wg 0 0
  -- R472: the loss is a consumption of a restartable launch, which does not fail by it.
  let s := if s.consumable w.launch then
      State.consume { s with launches := mmod s.launches w.launch fun l => { l with failed := was } } w.launch
    else s
  State.settleCtx { s with launches := mmod s.launches w.launch fun l => { l with live := l.live - 1 } } w.ctx
/-- Bring one saved workgroup back on a core; the core's L1 keeps nothing older than what the workgroup has read (R223). -/
def State.bring (s : State) (w : Workgroup) (slot : Nat) (c : Core) (p : Nat) : State :=
  let q := s.phys w.lcore
  let s := if q = p then s else s.exchangeGuests q p
  let s := (s.prepare p w.ctx w.carve none).selfInvalidate p
  let here := s.core p
  let subs := (c.arr.subs.zip here.arr.subs).map fun x =>
    { x.1 with calDue := x.2.calDue, samples := x.2.samples, calTemp := x.2.calTemp, spares := x.2.spares }
  let fix (o : Op) : Op := { o with twin := o.twin.map fun t => (w.tandem.elim t.1 fun x => s.phys x.2, t.2) }
  let w : Workgroup := { w with groups := w.groups.map fun g => { g with ops := g.ops.map fix }, reloc := false, target := none, frozen := false }
  let s := s.modCore p fun x => { x with
    wg := some w, arr := { c.arr with subs }, dir := c.dir, tbuf := c.tbuf, twait := c.twait.map fun y => { y with since := s.ticks }, tgo := c.tgo
    locks := x.locks ++ (c.locks.filter fun l => l.2.k < 2 ^ 32) }
  (s.readImage p slot w).dropFrame w.ctx slot
/-- Restore a saved unit (R343): its slots are read back and freed; a slot with a new uncorrectable error loses its workgroup
(R460). Panniers stored for it arrive before any of its groups issues (R358). -/
def State.restoreUnit (s : State) (u : Saved) (ps : List Nat) : State :=
  let s := { s.unhold u.tag with saved := s.saved.erase u }
  let s := ((u.units.zip u.cores).zip ps).foldl (fun s x =>
    let ((w, slot), c) := x.1
    if (s.slotPoison w.ctx slot).any (!u.bad.contains ·) then ((s.readUe (s.slotKey w.ctx slot) slotSpan).loseWg w).dropFrame w.ctx slot else s.bring w slot c x.2) s
  let s := u.panniers.foldl (fun s a =>
    match execPannierArrival s.nextPannier { s with panniers := minsert s.panniers s.nextPannier a, nextPannier := s.nextPannier + 1 } with
    | .next t => t
    | _ => s) s
  let s := ps.foldl (fun s p => s.testWakes p) s
  -- R252, R395: lanes whose miss was refused trap, the others are translated again.
  s.replayLanes fun o l => o.ctx == u.ctx && l.miss && !l.done && l.key.isNone

/-! Choose (R336). -/

/-- The unit that a class would get, of those not chosen yet: the earliest saved one that may be restored, else that of the next queue in
round-robin order. -/
def State.unitOf (s : State) (q : Part) (ctx cls : Nat) : Option (Nat × Nat) :=
  let fresh (x : Nat × Nat) : Bool := !q.chosen.any (·.2 == x)
  match s.saved.find? fun u => u.ctx == ctx && u.cls == cls && s.restorable u && fresh (1, u.name) with
  | some u => some (1, u.name)
  | none =>
    let start := mget 0 q.rr cls
    ((List.range 16).findSome? fun k =>
      let n := 16 * cls + (start + k) % 16
      (s.launches.find? fun e => e.2.queue == n && e.2.ctx == ctx && e.2.ready && !e.2.rolling && decide (e.2.next < e.2.rcd.total)
        && fresh (0, e.1)).map fun e => (0, e.1))
/-- The tag under which a chosen unit of the current context holds cores. -/
def tagOf (ctx : Nat) (x : Nat × Nat) : Nat × Nat := (ctx, if x.1 = 0 then x.2 else 2 ^ 40 + x.2)
/-- The class to choose for, among those without a chosen unit that waits and holds no core (R338). -/
def State.chooseClass (s : State) (q : Part) (ctx : Nat) : Option (Nat × (Nat × Nat)) :=
  let holds (x : Nat × Nat) : Bool := s.holdsCore (tagOf ctx x)
  let us := ((List.range 4).filter fun c => !q.chosen.any fun x => x.1 == c && !holds x.2).filterMap fun c => (s.unitOf q ctx c).map fun u => (c, u)
  match us with
  | [] => none
  | u :: rest => some ((rest.find? fun v => 256 ≤ mget 0 q.passed v.1).getD u)
/-- Place the held part of a launch across packages (R339). -/
def State.goPart (s : State) (id : Nat) (l : Launch) : State :=
  let part := (s.ctx l.ctx).desc.part
  match s.part part with
  | none => s
  | some q => match s.assign id l ((s.partPhys part q).filter fun p => (s.core p).held == some (l.ctx, id)) with
    | .fits ws =>
      let s := s.placeUnit id l ws
      let s := s.modPart part fun q => { q with chosen := q.chosen.filter fun x => x.2 != (0, id) }
      { s with launches := mmod s.launches id fun l => { l with went := true } }
    | .holds _ => s
/-- With RESERVED from every package the coordinator sends GO and places its own part (R339). -/
def State.tryGo (s : State) (id : Nat) : State :=
  match mfind s.launches id with
  | none => s
  | some l =>
    if l.rcd.coord != s.pkgid || l.went || !l.reserved || decide (l.heard.length < l.rcd.npkg + 1) then s
    else
      let others := l.heard.filter (· != s.pkgid)
      let s := { s with outbox := s.outbox ++ others.map (fun n => Out.go (BitVec.ofNat 32 l.rcd.xid).toNat n)
                        launches := mmod s.launches id fun l => { l with goTick := some s.ticks } }
      s.goPart id l
/-- RESERVED is sent once, or noted at the coordinator itself, with those that came before it had its own part (R339). -/
def State.sendReserved (s : State) (id : Nat) (l : Launch) : State :=
  if l.reserved then s
  else if l.rcd.coord = s.pkgid then
    let came := ((s.heardEarly.filter fun e => e.1 == l.rcd.xid).map (·.2)).filter fun n => !l.heard.contains n && n != s.pkgid
    let s := { s with heardEarly := s.heardEarly.filter (fun e => e.1 != l.rcd.xid)
                      launches := mmod s.launches id fun l => { l with reserved := true, heard := came ++ s.pkgid :: l.heard } }
    s.tryGo id
  else
    { s with outbox := s.outbox ++ [.reserved (BitVec.ofNat 32 l.rcd.xid).toNat l.rcd.coord]
             launches := mmod s.launches id fun l => { l with reserved := true } }
/-- The saved unit of the current context with a name. -/
def State.savedNamed (s : State) (q : Part) (n : Nat) : Option Saved := s.saved.find? fun u => q.cur == some u.ctx && u.name == n
/-- Try to place the chosen unit of a class, or hold cores for it (R337, R338); a multi-package part is held until GO. -/
def State.tryChosen (s : State) (part : Nat) (q : Part) (x : Nat × Nat × Nat) : State :=
  let done (s : State) : State := s.modPart part fun q => { q with chosen := q.chosen.filter (· != x), making := q.making.filter (· != x) }
  if x.2.1 = 0 then
    match mfind s.launches x.2.2 with
    | none => done s
    | some l => if l.rolling then done s else if l.reserved then s else match s.assign x.2.2 l (s.partPhys part q) with
      | .holds ps => s.holdCores ps (l.ctx, x.2.2)
      | .fits ws =>
        if l.rcd.npkg != 0 then ((s.unhold (l.ctx, x.2.2)).holdCores (ws.map (·.2.1)) (l.ctx, x.2.2)).sendReserved x.2.2 l
        else done (s.placeUnit x.2.2 l ws)
  else
    match s.savedNamed q x.2.2 with
    | none => done s
    | some u => if !s.restorable u then done s else match s.assignSaved u ((u.units.map (·.1)).zip u.cores) [] with
      | none => s.holdCores (s.savedHolds u (s.partPhys part q)) u.tag
      | some ps => done (s.restoreUnit u ps)
/-- Whether a chosen unit would fit now (R338). -/
def State.fitsNow (s : State) (part : Nat) (q : Part) (x : Nat × Nat × Nat) : Bool :=
  if x.2.1 = 0 then
    (mfind s.launches x.2.2).any fun l => match s.assign x.2.2 l (s.partPhys part q) with | .fits _ => true | .holds _ => false
  else (s.savedNamed q x.2.2).any fun u => (s.assignSaved u ((u.units.map (·.1)).zip u.cores) []).isSome
/-- Chosen units that find no empty core have lower classes make room for them, until they fit (R338, log entry 96). -/
def State.makeRoom (s : State) (part ctx : Nat) : State :=
  s.modPart part fun q =>
    let none_ (x : Nat × Nat × Nat) : Bool := !(s.partPhys part q).any fun p => (s.core p).emptyFor (tagOf ctx x.2)
    { q with making := q.chosen.filter fun x => q.making.contains x || none_ x }
/-- DISPATCH (R336): waiting units are tried again, then one more unit is chosen. -/
def execDispatch (part : Nat) (s : State) : Out1 :=
  let s := s.draw.rotate part
  match s.part part with
  | none => .next s
  | some q =>
    let s := s.modPart part fun q => { q with ending := q.ending && s.foreign part q }
    if q.halt.isSome then .next s
    else match q.cur with
    | none => .next s
    | some ctx =>
      let s := s.handOver part q
      let s := q.chosen.foldl (fun s x => s.tryChosen part ((s.part part).getD q) x) s
      let q := (s.part part).getD q
      match s.chooseClass q ctx with
      | none => .next (s.makeRoom part ctx)
      | some (c, u) =>
        let lower := ((List.range 4).filter (c < ·)).filter fun d => (s.unitOf q ctx d).isSome
        let rr := if u.1 = 0 then (mfind s.launches u.2).elim q.rr fun l => minsert q.rr c ((l.queue + 1) % 16) else q.rr
        let passed := lower.foldl (fun m d => mset 0 m d (mget 0 m d + 1)) (mset 0 q.passed c 0)
        let s := s.modPart part fun q => { q with rr, passed, chosen := q.chosen ++ [(c, u)] }
        .next ((s.tryChosen part ((s.part part).getD q) (c, u)).makeRoom part ctx)
/-- RESTORE (R343): the same for a saved unit of the current context that Choose would take. -/
def execRestore (ctx unit : Nat) (s : State) : Out1 :=
  let s := s.draw
  match (s.saved.filter (·.ctx == ctx))[unit]? with
  | none => .next s
  | some u =>
    let part := (s.ctx ctx).desc.part
    match s.part part with
    | none => .next s
    | some q =>
      let x := (u.cls, 1, u.name)
      if q.halt.isSome || q.cur != some ctx then .next s
      else if q.chosen.contains x then .next (s.tryChosen part q x)
      else if s.chooseClass q ctx != some x then .next s
      else .next (State.tryChosen (s.modPart part fun q => { q with chosen := q.chosen ++ [x] }) part q x)

/-! Saves (R251, R340, R342, R397). -/

/-- Whether a group is at a blocking point (R340). -/
def Group.blockedForSave (g : Group) : Bool :=
  g.ended || (g.run.isNone && (match g.park with
    | some (.twait ..) | some (.bwait ..) | some (.bar _) | some (.cbar _) | some (.qrecv _) => true
    | some _ => false
    | none => !g.threads.any fun t => match t.st with | .ready | .signwait _ => true | _ => false))
/-- Whether a preload of a workgroup is under way. -/
def Core.preloading (c : Core) : Bool := c.allOps.any fun o => match o.i with | .wpre .. => true | _ => false
/-- Whether a lane is held for a short miss. -/
def Workgroup.shortHeld (w : Workgroup) : Bool := w.groups.any fun g => g.ops.any fun o => o.lanes.any fun l => l.miss && !l.done && l.long.isNone
/-- Whether a pre-emption of a workgroup has begun (R342). -/
def Workgroup.leaving (w : Workgroup) : Bool := w.groups.any (·.leaving)
/-- Whether a workgroup on a core is pre-emptible by itself (R340); one whose pre-emption has begun counts. -/
def State.preemptible (s : State) (p : Nat) : Bool :=
  let c := s.core p
  c.wg.any fun w => w.leaving || !w.multi && w.groups.all (·.blockedForSave) && !w.copies.any (·.started) && !c.preloading && !w.shortHeld
    && w.target.isNone && !w.honoured && w.longWaits.isEmpty && !w.groups.all (·.ended) && c.twait.isNone && !s.rollingWg w
/-- The cores of the unit of a workgroup: its gang and its tandem twins, or its whole grid (R340). -/
def State.unitCores (s : State) (w : Workgroup) : List Nat :=
  (s.cores.filter fun e => e.2.wg.any fun x => x.ctx == w.ctx && x.launch == w.launch
    && (w.persistent || (x.wg - x.gang == w.wg - w.gang))).map (·.1)
/-- Whether an operation of a core may stay outstanding through a pre-emption (R262, R325, R342, R170): array operations, sends, waiting
receives, slices of copies that have not started, and those whose last lanes travel. -/
def Op.mayStay (o : Op) (c : Core) (gi : Nat) : Bool :=
  match o.i with
  | .qsend .. => true
  | .qrecv .. => o.stage == 0
  | .mma .. | .mretry .. => true
  | .bcopy .. | .bcopym .. => c.wg.any fun w => w.copies.any fun x => x.k == o.args.headD 0 && !x.started
  | _ => c.arr.heldRefs gi |>.any (·.1 == o.id) |>.or (!o.lanes.isEmpty && o.lanes.all fun l => l.done || l.trav == .gone)
/-- Whether a workgroup's outstanding operations have ended for a pre-emption (R342). -/
def Core.quiet (c : Core) (w : Workgroup) : Bool :=
  (w.groups.zipIdx.all fun g => g.1.ops.all fun o => o.mayStay c g.2)
    && c.arr.ops.all (fun a => a.isMma || c.arr.heldOp a) && c.locks.all fun l => 2 ^ 32 ≤ l.2.k
/-- A commit point's wait as a save keeps it: the ticks waited so far (R468). -/
def Commit.saved (x : Commit) (now : Nat) : Commit := { x with before := x.before + (now - x.since), since := now }
/-- Save the workgroups of some cores into frame slots, as one unit. Retries under way are abandoned: they run again after the restore (R170). Nothing
of a pass is kept between steps. The image shows a relocation request as it stands (R448). -/
def State.saveCores (s : State) (kind : Nat) (ps : List Nat) : State :=
  let rec go : State → List Nat → List (Workgroup × Nat × Core) → State × List (Workgroup × Nat × Core)
    | s, [], acc => (s, acc)
    | s, p :: ps, acc =>
      match (s.core p).wg, (s.core p).wg.bind fun w => s.freeFrame w.ctx with
      | some w, some slot =>
        let w := { w with groups := w.groups.map fun g => { g with leaving := false } }
        let s := ((s.takeFrame w.ctx slot).writeImage kind p slot w []).dropTarget p
        let c := s.core p
        go s ps (acc ++ [({ w with reloc := false, target := none, honoured := false }, slot, { c with twait := c.twait.map (·.saved s.ticks) })])
      | _, _ => go s ps acc
  let (s, us) := go s ps []
  let s := ps.foldl (fun s p => s.modCore p fun c =>
    { c with wg := none, dir := [], tbuf := [], twait := none, tgo := none, lastCtx := c.wg.map (·.ctx)
             locks := c.locks.filter (fun l => 2 ^ 32 ≤ l.2.k)
             -- A sleep of the workgroup ends with its run (R314, R340).
             quads := c.quads.map fun q => if q.sleep.any (·.2 != guestIx) then { q with sleep := none } else q
             arr := { c.arr with ops := [], kregs := [], fails := [], acc := [], poisoned := [] } }) s
  match us with
  | [] => s
  | (w, _, _) :: _ =>
    let bad := us.flatMap fun u => s.slotPoison u.1.ctx u.2.1
    let u : Saved :=
      { ctx := w.ctx, cls := w.cls, units := us.map (fun u => (u.1, u.2.1)), cores := us.map (fun u => { u.2.2 with wg := none, guests := {}, orphans := {} })
        waits := if kind = 2 then (us.flatMap (·.1.longWaits)).eraseDups else [], longMiss := kind == 2, bad }
    State.settleCtx { s with saved := s.saved ++ [u] } w.ctx
/-- Whether a unit has free slots and images that fit (R397, R446). -/
def State.slotsFor (s : State) (ps : List Nat) : Bool :=
  match ps.head?.bind fun p => (s.core p).wg with
  | none => false
  | some w => decide (ps.length ≤ ((List.range (s.ctx w.ctx).desc.frslots).filter fun n => !(s.ctx w.ctx).slots.contains n).length)
    && ps.all fun p => (s.core p).wg.any (·.imageFits)
/-- Whether a workgroup is to leave its core: its context's slice is over, or a unit of a higher class makes room for itself and does not fit
yet, and it is the first that R338 names (lowest class, then lowest logical core). -/
def State.mustLeave (s : State) (p : Nat) (w : Workgroup) : Bool :=
  match s.partOf (pdie p) with
  | none => false
  | some (part, q) =>
    q.cur != some w.ctx && q.cur.isSome
      || (match q.making.find? fun x => decide (x.1 < w.cls) && !s.fitsNow part q x with
        | none => false
        | some x =>
          let cands := (s.partPhys part q).filter fun r => (s.core r).wg.any fun v => decide (x.1 < v.cls) && s.preemptible r
            && (s.unitCores v).all s.preemptible
          let worst := cands.foldl (fun m r => max m ((s.core r).wg.elim 0 (·.cls))) 0
          (cands.find? fun r => (s.core r).wg.any (·.cls == worst)).any fun r => (s.core r).wg.any fun v => (s.unitCores v).contains p)
/-- The groups of a core's workgroup keep their waits from here on, or go on. -/
def State.setLeaving (s : State) (v : Bool) (p : Nat) : State :=
  s.modWg p fun w => { w with groups := w.groups.map fun g => if v then { g with leaving := true } else { g with leaving := false }.settle }
/-- PREEMPTION (R340 to R342): it begins at a moment at which the unit of a core's workgroup is pre-emptible; its operations then
end, and it is saved. One whose image no longer fits is not made (R446). -/
def execPreemption (core : Nat) (s : State) : Out1 :=
  let s := s.draw
  match (s.core core).wg with
  | none => .next s
  | some w =>
    let ps := s.unitCores w
    if s.halted (pdie core) then .next s
    else if w.leaving then
      if !ps.all (fun p => (s.core p).wg.all fun v => (s.core p).quiet v) then .next s
      else .next (if s.slotsFor ps then s.saveCores 1 ps else ps.foldl (fun s p => s.setLeaving false p) s)
    else .next (if s.mustLeave core w && ps.all s.preemptible && s.slotsFor ps then ps.foldl (fun s p => s.setLeaving true p) s else s)
/-- Whether a workgroup that leaves for a long miss, its own or its tandem twin's, can be saved now (R251): its runs are over, but for one that
waits at a commit point; copies, preloads and tile writes are not under way; and the lanes that did not miss are performed. -/
def Core.savesNow (c : Core) : Bool :=
  c.wg.any fun w =>
    let ops := w.groups.flatMap (·.ops)
    w.groups.all (fun g => g.run.all fun r => r.held && r.why == some .commit) && !w.copies.any (·.started) && !c.preloading && !c.writingTile && !w.honoured
      && !ops.any fun o => o.lanes.any fun l => (l.l1.isSome && !l.done) || (o.lanes.any (·.miss) && l.ahead)
/-- The core of a tandem workgroup's twin. -/
def State.twinCore (s : State) (w : Workgroup) : Option Nat := w.tandem.map fun x => s.phys x.2
/-- WORKGROUP_SAVE (R251, R170): a frozen workgroup with a long miss is saved by itself, a tandem copy with its twin (R469). -/
def execWorkgroupSave (core : Nat) (s : State) : Out1 :=
  let s := s.draw
  match (s.core core).wg with
  | none => .next s
  | some w =>
    let ps := core :: (s.twinCore w).toList
    let ok := !s.halted (pdie core) && w.frozen && !w.longWaits.isEmpty && ps.all (fun p => (s.core p).savesNow) && !s.rollingWg w && s.slotsFor ps
    .next (if ok then s.saveCores 2 ps else s)

/-! Launches across packages (R339). -/

/-- The multi-package launch with an identifier. -/
def State.launchX (s : State) (xid : Word) : Option (Nat × Launch) :=
  s.launches.find? fun e => e.2.rcd.npkg != 0 && e.2.rcd.xid == xid.toNat && !(e.2.failed && !e.2.ready)
/-- RESERVED_MESSAGE: the coordinator notes it; one that comes before it has taken its own part is kept for it. -/
def execReservedMessage (xid : Word) (pkg : Nat) (s : State) : Out1 :=
  let s := s.draw
  match s.launchX xid with
  | none => .next (if s.heardEarly.contains (xid.toNat, pkg) then s else { s with heardEarly := s.heardEarly ++ [(xid.toNat, pkg)] })
  | some (id, l) =>
    if l.rcd.coord != s.pkgid || l.went then .next s
    else
      let heard := if l.heard.contains pkg then l.heard else pkg :: l.heard
      .next (State.tryGo { s with launches := mmod s.launches id fun l => { l with heard } } id)
/-- GO_MESSAGE: the held unit is placed at once, GO-ACK is answered. -/
def execGoMessage (xid : Word) (s : State) : Out1 :=
  let s := s.draw
  match s.launchX xid with
  | none => .next s
  | some (id, l) =>
    if !l.reserved || l.went || l.rcd.coord == s.pkgid then .next s
    else .next { s.goPart id l with outbox := s.outbox ++ [.goAck xid.toNat l.rcd.coord] }
/-- GO_ACK at the coordinator. -/
def execGoAck (xid : Word) (pkg : Nat) (s : State) : Out1 :=
  match s.launchX xid with
  | none => .next s
  | some (id, l) =>
    let l' := { l with acks := pkg :: l.acks }
    .next (if l.goTick.isNone || l.acks.contains pkg then s
      else { s with launches := if l.ownOver && !l'.ackWait then merase s.launches id else minsert s.launches id l' })
/-- GO_TIMEOUT: a GO-ACK is missing GOTMO + 1 µs after GO. -/
def execGoTimeout (xid : Word) (s : State) : Out1 :=
  match s.launchX xid with
  | none => .next s
  | some (id, l) => match l.goTick with
    | none => .next s
    | some t =>
      if s.ticks < t + 1000 * (l.rcd.gotmo + 1) || l.rcd.npkg ≤ l.acks.length then .next s
      else
        let die := (s.ctx l.ctx).desc.part
        let s := s.raiseHalt die { cause := 0x85, tick := s.ticks, kind := 6, die, index := 0 }
        .next { s with outbox := s.outbox ++ [.abort xid.toNat]
                       launches := if l.ownOver then merase s.launches id else mmod s.launches id fun l => { l with goTick := none } }
/-- ABORT_MESSAGE: the partition that holds the launch halts. -/
def execAbortMessage (xid : Word) (s : State) : Out1 :=
  match s.launchX xid with
  | none => .next s
  | some (_, l) =>
    let die := (s.ctx l.ctx).desc.part
    .next (s.raiseHalt die { cause := 0x85, tick := s.ticks, kind := 6, die, index := 0 })
/-- WITHDRAW_ENTRY: system software withdraws the head launch of a queue that has reserved and not started; its cores are
released. -/
def execWithdrawEntry (q : Nat) (s : State) : Out1 :=
  match s.launches.find? fun e => e.2.queue == q && e.2.rcd.npkg != 0 && !e.2.went && e.2.next == 0 && !e.2.failed with
  | none => .next s
  | some (id, l) =>
    let s := s.unhold (l.ctx, id)
    let s := s.modPart (s.ctx l.ctx).desc.part fun p => { p with chosen := p.chosen.filter fun x => x.2 != (0, id) }
    .next { s with launches := merase s.launches id }

/-! Grants (R285, R291, R293). -/

/-- Whether what holds the issue of a group of a core is over (R293). -/
def State.cleared (s : State) (p gi : Nat) : Hold → Bool
  | .token t => decide (mget 0 (s.group p gi).tok t < 63)
  | .array qs mma => (s.arr p).hasRoom qs mma
  | .tile qs base => qs.all fun q => (((s.arr p).sub q).tile? base).all (!·.writing)
  | .verdicts qs acc => qs.all fun q =>
      let a := s.arr p
      (a.failOfTile q acc).isSome || a.behind.any (·.1.addsTo q acc) || !a.ops.any (·.addsTo q acc)
  | .copies => (s.core p).wg.all fun w => decide ((w.copies.filter fun y => !y.started && !y.slices.isEmpty).length < 8)
  | .answer h => s.homeHere h || (s.homeCore h).isNone
  | .page ctx page => !s.missStands ctx page
  | .read k => s.reaches (pdie p) k && !s.leaseWaits k 128 false
  | .lock srcs => (s.core p).wg.all fun w => !(s.core p).lockConflict w.ctx (w.lcore % 16) srcs [] && (s.core p).freeLock.isSome
  | .origin => !s.guestExitWaits p ((s.group p gi).headSet (gi == guestIx))
  | .commit => let c := s.core p; if c.tgo.isNone then c.twait.isNone else c.tgo.any (·.group == gi)
/-- Priority class of a group in a grant of a quadrant: its launch's; the guest group's is the highest among its ready threads, each of its own
launch's (R353); a group that has yielded there is below every class once its run is over (R313). -/
def State.classOf (s : State) (p q gi : Nat) : Nat :=
  let c := s.core p
  let g := c.group gi
  if g.yielded == some q && (g.run.isNone || g.headGone (gi == guestIx)) then 4
  else if gi = guestIx then g.readyThreads.foldl (fun m t => min m ((t.origin.bind s.originWg).elim 3 (·.cls))) 3
  else c.wg.elim 3 (·.cls)
/-- Whether a group of a core may be granted no run now, because of a freeze (R251, R370): while one waits for the core's runs to end, only
suspended runs are seen to their end. -/
def Core.frozen (c : Core) (gi : Nat) : Bool :=
  let held (g : Group) : Bool := g.run.any (·.held)
  c.wg.any fun w =>
    let own := w.groups.any held
    (w.target.isSome && !(own || held c.guests)) || (w.frozen && gi != guestIx && !own)
/-- Whether a group is frozen because its tandem twin is (R251, R469): the pair is saved together. -/
def State.twinFrozen (s : State) (p gi : Nat) : Bool :=
  gi != guestIx && (s.core p).wg.any fun w => !w.groups.any (fun g => g.run.any (·.held)) && (s.twinCore w).any fun q => (s.core q).wg.any (·.frozen)
/-- Whether a group takes part in a grant now: a suspended run once its hold is over (R293); not where it must wait at a freeze (R251, R370), a
commit point (R467), or a halt. -/
def State.grantable (s : State) (p q gi : Nat) : Bool :=
  let c := s.core p
  let g := c.group gi
  let other := (List.range 4).any fun r => r != q && (c.quad r).holder == some guestIx
  let rolled := gi != guestIx && c.wg.any s.rollingWg
  g.ready && !g.leaving && !rolled && g.run.all (fun r => r.held && r.why.all (s.cleared p gi)) && !c.frozen gi && !s.twinFrozen p gi && !(gi == guestIx && other)
    && !(c.twait.isSome && gi != guestIx) && !s.skidPast p
/-- RUN_GRANT (R291). A suspended run goes on with its count, unless none of its threads is in the head set any more (R290). -/
def execRunGrant (core q : Nat) (s : State) : Out1 :=
  let s := s.draw
  let c := s.core core
  let x := c.quad q
  let all := c.inQuad q
  let rdy := all.filter fun gi => s.grantable core q gi
  if x.holder.isSome || x.sleep.isSome || rdy.isEmpty then .next s
  else
    let cls (gi : Nat) : Nat := s.classOf core q gi
    let top := rdy.foldl (fun m gi => min m (cls gi)) (cls (rdy.headD 0))
    let starved := rdy.filter fun gi => decide (16 ≤ (c.group gi).passed) && decide (cls gi < 4)
    let k := match starved with
      | [] => top
      | g :: gs => gs.foldl (fun m gi => min m (cls gi)) (cls g)
    let pool := (if starved.isEmpty then rdy else starved).filter fun gi => cls gi == k
    let last := mget 0 x.last k
    let pick := match pool.find? fun gi => (mfind x.last k).all fun _ => decide (last < gi) with
      | some gi => gi
      | none => pool.headD 0
    let mark (gi : Nat) (g : Group) : Group :=
      let g := if g.yielded == some q && (g.run.isNone || g.headGone (gi == guestIx)) then { g with yielded := none } else g
      if gi = pick then
        { g with run := some (if g.headGone (gi == guestIx) then {} else { (g.run.getD {}) with held := false, why := none }), passed := 0 }
      else { g with passed := if g.ready then (if k < cls gi then g.passed + 1 else g.passed) else 0 }
    let s := all.foldl (fun s gi => s.modGroup core gi (mark gi)) s
    .next { s.modCore core (·.modQuad q fun x => { x with holder := some pick, last := minsert x.last k pick }) with focus := (core, pick) }

end Sys2Proof.Machine
end

