-- ==== Sys2Proof/Machine/Count.lean ====
section
/-! DEFINITION. TOKEN_COUNTDOWN: an outstanding operation reaches its completion point (spec/02_instruction_word.md R46; the rule of
each instruction stands with its meaning). -/

namespace Sys2Proof.Machine

/-- One outstanding operation goes on as far as what it waits for allows: its accesses are performed, its results land, its token
counts down. The operations of engines end at events of their own. -/
def State.countOp (s : State) (p gi : Nat) (o : Op) : State :=
  if o.tandemWaits then s
  else match o.i with
  | .ldp .. | .lds .. | .ldc .. | .ldd .. | .ldg .. | .stp .. | .sts .. | .stc .. | .std .. | .stg .. | .atom .. | .atomf .. | .red ..
  | .cas .. | .cstore .. | .xload .. | .migto .. => s.countAccess p gi o
  | .fence .. => s.countFence p gi o
  | .cctlWb _ m => s.countCctl p gi o m false
  | .cctlInv _ m | .cctlWbinv _ m => s.countCctl p gi o m true
  | .seal _ m => s.countSeal p gi o m.dst
  | .unseal _ m => s.countUnseal p gi o m.dst
  | .ard .. => s.countArd p gi o
  | .mdrain .. => s.countMdrain p gi o
  | .macc .. => s.countMacc p gi o
  | .mzero .. => s.countMzero p gi o
  | .mfix _ a => s.countMfix p gi o a
  | .mretry _ _ a => s.countMretry p gi o a
  | .barrive .. | .barriveTx .. => s.countBarrive p gi o
  | .bar .. => s.countBar p gi o false
  | .cbar .. => s.countBar p gi o true
  | .qsend .. => s.countQsend p gi o
  | .qrecv .. => s.countQrecv p gi o
  | .mwait .. => s.countMwait p gi o
  | .nma .. | .nmar .. | .bdot .. | .gred .. => s.countNmu p gi o
  | .launch _ d _ _ => s.countLaunch p gi o d
  | .tlbiVa .. | .tlbiAsid .. => s.countTlbi p gi o
  -- R151: an ACAL with no calibration in array order counts down at once.
  | .acal .. => if (s.arr p).ops.any fun a => a.group == gi && a.op == o.id then s else s.landOp p gi o []
  | .amodeSto .. | .amodeMul .. | .awr .. | .ald .. | .mma .. | .bcopy .. | .bcopym .. | .broom .. | .wpre .. | .migret .. => s
  | _ => s.landOp p gi o o.writes
/-- TOKEN_COUNTDOWN. -/
def execTokenCountdown (core group op : Nat) (s : State) : Out1 :=
  let s := s.draw
  match (s.group core group).op? op with
  | some o => .next (s.countOp core group o)
  | none => .next s

end Sys2Proof.Machine
end

