-- ==== Sys2Proof/Machine/Recover.lean ====
section
/-! DEFINITION. Uncorrectable errors, the patrol, tandem commits and rollback (spec/18_containment.md R452 to R473). -/

namespace Sys2Proof.Machine

/-! Uncorrectable errors (R452 to R463). -/

/-- How UE_DETECTED names a register: physical core, group, thread and operand code (R456). -/
def regKey (p gi slot code : Nat) : Nat := ((p * 66 + gi) * 64 + slot) * 256 + code
/-- A plane slot or directory entry of a tile with an uncorrectable error: the tile is faulted (R457). -/
def State.planeUe (s : State) (p q slot : Nat) : State :=
  s.modArr p (·.modSub q fun x => { x with tiles := x.tiles.map fun t =>
    if t.base ≤ slot && slot < t.base + t.width then { t with fault := some (.ue 5) } else t })
/-- The core and the offset of a place in a core's window. -/
def windowOfKey (k : Nat) : Option (Nat × Nat) :=
  if windowKey 0 0 ≤ k && k < privKey 0 0 0 0 then some ((k - windowKey 0 0) / 2 ^ 22, (k - windowKey 0 0) % 2 ^ 22) else none
/-- UE_DETECTED: an uncorrectable error in the granule of a place, with its source class (R452, R453); the read that meets it is what
NMU_BERR records (R451); class 7 names a register (R456), and class 0 a single-bit error of the column of a stack, which its next reader corrects
(log entry 115). In a sub-array in multiply mode it lies in a plane slot (R457). -/
def execUeDetected (key cls : Nat) (s : State) : Out1 :=
  if cls = 7 then
    let code := key % 256
    let slot := key / 256 % 64
    let gi := key / 16384 % 66
    let p := key / 16384 / 66
    .next (s.modGroup p gi fun g => { g with ueRegs := if g.ueRegs.contains (slot, code) then g.ueRegs else g.ueRegs ++ [(slot, code)] })
  else if cls = 0 && key < 2 ^ 40 then .next { s with weak := s.weak ++ [key / 32] }
  else if !([1, 2, 3, 4, 5, 6, 9, 10].contains cls) then .next s
  else
    match windowOfKey key with
    | some (p, off) =>
      let q := off / 0x80000 - 1
      if 0x80000 ≤ off && ((s.core p).arr.sub q).mul then .next (s.planeUe p q (off % 0x80000 / 2048)) else .next (s.enterPoison key cls)
    | none => .next (s.enterPoison key cls)
/-- ACCUMULATOR_UE (R457). -/
def execAccumulatorUe (core q a m n : Nat) (s : State) : Out1 :=
  let t := 8 * q + a
  .next (s.modArr core fun x => { x with acc := mset 0 x.acc (t * 2048 + 128 * m + n) 0x7FE00008
                                         poisoned := if x.poisoned.contains t then x.poisoned else x.poisoned ++ [t] })
/-- The INDEX of an engine of a kind in a die, by a number (R443). -/
def engineIndex (kind die n : Nat) : Nat :=
  match kind with
  | 1 => n % 136
  | 2 | 3 => n % 8
  | 4 => 2 * die + n % 2
  | _ => 0
/-- A halt raised by an engine that the event does not name: the engine is a free value. -/
def State.haltByEngine (s : State) (die cause : Nat) : State :=
  let n := Config.freeNat s.draws (site 20 0)
  s.raiseHalt die { cause, tick := s.ticks, kind := 1 + n % 6, die, index := engineIndex (1 + n % 6) die (n / 6) }
/-- Whether the containment of an entry is lost (R463): its copies disagree, or neither is good; else the entry is used, the primary where it can
be corrected, or the duplicate. -/
def Twofold.lost (t : Twofold) : Bool := (t.primary == .bad && !t.parity) || (t.primary != .bad && t.parity && !t.agree)
/-- The die at which an entry is kept (R462). -/
def Keep.die : Keep → Nat
  | .poison g => if 2 ^ 58 ≤ 32 * g then (32 * g - 2 ^ 58) / 2 ^ 28 else 32 * g / 2 ^ 37
  | .remap r => r.die
  | .retired f => f * 2 ^ 16 / 2 ^ 37
/-- The entries of a die's containment structures (R462). -/
def State.keeps (s : State) (die : Nat) : List Keep :=
  (s.poison.map (fun e => Keep.poison e.1) ++ s.remaps.map Keep.remap ++ s.retired.map Keep.retired).filter fun k => k.die == die
/-- The entry whose containment a die loses, with its copies: which of them it is is free, and so is how it is lost (log entry 112); a die that
keeps none loses an entry of its remap CAM. -/
def State.lostKeep (s : State) (die : Nat) : Keep × Twofold :=
  let n := Config.freeNat s.draws (site 37 0)
  let ks := s.keeps die
  (ks.getD (n / 2 % max 1 ks.length) (.remap { kind := 0, die, unit := 0, failed := n, spare := n }),
    if n % 2 = 0 then { primary := .bad, parity := false } else { primary := .correctable, agree := false })
/-- CONTAINMENT_LOST (R463): what is homed behind the structure reads as poison from now on. -/
def execContainmentLost (die : Nat) (s : State) : Out1 :=
  let s := s.draw
  .next { s.haltByEngine die 0x82 with
    lostHomes := if s.lostHomes.contains die then s.lostHomes else s.lostHomes ++ [die]
    kept := s.kept ++ [s.lostKeep die] }
/-- PATROL_SCRUB (R461): columns of 32 bytes by number in the stack; those from 2^31 on stand for a corrected single-bit error of
column less 2^31. -/
def execPatrolScrub (stack : Nat) (columns : List Nat) (s : State) : Out1 :=
  .next <| columns.foldl (fun s c =>
    let key := stackKey stack (32 * (c % 2 ^ 31))
    if 2 ^ 31 ≤ c then { s with weak := s.weak.filter (· != key / 32) }.bankCe key
    else if (mfind s.poison (key / 32)).isSome then s
    else ((s.bankUe key).healthLog (stack / 2) 1 (bankKey key) (key % 2 ^ 36) 0).enterPoison key 1) s

/-! Tandem (R465 to R468). -/

/-- One bit of the CRC-64 of ECMA-182. -/
def crcBit (r : Nat) (b : Bool) : Nat :=
  let top := r.testBit 63 != b
  let r := r * 2 % 2 ^ 64
  if top then r ^^^ 0x42F0E1EBA9EA3693 else r
/-- The CRC-64 of the n bytes of a number, the lowest byte first, each from its highest bit (R466). -/
def crc64 (v : Nat) : Nat → Nat → Nat
  | 0, r => r
  | n + 1, r => crc64 (v / 256) n ((List.range 8).foldl (fun r i => crcBit r (v.testBit (7 - i))) r)
/-- The term of a held write (R466). -/
def Held.term (h : Held) : Nat := crc64 (h.va % 2 ^ 61 + 2 ^ 61 * h.tier + 2 ^ 64 * (h.v % 2 ^ 64) + 2 ^ 128 * h.size) 24 0
/-- The signature of some held writes. -/
def signOf (hs : List Held) : Nat := hs.foldl (fun v h => (v + h.term) % 2 ^ 64) 0
/-- The signature of a copy. -/
def Core.signature (c : Core) : Nat := signOf c.tbuf
/-- Whether two copies agree at a commit point, whose own held writes count (R467). -/
def sameCommit (a b : Core) : Bool :=
  match a.twait, b.twait with
  | some x, some y =>
    x.pc == y.pc && x.group == y.group && x.what == y.what && (a.tbuf ++ x.writes).length == (b.tbuf ++ y.writes).length
      && signOf (a.tbuf ++ x.writes) == signOf (b.tbuf ++ y.writes)
  | _, _ => false
/-- Whether a held write of the primary cannot be made at its home yet: its miss stands, or another package's lease or a link is in the way
(R192, R250). -/
def State.heldWaits (s : State) (p : Nat) (h : Held) : Bool :=
  match h.key with
  | none => true
  | some k => !s.reaches (pdie p) k || (h.tier == 0 && s.leaseWaits k h.size true)
/-- Why a held write is not made although its place is free: the range was sealed, or the lease lost (R188, R194; log entry 118). -/
def State.heldRefused (s : State) (h : Held) (k : Nat) : Option Nat :=
  if h.tier != 0 then none
  else if s.sealedAt h.ctx h.va h.size then some 0x0D
  else if s.flagged.contains (k / 2 ^ 16) then some 0x0E
  else none
/-- The primary's held write is performed, a RED on what its unit holds; one to a poisoned unit is not made, and both copies' group meets
the error (R454, R472). -/
def State.performHeld (s : State) (p q : Nat) (h : Held) : State :=
  match h.key with
  | none => s
  | some k =>
    let o : Op := { i := h.i, pc := h.pc, ctx := h.ctx, id := h.op, act := [h.slot], twin := some (q, h.group, h.op) }
    let meet (s : State) (cause info : Nat) : State := s.deferTrap p h.group o { cause, info, lane := some h.lane, addr := h.va }
    match s.heldRefused h k with
    | some c => meet s c 0
    | none =>
      let base := k / 8 * 8
      let v := h.onto base (s.read base 8) / 256 ^ (k - base) % 256 ^ h.size
      let l : LaneOp := { slot := h.slot, tier := if h.tier = 0 then .glob else .dmem, va := h.va, size := h.size, leaf := h.leaf, v := BitVec.ofNat 64 v }
      let (s, r) := s.storeHome p 4 { o with twin := none } l k
      match r.ue with
      | some (_, cls, _) => meet s 0x17 cls
      | none => s.refreshOwn q k h.size
/-- TANDEM_COMMIT: both copies wait at a commit point and are compared. A page or replica that must be collapsed first is, in its turn (R191); the
retirement and the start of a copy go on here. -/
def execTandemCommit (core : Nat) (s : State) : Out1 :=
  let s := s.draw
  match (s.core core).wg.bind (·.tandem) with
  | none => .next s
  | some (second, other) =>
    let o := s.phys other
    let (p, q) := if second then (o, core) else (core, o)
    let a := s.core p
    let b := s.core q
    match a.twait, b.twait with
    | some x, some y =>
      if !sameCommit a b then
        .next (s.raiseHalt (pdie p) { cause := 0x88, tick := s.ticks, kind := 1, die := pdie p, index := p % 136, core := p })
      else if a.tbuf.any (s.heldWaits p) || b.tbuf.any (·.key.isNone) then .next s
      else match a.tbuf.find? fun h => h.tier == 0 && s.mustStall h.leaf (h.key.getD 0) (.held p) with
      | some h => .next (s.stall (h.key.getD 0) (.held p))
      | none =>
        let s := a.tbuf.foldl (fun s h => s.performHeld p q h) (s.unstall (.held p))
        let go (c : Core) (x : Commit) : Core := { c with tbuf := [], twait := none, tgo := some x }
        let s := (s.modCore p (go · x)).modCore q (go · y)
        .next (if x.group = 0x2000 then (s.tryRetire p).tryRetire q
          else if x.group = 0x1000 then (s.startCopies p).startCopies q else s)
    | _, _ => .next s
/-- TANDEM_TIMEOUT (R468): counted while both copies are placed; what was waited before a save counts. -/
def execTandemTimeout (core : Nat) (s : State) : Out1 :=
  let c := s.core core
  match c.wg.bind (·.tandem), c.twait with
  | some (_, other), some x =>
    let twin := s.core (s.phys other)
    if 1000000 ≤ x.before + (s.ticks - x.since) && twin.wg.any (fun w => c.wg.any fun v => v.launch == w.launch && v.wg == w.wg) && !sameCommit c twin then
      .next (s.raiseHalt (pdie core) { cause := 0x88, tick := s.ticks, kind := 1, die := pdie core, index := core % 136, core := core })
    else .next s
  | _, _ => .next s

/-! Rollback (R472, R473). -/

/-- The workgroup on a core is given up without an image. -/
def State.vacate (s : State) (p : Nat) : State :=
  let s : State := match (s.core p).wg with
    | some w => (s.core p).dir.foldl (fun s b => s.detachAll w.home b.1) (s.dropTarget p)
    | none => s
  s.modCore p fun c =>
    { c with wg := none, dir := [], tbuf := [], twait := none, tgo := none, lastCtx := c.wg.map (·.ctx)
             locks := c.locks.filter (fun l => 2 ^ 32 ≤ l.2.k), quads := List.replicate 4 {}
             arr := { c.arr with ops := [], kregs := [], fails := [], acc := [], poisoned := [] } }
/-- The cores that hold a workgroup of a launch. -/
def State.coresOf (s : State) (id : Nat) : List Nat := (s.cores.filter fun e => e.2.wg.any (·.launch == id)).map (·.1)
/-- Whether an operation has ended as far as R342 asks, or waits for an answer that the rollback makes needless. -/
def Op.overForRollback (o : Op) (c : Core) (gi : Nat) : Bool :=
  o.mayStay c gi || (!o.lanes.isEmpty && o.lanes.all fun l => l.done || l.long.isSome || l.trav == .gone)
/-- Whether the placed workgroups of a launch have stopped and their work has ended (R472). -/
def State.stoppedFor (s : State) (id : Nat) : Bool :=
  (s.coresOf id).all fun p =>
    let c := s.core p
    !c.preloading && c.wg.all fun w => !w.copies.any (·.started)
      && w.groups.zipIdx.all fun g => g.1.run.all (·.held) && g.1.ops.all fun o => o.overForRollback c g.2
/-- Every snapshot page goes back to its frame whole (R472); none where a snapshot has an uncorrectable error (R473). -/
def State.unsnap (s : State) (ctx : Nat) : List Snap → Option State
  | [] => some s
  | n :: ns =>
    if (s.poisonAt n.copy n.size).isSome then none
    else (((s.copyPlaces n.copy n.home n.size).count ctx 17 n.size).count ctx 18 n.size).unsnap ctx ns
/-- The rollback itself: the attempt's workgroups, frames, guests and panniers are discarded, the pages are written back, counter
27 advances, and the launch is dispatched again from its first unit. -/
def State.rollBack (s : State) (id : Nat) : State :=
  match mfind s.launches id with
  | none => s
  | some l =>
    let mine (o : Origin) : Bool := o.ctx == l.ctx && o.launch == id
    let s := (s.coresOf id).foldl (fun s p => s.vacate p) s
    let guests : List (Nat × Nat) := s.cores.flatMap fun e => (e.2.guests.threads.filter fun t => t.origin.any mine).map fun t => (e.1, t.slot)
    let s := guests.foldl (fun s g => (s.modGroup g.1 guestIx (·.dropGuest g.2)).endIdle g.1) s
    let s := (s.panniers.filter fun e => mine e.2.origin).foldl (fun s e => s.discardPannier e.1 e.2) s
    let gone := s.saved.filter fun u => u.units.any (·.1.launch == id)
    let s := { s with saved := s.saved.filter fun u => !u.units.any (·.1.launch == id) }
    let s := (gone.flatMap (·.units)).foldl (fun s x => s.dropFrame x.1.ctx x.2) s
    let s := s.unhold (l.ctx, id)
    let s := s.modPart (s.ctx l.ctx).desc.part fun q => { q with chosen := q.chosen.filter fun x => x.2 != (0, id) }
    let put (s : State) (f : Launch → Launch) : State := { s with launches := mmod s.launches id f }
    let s := match s.unsnap l.ctx l.snaps with
      | some s =>
        let s := s.count l.ctx 27 1
        put s fun l => { l with next := 0, live := 0, rolling := false, afterHalt := false, rollbacks := l.rollbacks + 1 }
      | none =>
        let s := l.snaps.foldl (fun s n => s.readUe n.copy n.size) s
        put (s.asyncFault l.ctx 7 0 id 0 0 0) fun l =>
          { l with next := l.rcd.total, live := 0, rolling := false, afterHalt := false, failed := true }
    let s := (l.snaps.map (·.slot)).eraseDups.foldl (fun s n => s.dropFrame l.ctx n) s
    State.settleCtx (put s fun l => { l with snaps := [] }) l.ctx
/-- ROLLBACK: once the launch's workgroups have stopped; after a halt it is made as the halt ends. -/
def execRollback (launch : Nat) (s : State) : Out1 :=
  let s := s.draw
  match mfind s.launches launch with
  | none => .next s
  | some l => .next (if l.rolling && !l.afterHalt && !s.ctxHalted l.ctx && s.stoppedFor launch then s.rollBack launch else s)

end Sys2Proof.Machine
end

