-- ==== Sys2Proof/Machine/Halt.lean ====
section
/-! DEFINITION. Halts: the settling of work in flight, stop records and halt images (spec/17_traps.md R438 to R446). -/

namespace Sys2Proof.Machine

/-- A pannier in flight that carries a thread of a context of a partition is lost: which one is a free choice. The thread is no more, and the
halt names it by its origin: its core, its group and its PC (R358; log entry 90). None where no pannier is in flight. -/
def State.losePannier (s : State) (part : Nat) : Option State :=
  let mine := s.panniers.filter fun e => (s.ctx e.2.origin.ctx).desc.part == part
  mine[Config.freeNat s.draws (site 33 0) % mine.length]?.map fun e =>
    let p := s.phys e.2.origin.core
    State.raiseHalt { s with panniers := merase s.panniers e.1 } (pdie p)
      { cause := 0x87, tick := s.ticks, kind := 1, die := pdie p, index := p % 136, core := p
        trapGroup := e.2.origin.group, trapPc := e.2.pc.toNat }
/-- HALT_RAISE: a cause of R438 arises in a partition from an engine that the event does not name. -/
def execHaltRaise (part cause : Nat) (s : State) : Out1 :=
  let s := s.draw
  let lost := if cause = 0x87 then s.losePannier part else none
  .next (lost.getD (if 0x80 ≤ cause && cause ≤ 0x88 then s.haltByEngine part cause else s))

/-! Settling (R440, R441). -/

end Sys2Proof.Machine

namespace Sys2Proof

/-- The operations that have left the core, or would, when it halts: accesses by lanes (R440). -/
def Instr.leavesCore : Instr → Bool
  | .ldp .. | .lds .. | .ldc .. | .ldd .. | .ldg .. | .stp .. | .sts .. | .stc .. | .std .. | .stg .. | .atom .. | .atomf .. | .red ..
  | .cas .. | .cstore .. | .xload .. | .nma .. => true
  | _ => false

end Sys2Proof

namespace Sys2Proof.Machine

/-- The outstanding operations of some cores: core, group, identifier. -/
def State.opsOf (s : State) (ps : List Nat) (f : Op → Bool) : List (Nat × Nat × Nat) := ps.flatMap fun p =>
  let c := s.core p
  c.groupIxs.flatMap fun gi => ((c.group gi).ops.filter f).map fun o => (p, gi, o.id)
/-- Let every access that has left its core be performed; each round performs at least one while any can be. -/
def State.settleAccesses (s : State) (ps : List Nat) : Nat → State
  | 0 => s
  | n + 1 =>
    let work := s.opsOf ps fun o => o.i.leavesCore
    let s := work.foldl (fun s w => match (s.group w.1 w.2.1).op? w.2.2 with
      | some o => State.draw (s.countOp w.1 w.2.1 o)
      | none => s) s
    s.settleAccesses ps n
/-- What the halt notes of the near-memory units: discarded commands by stack, in order (the entry of R442), and commands
completed by stack. -/
structure NmuHalt where
  gone : List (Nat × Nat) := []
  done : List Nat := []
deriving DecidableEq, Repr
/-- The group of the workgroup that an operation of a core is of, by the thread's number there: a guest's is that of its origin. -/
def State.groupOf (s : State) (p gi slot : Nat) : Nat :=
  if gi = orphanIx then slot % 2 ^ 32 / 64
  else if gi != guestIx then gi
  else if 1000 ≤ slot then slot / 1000 - 1
  else (((s.core p).guests.thread? slot).bind (·.origin)).elim 0 (·.group)
/-- The entry of a discarded command (R442). -/
def discardEntry (o : Op) (va gi lane lc : Nat) : Nat :=
  let f := Fields.ofWord ((encode o.i).getD 0)
  va % 2 ^ 57 + 2 ^ 64 * gi + 2 ^ 72 * lane + 2 ^ 80 * f.op + 2 ^ 88 * f.fn + 2 ^ 96 * lc
/-- The stack that serves an address of a context, where a walk finds one. -/
def State.stackOf (s : State) (ctx va : Nat) : Option Nat :=
  match s.walk ctx va with
  | .leaf size e => let k := leafKey e size va; if k < 2 ^ 40 then some (k / 2 ^ 36) else none
  | _ => none
/-- The near-memory accesses of NMA that are still to be made on some cores: core, group, operation, thread, and the stack. -/
def State.nmasLeft (s : State) (ps : List Nat) : List (Nat × Nat × Nat × Nat × Nat) :=
  (s.opsOf ps fun o => match o.i with | .nma .. => true | _ => false).flatMap fun w => match (s.group w.1 w.2.1).op? w.2.2 with
    | some o => o.lanes.filterMap fun l => if l.done then none else l.key.map fun k => (w.1, w.2.1, o.id, l.slot, k / 2 ^ 36)
    | none => []
/-- NMAR, BDOT and GRED at the halt: whether the first column read of a command has begun is a free choice; those begun complete, the
others, at a stack of the partition, are discarded and listed; lanes that are held at their core are kept. -/
def State.settleNmu (s : State) (part size : Nat) (ps : List Nat) : State × NmuHalt :=
  let cmds := s.opsOf ps fun o => match o.i with | .nmar .. | .bdot .. | .gred .. => true | _ => false
  let here (k : Nat) : Bool := decide (2 * part ≤ k) && decide (k < 2 * (part + size))
  cmds.foldl (fun (acc : State × NmuHalt) w =>
    let (s, h) := acc
    let s := s.draw
    match (s.group w.1 w.2.1).op? w.2.2 with
    | none => (s, h)
    | some o =>
      let lc := s.logical w.1
      let at_ : List (Nat × Nat × Nat × Nat) := match o.i with
        | .bdot .. => match s.stackOf o.ctx (o.args.getD 0 0) with
          | some k => [(k, o.args.getD 0 0, o.act.headD 0, (o.act.headD 0) % 64)]
          | none => []
        | _ => o.lanes.filterMap fun l => if l.done then none else match l.key with
          | some k => if k < 2 ^ 40 then some (k / 2 ^ 36, l.va, l.slot, l.lane) else none
          | none => none
      let mine := at_.filter fun x => here x.1
      if Config.freeBool s.draws (site 21 0) || mine.isEmpty then
        let s' := s.countOp w.1 w.2.1 o
        let ended := (((s'.group w.1 w.2.1).op? w.2.2).elim true fun x => x.lanes.all (·.done) && !x.lanes.isEmpty)
        (s', if ended then { h with done := h.done ++ mine.map (·.1) } else h)
      else
        let kept := o.lanes.map fun l => if mine.any (·.2.2.1 == l.slot) then { l with done := true } else l
        let s' := s.modGroup w.1 w.2.1 fun g => if kept.all (·.done) then g.dropOp o.id else g.setOp { o with lanes := kept }
        (s', { h with gone := h.gone ++ mine.map fun x => (x.1, discardEntry o x.2.1 (s.groupOf w.1 w.2.1 x.2.2.1) x.2.2.2 lc) }))
    (s, {})

/-- The matrix work of a core is abandoned: the accumulators that it writes are TORN; tiles that are being written are no longer
resident; operations held behind a failure stay for the image (R440, R447). -/
def ArrayCore.tear (a : ArrayCore) : ArrayCore :=
  let jobs : List (List (Nat × Nat)) := (a.ops.filterMap fun o => match o.kind with | .mma j => some j.rcd.tiles | _ => none)
    ++ (a.fails.filter (·.retry.isSome)).map (fun f => f.job.rcd.tiles)
    ++ a.kregs.filterMap (fun e => if e.2.signed.isEmpty then none else e.2.record.map (·.tiles))
  let torn := (jobs.flatMap fun ts => ts.map fun t => 8 * t.1 + t.2).eraseDups
  { a with ops := a.ops.filter a.heldOp, torn := (a.torn ++ torn).eraseDups, fails := a.fails.map (fun f => { f with retry := none })
           subs := a.subs.map fun x => { x with tiles := x.tiles.filter (!·.writing) } }

/-- The segments in flight of a started copy finish: which they are is a free choice within the window of 32 (R441); the number
finished. -/
def State.finishSegments (s : State) (p k : Nat) : State × Nat :=
  match (s.core p).copy? k with
  | none => (s, 0)
  | some c =>
    let work : List (Nat × Nat) := c.slices.flatMap fun x =>
      ((List.range 32).map fun i => (x.group, c.high x + i)).filter fun w => s.mayLand p c x w.2 && !c.fix.contains w
    let some_ := freeSome s.draws (site 22 0) work
    some_.foldl (fun acc w =>
      let s := acc.1.draw
      match s.sliceAt p k w.1 with
      | some (c, x) => if !s.mayLand p c x w.2 then (s, acc.2) else match s.segment p c x w.2 with
        | (s, none) => (s, acc.2 + 1)
        | (s, some (.code n)) => (s.setCopy p { c with code := n, errGroup := w.1 }, acc.2)
        | (s, _) => (s, acc.2)
      | none => (s, acc.2)) (s, 0)
/-- The copy entry of a copy (R441). -/
def Copy.entry (c : Copy) : Nat :=
  let slices := c.slices.zipIdx.foldl (fun v e =>
    let (x, j) := e
    let hi := c.high x
    let win := (List.range 32).foldl (fun w i => w + 2 ^ i * b2n (x.written.contains (hi + i))) 0
    v + 2 ^ (8 * (16 + 16 * j)) * (x.group + 2 ^ 8 * (b2n (!x.act.isEmpty) + 2 * b2n x.gone) + 2 ^ 32 * min (128 * hi) x.len + 2 ^ 64 * win
      + 2 ^ 96 * x.done)) 0
  let fix := c.fix.zipIdx.foldl (fun v e => v + 2 ^ (8 * (1040 + 8 * e.2)) * (128 * e.1.2 + 2 ^ 32 * e.1.1)) 0
  (if c.bcopym then 0xA1 else 0xA0) + 2 ^ 8 * c.slices.length + 2 ^ 16 * c.fix.length + 2 ^ 32 * (c.status {group := 0, i := .nop ⟨none, false, false, 0⟩, tok := none, pc := 0, act := [], block := []} % 2 ^ 32)
    + 2 ^ 64 * (c.k % 2 ^ 32) + slices + fix
/-- The copy entry of a preload: how far its source had been read, beyond the blocks it has kept, is a free value. -/
def State.preloadEntry (s : State) (o : Op) (lock : Lock) : Nat :=
  let len := lock.srcs.foldl (fun v r => v + r.2.2) 0
  let hi := min len (bytesRead (s.preSlot o) o.blocks / 128 * 128 + 128 * (Config.freeNat s.draws (site 23 o.id) % (len / 128 + 1)))
  let gone := o.args.getD 4 0 == 1
  0xAB + 2 ^ 8 * 1 + 2 ^ 32 * (statusWord 0 gone false (s.replayed o 0) o.preGroup % 2 ^ 32) + 2 ^ 128 * (o.preGroup + 2 ^ 8 + 2 ^ 9 * b2n gone + 2 ^ 32 * hi + 2 ^ 96 * hi)

/-! Panniers and guests (R440). -/

/-- Panniers in flight to a core of the partition arrive. -/
def State.landPanniers (s : State) (ps : List Nat) : State :=
  ((s.panniers.filter fun e => ps.contains (s.phys e.2.dest)).map (·.1)).foldl (fun s i =>
    match execPannierArrival i s with
    | .next s => s
    | _ => s) s
/-- Every guest of some cores leaves its core as a pannier for its origin; the core it was on is told with it. -/
def State.takeGuests (s : State) (ps : List Nat) : State × List (Nat × Pannier) :=
  let all : List (Nat × Pannier) := ps.flatMap fun p => ((s.core p).guests.threads.filterMap fun th => th.origin.map fun o =>
    (p, s.homePannier p th o))
  let late : List (Nat × Pannier) := (s.panniers.filter fun e => ps.contains (s.phys e.2.origin.core)).map fun e => (s.phys e.2.dest, e.2)
  let s := ps.foldl (fun s p => s.modCore p fun c => { c with guests := {} }) s
  ({ s with panniers := s.panniers.filter fun e => !ps.contains (s.phys e.2.origin.core) }, all ++ late)
/-- The lanes of guests that are held for replay are kept by the groups of their origins, for the image (R440, R442). -/
def State.keepGuestLanes (s : State) (ps : List Nat) : State :=
  (ps.flatMap fun p => (s.core p).guests.ops.flatMap fun o => (o.lanes.filter fun l => l.miss && !l.done).filterMap fun l =>
    (((s.core p).guests.thread? l.slot).bind (·.origin)).map fun x => (x, o, l)).foldl (fun s e =>
      let q := s.phys e.1.core
      if (s.core q).wg.any (·.owns e.1) then
        s.modGroup q e.1.group fun g =>
          { g with nextOp := g.nextOp + 1, ops := g.ops ++ [{ e.2.1 with id := g.nextOp, tok := none, act := [e.1.lane], lanes := [{ e.2.2 with slot := e.1.lane, lane := e.1.lane }] }] }
      else s) s
/-- The die whose page engine a miss is with, among those of a partition: that of the entry that the walk stops at (log entry 119). -/
def State.missDie (s : State) (part size : Nat) (m : Miss) : Nat :=
  match s.walk m.ctx m.page with
  | .short _ _ entry => let d := entry / 2 ^ 37; if part ≤ d && d < part + size then d else part
  | _ => part

/-! Stop records (R442 to R444). -/

/-- The stop area of a physical core, and the record j of the other engines of a die. -/
def stopArea (base part p : Nat) : Nat := ctlKey (base + 2 ^ 25 * (pdie p - part) + 2 ^ 17 * (p % 136))
def stopOther (base part die j : Nat) : Nat := ctlKey (base + 2 ^ 25 * (die - part) + 24 * 2 ^ 20 + 64 * j)
/-- The common bytes of a stop record. -/
def stopHead (kind cause die index haltNo tick : Nat) : Nat :=
  kind + 2 ^ 8 * cause + 2 ^ 16 * die + 2 ^ 24 * index + 2 ^ 32 * haltNo + 2 ^ 64 * tick
/-- What the stop record of a core tells beside the core's own state. -/
structure CoreStop where
  slot : Option Nat := none
  target : Option Nat := none
  guests : Nat := 0
  skid : Bool := false
deriving DecidableEq, Repr
/-- A core's stop record (R443). -/
def State.coreStop (s : State) (q : Part) (h : Halt) (p : Nat) (x : CoreStop) : Nat :=
  let c := s.core p
  let torn := c.arr.torn.foldl (fun v i => v + 2 ^ i) 0
  let raised := h.kind == 1 && h.die == pdie p && h.index == p % 136
  let flags := b2n c.wg.isSome + 2 * b2n x.slot.isSome + 4 * b2n x.target.isSome + 8 * b2n raised + 16 * b2n x.skid + 32 * b2n (!c.arr.torn.isEmpty)
  let live := c.wg.elim 0 fun w => w.groups.zipIdx.foldl (fun v g => if g.1.ended then v else v + 2 ^ g.2) 0
  stopHead 1 h.cause (pdie p) (p % 136) q.haltNo s.ticks + 2 ^ 128 * (c.wg.elim 0xFF (·.ctx)) + 2 ^ 136 * flags + 2 ^ 144 * s.logical p
    + 2 ^ 160 * (x.slot.getD 0xFFFFFFFF) + 2 ^ 192 * live + 2 ^ 256 * torn + 2 ^ 288 * x.guests
    + (if raised then 2 ^ 304 * h.trapCause + 2 ^ 312 * h.trapGroup + 2 ^ 320 * h.trapPc else 0) + 2 ^ 384 * (x.target.getD 0)

/-- The halt image of the workgroup on a core (R440, R446): the slot it went to. -/
def State.haltImage (s : State) (p : Nat) (ps : List Pannier) : State × Option Nat :=
  match (s.core p).wg with
  | none => (s, none)
  | some w =>
    if !w.imageFits || (lget {} s.islands (s.islandOf p)).tripped then (s, none)
    else match s.freeFrame w.ctx with
    | none => (s, none)
    | some slot => ((s.takeFrame w.ctx slot).writeImage 3 p slot w ps, some slot)
/-- Nothing of a stopped workgroup is outstanding any more. -/
def Workgroup.still (w : Workgroup) : Workgroup :=
  { w with groups := w.groups.map fun g => { g with ops := [], run := none, hazards := [], leaving := false }, copies := [], reloc := false, target := none, honoured := false }

/-- The whole of R440: what is in flight is settled, images and records are written. -/
def State.settleHalt (s : State) (part : Nat) (q : Part) (h : Halt) : State :=
  let ps := s.partPhys part q
  let used := ps.filter fun p => (mfind s.cores p).isSome
  -- Compare-and-swaps of page engines that were sent complete, the other misses are abandoned; no lane that waits for one goes on.
  let mine := s.misses.filter fun e => (s.ctx e.2.ctx).desc.part == part
  let sent := freeSome s.draws (site 24 0) (mine.filter fun e => e.2.swap.isSome)
  let lost := (mine.filter fun e => !sent.contains e).map fun e => s.missDie part q.size e.2
  let s := sent.foldl (fun s e => (s.resolveMiss e.1 e.2).1) s
  let s := { s with misses := s.misses.filter fun e => !((s.ctx e.2.ctx).desc.part == part) }
  -- Relocations are abandoned: the workgroup stays on its old core.
  let targets := used.map fun p => (p, (s.core p).wg.bind (·.target))
  let nmas := s.nmasLeft used
  let s := s.settleAccesses used ((s.opsOf used fun o => o.i.leavesCore).length + 1)
  let (s, nmu) := s.settleNmu part q.size used
  let s := (s.landPanniers used)
  let s := s.settleAccesses used 1
  let madeNow : List Nat := (nmas.filter fun x => !(s.nmasLeft used).contains x).map (·.2.2.2.2)
  let nmu : NmuHalt := { nmu with done := nmu.done ++ madeNow }
  let skids := used.filter fun p => let c := s.core p; c.guests.skidTrap.isSome || c.wg.any fun w => w.groups.any (·.skidTrap.isSome)
  let s := s.keepGuestLanes used
  let (s, guests) := s.takeGuests used
  -- R441: segments in flight, then the copy entries.
  let started (s : State) (p : Nat) : List Copy := ((s.core p).past ++ (s.core p).wg.elim [] (·.copies)).filter (·.started)
  let (s, segs) := used.foldl (fun (acc : State × List (Nat × Nat)) p =>
    (started acc.1 p).foldl (fun acc c => let (s, n) := acc.1.finishSegments p c.k; (s, acc.2 ++ [(p, n)])) acc) (s, [])
  let s := used.foldl (fun s p =>
    let c := s.core p
    c.locks.foldl (fun s e =>
      let k := stopArea q.stopBase part p + 4096 + 2048 * e.1
      if e.2.opc = 0xAB then
        match c.allOps.find? fun o => match o.i with | .wpre .. => o.preLock == e.1 | _ => false with
        | some o => s.ctlWrite k 2048 (s.preloadEntry o e.2)
        | none => s
      else match c.copy? e.2.k with
        | some x => s.ctlWrite k 2048 x.entry
        | none => s) s) s
  let stopped := used.map fun p => (p, (started s p).length + ((s.core p).locks.filter (·.2.opc == 0xAB)).length)
  let s := used.foldl (fun s p => s.modCore p fun c => { c with arr := c.arr.tear }) s
  -- What could not be performed is kept in the image as lanes held for replay.
  let keepLane (l : LaneOp) : LaneOp := if l.done then l else { l with miss := true }
  let keepOp (o : Op) : Op := if o.i.leavesCore then { o with lanes := o.lanes.map keepLane } else o
  let keepGrp (g : Group) : Group := { g with ops := g.ops.map keepOp }
  let s := used.foldl (fun s p => s.modWg p fun w => { w with groups := w.groups.map keepGrp }) s
  -- Images are written, cores record their stops.
  let (s, slots) := used.foldl (fun (acc : State × List (Nat × Nat)) p =>
    let mine := (guests.filter fun g => acc.1.phys g.2.origin.core == p && (acc.1.core p).wg.any (·.ctx == g.2.origin.ctx)).map (·.2)
    match acc.1.haltImage p mine with
    | (s, some slot) => (s, acc.2 ++ [(p, slot)])
    | (s, none) => (s, acc.2)) (s, [])
  let s := ps.foldl (fun s p =>
    let x : CoreStop := { slot := mfind slots p, target := ((targets.find? (·.1 == p)).bind (·.2))
                          skid := skids.contains p
                          guests := (guests.filter fun g => g.1 == p && (mfind slots (s.phys g.2.origin.core)).isSome).length }
    s.ctlWrite (stopArea q.stopBase part p) 64 (s.coreStop q h p x)) s
  -- The other engines.
  let dies := (List.range q.size).map (part + ·)
  let put (s : State) (die j kind index a b : Nat) : State :=
    s.ctlWrite (stopOther q.stopBase part die j) 64 (stopHead kind h.cause die index q.haltNo s.ticks + 2 ^ 128 * a + 2 ^ 160 * b)
  let s := dies.foldl (fun s d =>
    let s := (List.range 8).foldl (fun s c =>
      let in_ (p : Nat) : Bool := clusterOf (s.logical p) == 8 * d + c
      let n := (stopped.filter fun e => in_ e.1).foldl (fun v e => v + e.2) 0
      let m := (segs.filter fun e => in_ e.1).foldl (fun v e => v + e.2) 0
      (put s d c 2 c n m |> fun s => put s d (8 + c) 3 c 0 0)) s
    let s := (List.range 2).foldl (fun s i =>
      let k := 2 * d + i
      let gone := nmu.gone.filter (·.1 == k)
      let s := put s d (16 + i) 4 k (nmu.done.filter (· == k)).length gone.length
      gone.zipIdx.foldl (fun s e => s.ctlWrite (ctlKey (q.stopBase + 2 ^ 25 * (d - part) + 28 * 2 ^ 20 + 2 ^ 21 * i + 16 * e.2)) 16 e.1.2) s) s
    put s d 18 5 0 (lost.filter (· == d)).length 0) s
  let s := used.foldl (fun s p => s.dropTarget p) s
  let still (e : Nat × Core) : Nat × Core := if used.contains e.1 then
      (e.1, { e.2 with wg := e.2.wg.map Workgroup.still, orphans := {}, past := [], locks := [], twait := none, tgo := none, tbuf := []
                       quads := List.replicate 4 {}, arr := { e.2.arr with ops := [] } }) else e
  let power (i : Nat) (x : Island) : Island := if dies.contains (i / 4) && x.tripped then { x with off := true } else x
  { s with cores := s.cores.map still, islands := s.islands.mapIdx power }

/-- SKID_END: 512 cycles of every core after the halt was raised. -/
def execSkidEnd (part : Nat) (s : State) : Out1 :=
  let s := s.draw
  match s.part part with
  | none => .next s
  | some q => match q.halt with
    | none => .next s
    | some h =>
      if h.skidOver || !((s.partPhys part q).all fun p => s.skidPast p) then .next s
      else
        let s := s.modPart part fun q => { q with halt := q.halt.map fun h => { h with skidOver := true } }
        .next (s.settleHalt part q h)

/-- HALT_RECORDED (R444, R445): the summary is written last; launches with a workgroup in the partition end failed, but for
restartable ones that an UNCORRECTABLE halt rolls back (R473); the partition holds no workgroup any more. -/
def execHaltRecorded (part : Nat) (s : State) : Out1 :=
  let s := s.draw
  match s.part part with
  | none => .next s
  | some q => match q.halt with
    | none => .next s
    | some h =>
      if !h.skidOver || h.recorded then .next s
      else
        let ps := s.partPhys part q
        let ids := ((ps.filterMap fun p => (s.core p).wg.map (·.launch))
          ++ (s.saved.filter fun u => (s.ctx u.ctx).desc.part == part).flatMap fun u => u.units.map (·.1.launch)).eraseDups
        let back (id : Nat) : Bool := h.cause == 0x83 && s.consumable id
        let failed := ids.filter fun id => !back id
        let s := failed.foldl (fun s id => { s with launches := mmod s.launches id fun l => { l with failed := true, next := l.rcd.total, live := 0, rolling := false } }) s
        let s := (ids.filter back).foldl (fun s id => { s with launches := mmod s.launches id fun l => { l with rolling := true, afterHalt := true, live := 0 } }) s
        let base := stopOther q.stopBase part part 31
        let s := s.ctlWrite base 64 (stopHead 6 h.cause part 0 q.haltNo s.ticks + 2 ^ 128 * failed.length + 2 ^ 160 * h.later
          + 2 ^ 192 * (h.kind + 2 ^ 8 * h.die + 2 ^ 16 * h.index) + 2 ^ 448 * q.haltNo)
        let s := s.modPart part fun q => { q with halt := q.halt.map fun h => { h with recorded := true } }
        let s := ps.foldl (fun s p => if (s.core p).wg.isSome then s.vacate p else s) s
        let s := { s with saved := s.saved.filter fun u => !((s.ctx u.ctx).desc.part == part) }
        .next ((s.ctxs.filter fun e => e.2.desc.part == part).foldl (fun s e => s.settleCtx e.1) s)

end Sys2Proof.Machine
end

