-- ==== Sys2Proof/Machine/Device.lean ====
section
/-! DEFINITION. Steps of the device around the cores: power and temperature (spec/01_machine.md R23, R26, spec/14_migration.md R367,
R369), the cadence, leases and replicas (spec/07_memory_tiers.md R191 to R194, spec/08_consistency.md R204, R213), links
(spec/18_containment.md R474 to R476), periodic reports and the end of debug rights (spec/16_identity_accounting.md R411, R415). -/

namespace Sys2Proof.Machine

/-! Power and temperature. -/

/-- The hottest reading of an island, among the cores that the state lists; an unlisted core reads 0. -/
def State.hottest (s : State) (i : Nat) : Int := (s.cores.filter fun e => s.islandOf e.1 == i && s.enabled e.1).foldl (fun m e => max m e.2.temp) 0
/-- One 25 MHz step down every 10 µs while a core stays at or above 105 °C, to the floor of 600 MHz (R26). -/
def State.stepDown (s : State) (i : Nat) (x : Island) : Island :=
  if 420 ≤ s.hottest i && decide (x.stepped + 10000 ≤ s.ticks) then { x with clock := max 24 (x.clock - 1), stepped := s.ticks } else x
/-- The emergency of an island ends when every core of it reads at or below 100 °C (R26). -/
def State.calmed (s : State) (i : Nat) (x : Island) : Island := if s.hottest i ≤ 400 then { x with emergency := false } else x
/-- An island's clock at an interval of the arbiter (R23, R26): lowered freely, raised by at most 4 steps, between 1.2 and 2.5 GHz
outside an emergency. -/
def State.arbitrate (s : State) (i : Nat) (x : Island) (target : Nat) : Island :=
  let x := s.calmed i x
  if x.off then x
  else if x.emergency then s.stepDown i x
  else { x with clock := min (x.clock + 4) (min 100 (max 48 target)) }
/-- POWER_ARBITER_INTERVAL: every 10 µs; pending relocation requests with no target are looked at again (R369). -/
def execPowerArbiterInterval (targets : List Nat) (s : State) : Out1 :=
  let s := s.draw
  if s.ticks < s.power + 10000 then .next s
  else
    let s := { s with power := s.ticks, islands := s.islands.mapIdx fun i x => s.arbitrate i x (targets.getD i x.clock) }
    .next ((s.cores.map (·.1)).foldl (fun s p => s.seekTarget p) s)
/-- HARD_THROTTLE: a core at or above 105 °C (R26). -/
def execHardThrottle (core : Nat) (s : State) : Out1 :=
  if (s.core core).temp < 420 then .next s
  else
    let i := s.islandOf core
    let go (x : Island) : Island :=
      if x.off then x else if x.emergency then s.stepDown i x else { x with clock := 48, emergency := true, stepped := s.ticks }
    .next { s with islands := lmod s.islands i go }
/-- THERMAL_TRIP: a core at or above 115 °C halts its partition; its island is powered down once its stop records are written, at
once where they are already, or where no partition holds it (R26). -/
def execThermalTrip (core : Nat) (s : State) : Out1 :=
  if (s.core core).temp < 460 then .next s
  else
    let i := s.islandOf core
    let die := pdie core
    if (lget {} s.islands i).tripped then .next s
    else
      let alone := (s.partOf die).all fun q => q.2.halt.any (·.skidOver)
      let s := { s with islands := lmod s.islands i fun x => { x with tripped := true, off := x.off || alone } }
      .next (s.raiseHalt die { cause := 0x84, tick := s.ticks, kind := 1, die, index := core % 136, core })
/-- SENSOR_SAMPLE (R26, R139, R367): a reading in quarter degrees. A drift of 10 °C since a calibration makes the next one due. A
fused-off core has no reading (R13, R15). -/
def execSensorSample (core : Nat) (reading : Word) (s : State) : Out1 :=
  let note (c : Core) : Core :=
    let c := { c with temp := reading.toInt }
    { c with arr := (List.range 4).foldl (fun a q => if c.calDue q then a.modSub q fun x => { x with calDue := true } else a) c.arr }
  if !s.enabled core then .next s
  else
    let s := s.modCore core note
    let s := { s with islands := lmod s.islands (s.islandOf core) (s.calmed (s.islandOf core)) }
    .next (s.requestRelocation core)

/-! The cadence (R213). -/

/-- The leases on the lines of a region that this package holds end, its lines with them: none is in force once the flag is cleared (R478). -/
def State.clearLeases (s : State) (region : Nat) : State :=
  (s.leases.filter fun e => e.2.line / 512 == region).foldl (fun s e =>
    let l := e.2
    let s : State := if l.holder.isNone then (if l.dirty then { s with mem := memPut s.mem (l.line * 128) l.home } else s).dropLine l.line else s
    { s with leases := merase s.leases e.1 }) s
/-- CADENCE_TICK: every 128 ns. That another home's software has cleared the flag of one of its regions (R478) is seen at a tick; which
is a free choice (log entry 83). -/
def execCadenceTick (s : State) : Out1 :=
  if s.ticks < 128 * (s.cadence + 1) then .next s
  else
    let s := s.draw
    let cleared := s.flagged.filter fun r => decide (2 ^ 24 ≤ r) && Config.freeBool s.draws (site 29 r)
    let s := cleared.foldl State.clearLeases s
    .next { s with cadence := s.cadence + 1, flagged := s.flagged.filter fun r => !cleared.contains r }

/-! Leases (R192 to R194). -/

/-- What another package writes back to a line homed here: its bytes are free (R193). -/
def State.otherBack (s : State) (line : Nat) : State :=
  { s with mem := memPut s.mem (line * 128) ((List.range 128).map fun i => BitVec.ofNat 8 (Config.freeNat s.draws (site 28 i))) }
/-- A lease's dirty data is written back to the home. -/
def State.leaseClean (s : State) (key : Nat) (l : Lease) : State :=
  if !l.dirty then s
  else match l.holder with
    | none => s.leaseBack l.line
    | some _ => { s.otherBack l.line with leases := mmod s.leases key fun l => { l with dirty := false } }
/-- Whether the holder of a lease can send the home anything: its partition is not halted, and a link reaches the home (R194, R416). -/
def State.leaseSends (s : State) (l : Lease) : Bool := l.holder.isSome || (!s.halted l.die && s.reaches l.die (128 * l.line))
/-- LEASE_WRITEBACK_DEADLINE: 18 µs into a write lease that has not been renewed, the dirty line is written back. -/
def execLeaseWritebackDeadline (line : Nat) (s : State) : Out1 :=
  let s := s.draw
  match mfind s.leases line with
  | some l => .next (if l.write && s.leaseSends l && decide (l.since + 18000 ≤ s.ticks) then s.leaseClean line l else s)
  | none => .next s
/-- LEASE_RECALL: the home recalls a read lease. -/
def execLeaseRecall (line : Nat) (s : State) : Out1 :=
  match mfind s.leases line with
  | some l => .next (if l.write then s else { (if l.holder.isNone then s.dropLine l.line else s) with leases := merase s.leases line })
  | none => .next s
/-- A region's lost flag is set (R194). -/
def State.flagRegion (s : State) (key : Nat) : State :=
  if s.flagged.contains (key / 2 ^ 16) then s else { s with flagged := s.flagged ++ [key / 2 ^ 16] }
/-- LEASE_EXPIRY: a write lease ends at the home with neither a renewal nor a clean end: the line reverts, its region is flagged. A
read lease, or one whose data is written back, ends with nothing to revert. Of a line homed here it is another package's write lease, whose data never came. -/
def execLeaseExpiry (line : Nat) (s : State) : Out1 :=
  match mfind s.leases line with
  | none => .next (if line * 128 < 2 ^ 40 then s.flagRegion (line * 128) else s)
  | some l =>
    if s.ticks < l.since + leaseTerm l.write then .next s
    else
      let s : State := { (if l.holder.isNone then s.dropLine l.line else s) with leases := merase s.leases line }
      if !l.write || !l.dirty then .next s
      else .next (State.flagRegion (if l.holder.isNone then { s with mem := memPut s.mem (l.line * 128) l.home } else s) (l.line * 128))
/-- LEASE_TERM_END: the holder drops the line at the end of its term, dirty data written back first, and the lease ends cleanly; what a halted or
unreachable holder has not written back expires instead (R193, R194). -/
def execLeaseTermEnd (line : Nat) (s : State) : Out1 :=
  let s := s.draw
  match mfind s.leases line with
  | none => .next s
  | some l =>
    if s.ticks < l.since + leaseTerm l.write || (l.dirty && !s.leaseSends l) then .next s
    else .next { (if l.holder.isNone then (s.leaseClean line l).dropLine l.line else s.leaseClean line l) with leases := merase s.leases line }

/-! Replicas and probes (R191, R204). -/

/-- The step at which a write that waits at a home goes on. -/
def Writer.retry : Writer → Instr
  | .lane p gi op _ => .tokenCountdown p gi op
  | .segment p k g j => .copySegmentLand p k g j
  | .pannier n => .pannierArrival n
  | .held p => .tandemCommit p
  | .counter l => .completionIncrement l
/-- COLLAPSE_COMPLETE: every replica of a chunk is gone from the other dies, and the stalled writes are the next steps, in the order in which they
reached the home (R191). -/
def execCollapseComplete (chunk : Nat) (s : State) : Out1 :=
  let s := s.draw
  if !s.collapsing.contains chunk then .next s
  else
    let home := chunk * 2 ^ 16 / 2 ^ 36 / 2
    let away (e : Nat × Core) : Nat × Core := if pdie e.1 = home then e else (e.1, { e.2 with l1 := e.2.l1.filter fun l => l.key / 2 ^ 16 != chunk })
    let s : State := { s with
      collapsing := s.collapsing.filter (· != chunk)
      replicas := s.replicas.filter fun e => e.1 / 512 != chunk
      cores := s.cores.map away }
    .next { s with inbox := ((s.stalls.filter fun e => e.1 == chunk && s.stalled e.2).map (·.2.retry)) ++ s.inbox }
/-- PROMOTION_PROBE_ANSWER (R204): every store in a probed core's L1 is performed, at .dom and wider the lines written under a lease are written
back too (R193, R198), then the acquire proceeds. -/
def execPromotionProbeAnswer (core group op : Nat) (s : State) : Out1 :=
  let s := s.draw
  match (s.group core group).op? op with
  | none => .next s
  | some o =>
    if o.stage != 1 || o.probes.isEmpty || (decide (5 ≤ o.level group) && s.incrementWaits) then .next s
    else
      let flushed := o.probes.foldl (fun (x : Option State) p => x.bind fun s => s.flushL1 p) (some s)
      match flushed with
      | none => .next s
      | some s => match (s.group core group).op? op with
        | some o => .next ((s.publish (o.level group)).modGroup core group (·.setOp { o with stage := 3, probes := [] }))
        | none => .next s

/-! Links (R417, R474 to R476). -/

/-- Log a port's event into the health log of every partition (R461). -/
def State.linkLog (s : State) (port kind : Nat) : State :=
  (s.parts.map (·.1)).foldl (fun s d => s.healthLog d kind port 0 ((mget {} s.ports port).stat port)) s
def State.setPort (s : State) (n : Nat) (p : Port) : State := { s with ports := minsert s.ports n p }
/-- A link by number: a port, or a die-to-die link (R474). -/
def State.link (s : State) (n : Nat) : Port := if n < 64 then mget {} s.ports n else s.dieLinkOf n
/-- A port goes down (R475, R476): the flits of its replay buffer go to another port to the same package, if one is up. That it is lost is logged, not
that one which is down stays so. -/
def State.portDown (s : State) (n : Nat) : State :=
  let p := mget {} s.ports n
  let other := if n = 0 then none else (s.ports.find? fun e => e.1 != 0 && e.1 != n && e.2.up && Config.peer e.1 % 1024 == Config.peer n % 1024).map (·.1)
  let s := s.setPort n { p with up := false, rate := 3, lanes := 0, training := none, recent := [], quiet := s.ticks, sent := if other.isSome then 0 else p.sent }
  let s := match other with
    | some m => { s with ports := mmod s.ports m fun q => { q with sent := q.sent + p.sent } }
    | none => s
  if p.up || (p.training.isSome && p.rate != 3) then s.linkLog n 6 else s
/-- A die-to-die link still cannot deliver a flit after a retraining: every partition that holds either die halts (R476). Whether the flit is a
pannier's, where one is in flight, is a free choice. -/
def State.linkDead (s : State) (n : Nat) : State :=
  let parts := (([(n - 64) / 8, (n - 64) % 8].filterMap s.partOf).map (·.1)).eraseDups
  let lost (s : State) (d : Nat) : Option State := if Config.freeBool s.draws (site 34 n) then s.losePannier d else none
  let cause := if (parts.findSome? (lost s)).isSome then 0x87 else 0x83
  parts.foldl (fun s d => (lost s d).getD (s.haltByEngine d cause)) s
/-- LINK_REPLAY: a flit fails its CRC and is replayed; whether this package received or sent it is a free choice. A die-to-die link has no LINKERR. -/
def execLinkReplay (port : Nat) (s : State) : Out1 :=
  let s := s.draw
  let p := s.link port
  if !p.up then .next s
  else
    let recv := Config.freeBool s.draws (site 25 0)
    let own := decide (port < 64)
    let recent := (p.recent ++ [s.ticks]).filter fun t => decide (s.ticks < t + 1000000)
    .next (s.setPort port { p with crc := if own && recv then min 0xFFF (p.crc + 1) else p.crc, replay := if own && !recv then min 0xFFF (p.replay + 1) else p.replay
                                   recent, quiet := s.ticks })
/-- LINK_RETRAIN: more than 16 replays within 1 ms; at 100 Gbit/s the port goes down, with no retraining. A die-to-die link retrains at the same rate
(R476). -/
def execLinkRetrain (port : Nat) (s : State) : Out1 :=
  let p := s.link port
  if !p.up || p.recent.length ≤ 16 then .next s
  else if 64 ≤ port then .next (s.setPort port { p with recent := [], up := false, training := some p.rate })
  else if p.rate = 2 then .next ((s.setPort port { p with recent := [] }).portDown port)
  else .next (s.setPort port { p with retrain := min 0xFF (p.retrain + 1), recent := [], up := false, training := some (p.rate + 1) })
/-- LINK_RATE_UP: 1 s at a lower rate with no replay. -/
def execLinkRateUp (port : Nat) (s : State) : Out1 :=
  let p := mget {} s.ports port
  if !p.up || p.rate = 0 || s.ticks < p.quiet + 1000000000 then .next s
  else .next (s.setPort port { p with up := false, training := some (p.rate - 1), retrain := min 0xFF (p.retrain + 1) })
/-- CONTROL_PORT_RETRY: a downed control port tries again every 1 ms at 100 Gbit/s. -/
def execControlPortRetry (s : State) : Out1 :=
  let p := mget {} s.ports 0
  if p.up || p.rate != 3 || p.training.isSome || s.ticks < p.quiet + 1000000 then .next s
  else .next (s.setPort 0 { p with training := some 2, quiet := s.ticks, retrain := min 0xFF (p.retrain + 1) })
/-- RETRAINING_COMPLETE: the trained lanes as a mask of 4; fewer than 2 leave the port down. The first training after reset is at
200 Gbit/s. -/
def execRetrainingComplete (port lanes : Nat) (s : State) : Out1 :=
  let p := s.link port
  let n := ((List.range 4).filter lanes.testBit).length
  if 64 ≤ port then
    if p.up || p.training.isNone then .next s
    else if n < 2 then .next ((s.setPort port { p with training := none }).draw.linkDead port)
    else .next (s.setPort port { p with up := true, lanes := lanes % 16, training := none, recent := [], quiet := s.ticks })
  else if 36 < port || p.up || (p.training.isNone && p.rate = 3) then .next s
  else
    let rate := p.training.getD 0
    if n < 2 then .next (s.portDown port)
    else
      let s := s.setPort port { p with up := true, rate, lanes := lanes % 16, training := none, recent := [], quiet := s.ticks }
      let s := if port = 0 then s.ctlDrain else s
      .next (if p.training.isSome then s.linkLog port 5 else s)
/-- FLIT_ACKNOWLEDGED. -/
def execFlitAcknowledged (port : Nat) (s : State) : Out1 :=
  .next { s with ports := mmod s.ports port fun p => { p with sent := p.sent - 1 } }

/-! Reports and rights (R411, R415). -/

/-- PERIODIC_REPORT: every PERIOD ms, into the next slot of the ring that SET_ACCTL named. -/
def execPeriodicReport (ctx : Nat) (s : State) : Out1 :=
  let x := s.ctx ctx
  if x.period = 0 || s.ticks < x.nextReport then .next s
  else
    let (s, r) := s.accountReport ctx false
    let s := s.ctlWrite (ctlKey (x.ringBase + 512 * ((x.ringCount + 1) % 2 ^ x.ringLog))) reportBytes r
    .next (s.modCtx ctx fun x => { x with ringCount := x.ringCount + 1, nextReport := x.nextReport + 1000000 * x.period })
/-- DEBUG_RIGHTS_EXPIRY: at tick UNTIL + 1. -/
def execDebugRightsExpiry (ctx : Nat) (s : State) : Out1 :=
  .next (if (s.ctx ctx).hasRights && decide ((s.ctx ctx).untilTick < s.ticks) then s.endRights ctx else s)

end Sys2Proof.Machine
end

