-- ==== Sys2Proof/Machine/Int.lean ====
section
/-! DEFINITION. Class 0: integer, logic and address instructions (spec/04_vector_arithmetic.md R87 to R101). -/

namespace Sys2Proof.Machine

/-- Advance an accounting counter by n for each active lane, to the lane's own context (R91). -/
def Iss.tally (e : Iss) (s : State) (ctr n : Nat) : State :=
  if e.guest then e.act.foldl (fun s k => s.count (e.s.ctxAt e.p e.gi k) ctr n) s
  else s.count e.ctx ctr (n * e.act.length)

/-- An instruction of classes 0 and 1 with a fixed latency: sources read at issue, one result per active lane (R87, R88). -/
def fixedAlu (c : Ctl) (i : Instr) (o : Alu) (ra rb rc : RdAs) (words lat ctr n : Nat) (s : State)
    (f : DWord → DWord → DWord → DWord) : Out1 :=
  issue c i 1 s fun e =>
    let os := [(ra, o.a), (rb, o.b), (rc, o.c)]
    let vals := (e.read e.act os).map fun l => (l.slot, f l.a l.b l.c)
    .ok (e.tally (e.write lat (dstWrites o.dst words vals) os) ctr n, false)

/-- Class 0 with all sources of the type. -/
def intAlu (c : Ctl) (i : Instr) (o : Alu) (s : State) (f : DWord → DWord → DWord → DWord) : Out1 :=
  fixedAlu c i o (RdAs.of o.ty) (RdAs.of o.ty) (RdAs.of o.ty) o.ty.words 2 16 1 s f
/-- The arithmetic instructions of R93: an exact value, then Fit. -/
def arith (c : Ctl) (i : Instr) (o : Alu) (s : State) (f : Int → Int → Int → Int) : Out1 :=
  intAlu c i o s fun a b k => regOf o.ty (fit o.ty o.sat (f (intOf o.ty a) (intOf o.ty b) (intOf o.ty k)))

def execIadd (c : Ctl) (o : Alu) (s : State) : Out1 := arith c (.iadd c o) o s fun a b _ => a + b
def execIsub (c : Ctl) (o : Alu) (s : State) : Out1 := arith c (.isub c o) o s fun a b _ => a - b
def execImul (c : Ctl) (o : Alu) (s : State) : Out1 := arith c (.imul c o) o s fun a b _ => a * b
def execImulHi (c : Ctl) (o : Alu) (s : State) : Out1 := arith c (.imulHi c o) o s fun a b _ => a * b / 2 ^ 32
def execImad (c : Ctl) (o : Alu) (s : State) : Out1 := arith c (.imad c o) o s fun a b k => a * b + k
/-- IMAD.wide (R93): 32-bit factors, 64-bit addend and result. -/
def execImadWide (c : Ctl) (o : Alu) (s : State) : Out1 :=
  let wide := if o.ty == .i32 then Ty.i64 else .n64
  fixedAlu c (.imadWide c o) o .w32 .w32 .w64z 2 2 16 1 s fun a b k =>
    regOf wide (fit wide o.sat (intOf o.ty a * intOf o.ty b + intOf wide k))
def execImin (c : Ctl) (o : Alu) (s : State) : Out1 := arith c (.imin c o) o s fun a b _ => if a ≤ b then a else b
def execImax (c : Ctl) (o : Alu) (s : State) : Out1 := arith c (.imax c o) o s fun a b _ => if a ≤ b then b else a
def execIabs (c : Ctl) (o : Alu) (s : State) : Out1 := arith c (.iabs c o) o s fun a _ _ => if a < 0 then -a else a
def execIneg (c : Ctl) (o : Alu) (s : State) : Out1 := arith c (.ineg c o) o s fun a _ _ => -a

/-- The w low bits of a raw value (R94). -/
def lowBits (ty : Ty) (v : DWord) : DWord := BitVec.ofNat 64 (v.toNat % 2 ^ tyWidth ty)
/-- A logic instruction (R94). -/
def logic (c : Ctl) (i : Instr) (o : Alu) (s : State) (f : DWord → DWord → DWord) : Out1 :=
  intAlu c i o s fun a b _ => lowBits o.ty (f a b)

def execAnd (c : Ctl) (o : Alu) (s : State) : Out1 := logic c (.and c o) o s fun a b => a &&& b
def execOr (c : Ctl) (o : Alu) (s : State) : Out1 := logic c (.or c o) o s fun a b => a ||| b
def execXor (c : Ctl) (o : Alu) (s : State) : Out1 := logic c (.xor c o) o s fun a b => a ^^^ b
def execAndn (c : Ctl) (o : Alu) (s : State) : Out1 := logic c (.andn c o) o s fun a b => a &&& ~~~b
def execOrn (c : Ctl) (o : Alu) (s : State) : Out1 := logic c (.orn c o) o s fun a b => a ||| ~~~b
def execNot (c : Ctl) (o : Alu) (s : State) : Out1 := logic c (.not c o) o s fun a _ => ~~~a

/-- A shift, rotate or field instruction: the second source is a 32-bit word (R92). -/
def shifty (c : Ctl) (i : Instr) (o : Alu) (s : State) (f : Nat → Nat → Nat → Nat → Nat) : Out1 :=
  fixedAlu c i o (RdAs.of o.ty) .w32 (RdAs.of o.ty) o.ty.words 2 16 1 s fun a b k =>
    BitVec.ofNat 64 (f (tyWidth o.ty) (a.toNat % 2 ^ tyWidth o.ty) (b.toNat % 2 ^ 32) (k.toNat % 2 ^ tyWidth o.ty))

/-- A rotation left by k modulo w (R94). -/
def rotl (w a k : Nat) : Nat := let r := k % w; (a * 2 ^ r % 2 ^ w) ||| (a / 2 ^ (w - r))

def execShl (c : Ctl) (o : Alu) (s : State) : Out1 :=
  shifty c (.shl c o) o s fun w a k _ => if k < w then a * 2 ^ k % 2 ^ w else 0
def execShr (c : Ctl) (o : Alu) (s : State) : Out1 :=
  shifty c (.shr c o) o s fun w a k _ => if k < w then a / 2 ^ k else 0
def execSar (c : Ctl) (o : Alu) (s : State) : Out1 :=
  shifty c (.sar c o) o s fun w a k _ =>
    wrap w (if k < w then signedOf w a / 2 ^ k else if signedOf w a < 0 then -1 else 0)
def execRol (c : Ctl) (o : Alu) (s : State) : Out1 := shifty c (.rol c o) o s fun w a k _ => rotl w a k
def execRor (c : Ctl) (o : Alu) (s : State) : Out1 := shifty c (.ror c o) o s fun w a k _ => rotl w a (w - k % w)

/-- FieldCut (R95): position and cut length of the field of a control word. -/
def fieldCut (ctl w : Nat) : Option (Nat × Nat) :=
  let pos := ctl % 256
  let len := ctl / 256 % 256
  if len = 0 || w ≤ pos then none else some (pos, min len (w - pos))
/-- BFX (R95). -/
def bfx (signed : Bool) (w a ctl : Nat) : Nat :=
  match fieldCut ctl w with
  | none => 0
  | some (pos, len) =>
    let v := a / 2 ^ pos % 2 ^ len
    if signed then wrap w (signedOf len v) else v
/-- BFI (R95). -/
def bfi (w a ctl base : Nat) : Nat :=
  match fieldCut ctl w with
  | none => base
  | some (pos, len) =>
    base % 2 ^ pos + a % 2 ^ len * 2 ^ pos + base / 2 ^ (pos + len) * 2 ^ (pos + len)

def execBfx (c : Ctl) (o : Alu) (s : State) : Out1 :=
  shifty c (.bfx c o) o s fun w a k _ => bfx (tySigned o.ty) w a k
def execBfi (c : Ctl) (o : Alu) (s : State) : Out1 := shifty c (.bfi c o) o s fun w a k b => bfi w a k b

/-- Counts over the bits of a value (R96). -/
def popCount (w a : Nat) : Nat := ((List.range w).filter a.testBit).length
def leadZeros (w a : Nat) : Nat := if a = 0 then w else w - 1 - Nat.log2 a
def trailZeros (w a : Nat) : Nat := ((List.range w).find? a.testBit).getD w
def bitReverse (w a : Nat) : Nat := (List.range w).foldl (fun r i => 2 * r + b2n (a.testBit i)) 0

/-- An instruction of one source whose result is a 32-bit count. -/
def counting (c : Ctl) (i : Instr) (o : Alu) (s : State) (f : Nat → Nat → Nat) : Out1 :=
  fixedAlu c i o (RdAs.of o.ty) .w32 .w32 1 2 16 1 s fun a _ _ =>
    BitVec.ofNat 64 (f (tyWidth o.ty) (a.toNat % 2 ^ tyWidth o.ty))

def execPopc (c : Ctl) (o : Alu) (s : State) : Out1 := counting c (.popc c o) o s popCount
def execClz (c : Ctl) (o : Alu) (s : State) : Out1 := counting c (.clz c o) o s leadZeros
def execCtz (c : Ctl) (o : Alu) (s : State) : Out1 := counting c (.ctz c o) o s trailZeros
def execBrev (c : Ctl) (o : Alu) (s : State) : Out1 := shifty c (.brev c o) o s fun w a _ _ => bitReverse w a

/-- PRMT (R97): the bytes formed so far, the last first. -/
def prmtGo (src sel : Nat) : Nat → Nat → Nat → Nat
  | 0, _, _ => 0
  | n + 1, i, prev =>
    let k := sel / 16 ^ i % 16
    let b := if k < 8 then src / 256 ^ k % 256
      else if k = 8 then 0
      else if k = 9 then 0xFF
      else if prev.testBit 7 then 0xFF else 0
    b + 256 * prmtGo src sel n (i + 1) b
def prmt (a c sel : Nat) : Nat := prmtGo (a % 2 ^ 32 + 2 ^ 32 * (c % 2 ^ 32)) (sel % 2 ^ 16) 4 0 0
def execPrmt (c : Ctl) (o : Alu) (s : State) : Out1 := shifty c (.prmt c o) o s fun _ a sel k => prmt a k sel

/-- ICMP (R98). -/
def execIcmp (c : Ctl) (r : Rel) (o : Alu) (s : State) : Out1 :=
  fixedAlu c (.icmp c r o) o (RdAs.of o.ty) (RdAs.of o.ty) .w32 1 2 16 1 s fun a b _ =>
    BitVec.ofNat 64 (b2n (relHolds r (intOf o.ty a) (intOf o.ty b)))
/-- ISEL (R98). -/
def execIsel (c : Ctl) (o : Alu) (s : State) : Out1 :=
  fixedAlu c (.isel c o) o (RdAs.of o.ty) (RdAs.of o.ty) .w32 o.ty.words 2 16 1 s fun a b k => if k = 0 then b else a
/-- MOV (R99). -/
def execMov (c : Ctl) (o : Alu) (s : State) : Out1 := intAlu c (.mov c o) o s fun _ b _ => b
/-- MOVI (R99): .b64 writes the odd register of the pair and leaves the even one. -/
def execMovi (c : Ctl) (v : Word) (o : Alu) (s : State) : Out1 :=
  issue c (.movi c v o) 1 s fun e =>
    let ws := dstWrites o.dst o.ty.words (e.act.map fun n => (n, if o.ty.is64 then pairOf 0 v else v.setWidth 64))
    let ws := if o.ty.is64 then ws.filter (·.code % 2 == 1) else ws
    .ok (e.tally (e.write 2 ws []) 16 1, false)
/-- LEA (R100). -/
def execLea (c : Ctl) (sh : Nat) (o : Alu) (s : State) : Out1 :=
  fixedAlu c (.lea c sh o) o .w64z (RdAs.of o.ty) .w32 2 2 16 1 s fun a b _ =>
    let ix : Int := if o.ty == .i32 then signedOf 32 b.toNat else b.toNat
    BitVec.ofNat 64 (wrap 64 ((a.toNat : Int) + ix * 2 ^ sh))
/-- PLOG (R101). -/
def plog (op : POp) (a b : Bool) : Bool :=
  match op with
  | .and => a && b
  | .or => a || b
  | .xor => a != b
  | .andn => a && !b
  | .not => !a
def execPlog (c : Ctl) (op : POp) (o : Alu) (s : State) : Out1 :=
  fixedAlu c (.plog c op o) o .w32 .w32 .w32 1 2 16 1 s fun a b _ => BitVec.ofNat 64 (b2n (plog op (a != 0) (b != 0)))
/-- PMOV.pack (R101). -/
def execPmovPack (c : Ctl) (n : Nat) (o : Alu) (s : State) : Out1 :=
  issue c (.pmovPack c n o) 1 s fun e =>
    let a := match o.a with | .p a => a | _ => 0
    let vals := e.act.map fun t => (t, BitVec.ofNat 64
      ((List.range n).foldl (fun v j => v + (e.reg t (0xE0 + a + j) (2 * j)).toNat * 2 ^ j) 0))
    .ok (e.tally (e.write 2 (dstWrites o.dst 1 vals) []) 16 1, false)
/-- PMOV.unpack (R101). -/
def execPmovUnpack (c : Ctl) (n : Nat) (o : Alu) (s : State) : Out1 :=
  issue c (.pmovUnpack c n o) 1 s fun e =>
    let d := match o.dst with | .p d => d | _ => 0
    let os := [(RdAs.w32, o.a)]
    let ws := (e.read e.act os).flatMap fun l => (List.range n).map fun j =>
      (⟨l.slot, 0xE0 + d + j, BitVec.ofNat 32 (b2n (l.a.toNat.testBit j))⟩ : RegWrite)
    .ok (e.tally (e.write 2 ws os) 16 1, false)

end Sys2Proof.Machine
end

