-- ==== Sys2Proof/Machine/Special.lean ====
section
/-! DEFINITION. The special functions (spec/04_vector_arithmetic.md R108, R109), correctly rounded: exact integer methods
for FRCP, FSQRT and FRSQ; for the others the value in fixed point with 256 fraction bits, rounded once (log entry 9). -/

namespace Sys2Proof.Machine

/-- The integer square root, bit by bit from bit n - 1. -/
def isqrtGo (v : Nat) : Nat → Nat → Nat
  | 0, r => r
  | n + 1, r => let t := r + 2 ^ n; isqrtGo v n (if t * t ≤ v then t else r)
def isqrt (v : Nat) : Nat := isqrtGo v (Nat.log2 v / 2 + 1) 0

/-- A quotient with 80 further bits and a last bit that says whether a remainder is left: it rounds as the exact one. -/
def stickyDiv (a b : Nat) : Nat := let q := a / b; 2 * q + (if a % b = 0 then 0 else 1)

/-- FRCP of a finite nonzero value. -/
def recipDy (d : Dy) : Dy := ⟨d.s, stickyDiv (2 ^ 120) d.m, -d.e - 121⟩
/-- FSQRT of a positive value: the exponent is made even, 120 bits are added. -/
def sqrtDy (d : Dy) : Dy :=
  let (m, e) := if d.e % 2 = 0 then (d.m, d.e) else (2 * d.m, d.e - 1)
  let v := m * 2 ^ 120
  let r := isqrt v
  ⟨false, 2 * r + (if r * r = v then 0 else 1), e / 2 - 61⟩
/-- FRSQ of a positive value: the root of 1/d, with sticky bits of both steps. -/
def rsqrtDy (d : Dy) : Dy :=
  let (m, e) := if d.e % 2 = 0 then (d.m, d.e) else (2 * d.m, d.e - 1)
  let q := 2 ^ 240 / m
  let r := isqrt q
  ⟨false, 2 * r + (if r * r * m = 2 ^ 240 then 0 else 1), -(e / 2) - 121⟩

/-! Fixed point with 256 fraction bits; every quotient and product below is cut downwards, and the sums of at most a few
hundred such cuts lie far within 2^-200 of the exact value. -/

def fxOne : Nat := 2 ^ 256
/-- ln 2 and π/2, cut to 256 and 512 fraction bits. -/
def fxLn2 : Nat := 0xb17217f7d1cf79abc9e3b39803f2f6af40f343267298b62d8a0d175b8baafa2b
def fxHalfPi : Nat := 0x1921fb54442d18469898cc51701b839a252049c1114cf98e804177d4c76273644a29410f31c6809bbdf2a33679a748636605614dbe4be286e9fc26adadaa3848b
/-- The sum of y^k / k! over k from k0, by n terms, the term of k0 being t. -/
def expGo (y : Nat) : Nat → Nat → Nat → Nat
  | 0, _, _ => 0
  | n + 1, k, t => t + expGo y n (k + 1) (t * y / fxOne / (k + 1))
/-- e^y for y below 1. -/
def fxExp (y : Nat) : Nat := expGo y 70 0 fxOne
/-- The alternating sum of y^k / k! over k of one parity (sine from k = 1, cosine from k = 0), y below 2. -/
def trigGo (y2 : Nat) : Nat → Nat → Nat → Int
  | 0, _, _ => 0
  | n + 1, k, t => (t : Int) - trigGo y2 n (k + 2) (t * y2 / fxOne / ((k + 1) * (k + 2)))
def fxSin (y : Nat) : Int := trigGo (y * y / fxOne) 50 1 y
def fxCos (y : Nat) : Int := trigGo (y * y / fxOne) 50 0 fxOne
/-- The first n binary digits of log2 of a mantissa in [1, 2). -/
def logGo : Nat → Nat → Nat → Nat
  | 0, _, acc => acc
  | n + 1, m, acc =>
    let m := m * m / fxOne
    if 2 * fxOne ≤ m then logGo n (m / 2) (2 * acc + 1) else logGo n m (2 * acc)

/-- The rounding of a fixed-point value times 2^k. -/
def roundFixed (k : Int) (v : Int) (ftz : Bool) : Nat := roundFtz .f32 .rne false ftz ⟨decide (v < 0), v.natAbs, k - 256⟩

/-- e^x for x = ± m · 2^e with |x| below 2^12, as a fixed-point mantissa in [1, 2) and a power of two. -/
def expParts (d : Dy) : Nat × Int :=
  -- x / ln 2 = n + f; e^x = 2^n · e^(f ln 2)
  let x : Int := if 0 ≤ d.e then d.at 0 * fxOne else (if d.s then -1 else 1) * ((d.m * fxOne) >>> (-d.e).toNat : Nat)
  let n := x / fxLn2
  let y := (x - n * fxLn2).toNat
  (fxExp y, n)

/-- FEXP2 of a finite nonzero value. -/
def exp2Val (d : Dy) (ftz : Bool) : Nat :=
  if 9 ≤ (Nat.log2 d.m : Int) + d.e then (if d.s then 0 else fp32.infinity false)
  else
    let x : Int := if 0 ≤ d.e then d.at 0 * fxOne else (if d.s then -1 else 1) * ((d.m * fxOne) >>> (-d.e).toNat : Nat)
    let n := x / fxOne
    let f := (x - n * fxOne).toNat
    if f = 0 && (0 ≤ d.e || d.m % 2 ^ (-d.e).toNat = 0) then roundFtz .f32 .rne false ftz ⟨false, 1, n⟩
    else
      let y := fxExp (f * fxLn2 / fxOne)
      roundFixed n y ftz
/-- FLOG2 of a positive value. -/
def log2Val (d : Dy) (ftz : Bool) : Nat :=
  let lg := Nat.log2 d.m
  let m := d.m * fxOne / 2 ^ lg
  let l := logGo 200 m 0
  let v : Int := ((lg : Int) + d.e) * fxOne + l * 2 ^ 56
  if l = 0 && m = fxOne then roundFtz .f32 .rne false ftz ⟨decide (v < 0), v.natAbs, -256⟩
  else roundFixed 0 (v + 2 ^ 55) ftz
/-- The quadrant and the remainder of |a| modulo π/2, in fixed point. -/
def trigReduce (d : Dy) : Nat × Nat :=
  let a := d.m * 2 ^ (d.e + 512).toNat
  (a / fxHalfPi % 4, a % fxHalfPi / 2 ^ 256)
/-- FSIN and FCOS of a finite nonzero value; below 2^-60 the result is the one of the first term. -/
def trigVal (cos : Bool) (a : Nat) (d : Dy) (ftz : Bool) : Nat :=
  if (Nat.log2 d.m : Int) + d.e < -60 then (if cos then 0x3F800000 else a)
  else
    let (q, r) := trigReduce d
    let q := if cos then (q + 1) % 4 else q
    let v : Int := match q with
      | 0 => fxSin r
      | 1 => fxCos r
      | 2 => -fxSin r
      | _ => -fxCos r
    let v := if !cos && d.s then -v else v
    roundFixed 0 v ftz
/-- FTANH of a finite nonzero value: (1 - t) / (1 + t) with t = e^(-2|a|). -/
def tanhVal (a : Nat) (d : Dy) (ftz : Bool) : Nat :=
  if (Nat.log2 d.m : Int) + d.e < -60 then a
  else if 6 < (Nat.log2 d.m : Int) + d.e then fp32.signBit d.s + 0x3F800000
  else
    let (y, n) := expParts { d with s := true, e := d.e + 1 }
    let t := y >>> (-n).toNat
    let v : Int := ((fxOne - t) * fxOne / (fxOne + t) : Nat)
    roundFixed 0 (if d.s then -v else v) ftz
/-- FSIGM of a finite nonzero value: y / (1 + y) with y = e^a. -/
def sigmVal (d : Dy) (ftz : Bool) : Nat :=
  if 9 < (Nat.log2 d.m : Int) + d.e then (if d.s then 0 else 0x3F800000)
  else if (Nat.log2 d.m : Int) + d.e < -60 then 0x3F000000
  else
    let (y, n) := expParts d
    if 0 ≤ n then
      let y := y * 2 ^ n.toNat
      let v : Int := (y * fxOne / (fxOne + y) : Nat)
      roundFixed 0 v ftz
    else
      -- 2^n y / (1 + 2^n y), kept as a mantissa times 2^n
      let v : Int := (y * fxOne / (fxOne + y >>> (-n).toNat) : Nat)
      roundFixed n v ftz

/-- The special functions of R108. -/
inductive Spec where
  | rcp | sqrt | rsq | exp2 | log2 | sin | cos | tanh | sigm
deriving DecidableEq, Repr

/-- A special function of an FP32 operand (R108, R109). -/
def specFn (f : Spec) (rnd : Rnd) (ftz : Bool) (a : Nat) : Nat :=
  let m := fp32
  if m.isNan a then m.quiet a
  else
    let a := flush ftz .f32 a
    let s := m.sign a
    let one := 0x3F800000
    if m.isZero a then
      match f with
      | .rcp | .rsq => m.infinity s
      | .exp2 | .cos => one
      | .log2 => m.infinity true
      | .sigm => 0x3F000000
      | .sqrt | .sin | .tanh => a
    else if m.isInf a then
      match f with
      | .rcp => m.zero s
      | .sqrt => if s then m.canon else a
      | .rsq => if s then m.canon else 0
      | .exp2 => if s then 0 else a
      | .log2 => if s then m.canon else a
      | .sin | .cos => m.canon
      | .tanh => m.signBit s + one
      | .sigm => if s then 0 else one
    else
      let d := m.dy a
      match f with
      | .rcp => roundFtz .f32 rnd false ftz (recipDy d)
      | .sqrt => if s then m.canon else roundFtz .f32 rnd false ftz (sqrtDy d)
      | .rsq => if s then m.canon else roundFtz .f32 .rne false ftz (rsqrtDy d)
      | .exp2 => exp2Val d ftz
      | .log2 => if s then m.canon else log2Val d ftz
      | .sin => flush ftz .f32 (trigVal false a d ftz)
      | .cos => trigVal true a d ftz
      | .tanh => tanhVal a d ftz
      | .sigm => sigmVal d ftz

end Sys2Proof.Machine
end

