-- ==== Sys2Proof/Machine/Fp.lean ====
section
/-! DEFINITION. Class 1: floating point, conversions, packed and tagged-block instructions
(spec/04_vector_arithmetic.md R102 to R116). -/

namespace Sys2Proof.Machine

/-- A class 1 instruction of latency 4 over the raw low words of its sources. -/
def fpAlu (c : Ctl) (i : Instr) (o : Alu) (ctr n : Nat) (s : State) (f : Nat → Nat → Nat → Nat) : Out1 :=
  fixedAlu c i o .w32 .w32 .w32 1 4 ctr n s fun a b k => BitVec.ofNat 64 (f a.toNat b.toNat k.toNat)

/-- FADD, FSUB, FMUL, FMA (R103). -/
def execFadd (c : Ctl) (o : Alu) (s : State) : Out1 :=
  fpAlu c (.fadd c o) o 14 1 s fun a b _ => fAdd .f32 o.rnd o.sat o.ftz a b
def execFsub (c : Ctl) (o : Alu) (s : State) : Out1 :=
  fpAlu c (.fsub c o) o 14 1 s fun a b _ => fAdd .f32 o.rnd o.sat o.ftz a (fNeg .f32 b)
def execFmul (c : Ctl) (o : Alu) (s : State) : Out1 :=
  fpAlu c (.fmul c o) o 14 1 s fun a b _ => fMul .f32 o.rnd o.sat o.ftz a b
def execFma (c : Ctl) (o : Alu) (s : State) : Out1 :=
  fpAlu c (.fma c o) o 14 2 s fun a b k => fFma .f32 o.rnd o.sat o.ftz a b k
/-- FMIN and FMAX (R104), the inputs after .ftz (R71). -/
def execFmin (c : Ctl) (o : Alu) (s : State) : Out1 :=
  fpAlu c (.fmin c o) o 14 1 s fun a b _ => fMinMax .f32 false (flush o.ftz .f32 a) (flush o.ftz .f32 b)
def execFmax (c : Ctl) (o : Alu) (s : State) : Out1 :=
  fpAlu c (.fmax c o) o 14 1 s fun a b _ => fMinMax .f32 true (flush o.ftz .f32 a) (flush o.ftz .f32 b)
/-- FCMP (R105). -/
def execFcmp (c : Ctl) (r : FRel) (o : Alu) (s : State) : Out1 :=
  fpAlu c (.fcmp c r o) o 14 1 s fun a b _ => b2n (fRel r (flush o.ftz .f32 a) (flush o.ftz .f32 b))
/-- FRND and FSCALE (R106). -/
def execFrnd (c : Ctl) (o : Alu) (s : State) : Out1 :=
  fpAlu c (.frnd c o) o 14 1 s fun a _ _ => fRnd o.rnd o.ftz a
def execFscale (c : Ctl) (o : Alu) (s : State) : Out1 :=
  fpAlu c (.fscale c o) o 14 1 s fun a b _ => fScale o.rnd o.sat o.ftz a (signedOf 32 b)
/-- FCLASS (R107). -/
def execFclass (c : Ctl) (o : Alu) (s : State) : Out1 :=
  fpAlu c (.fclass c o) o 14 0 s fun a _ _ => fClass o.ty (a % 2 ^ (fmtOf o.ty).width)

/-- A token-class instruction whose results are computed at issue and delivered later (R44, R46). -/
def tokenAlu (c : Ctl) (i : Instr) (dst : Dst) (words : Nat) (os : List (RdAs × Src)) (ctr n : Nat) (s : State)
    (f : Iss → List LaneVals → Except Trap (List (Nat × DWord))) : Out1 :=
  issue c i 1 s fun e =>
    match f e (e.read e.act os) with
    | .error t => .error (.trap t)
    | .ok vals =>
      let ws := dstWrites dst words vals
      let s := e.s.setGroup e.p e.gi (e.latch e.act os e.g)
      e.post (e.tally s ctr n) c { id := 0, i, pc := e.pc, tok := none, act := e.act, writes := ws, ctx := e.ctx }
        (ws.map fun w => (w.slot, w.code))

/-- A special function (R108, R109). -/
def special (c : Ctl) (i : Instr) (f : Spec) (o : Alu) (s : State) : Out1 :=
  tokenAlu c i o.dst 1 [(.w32, o.a)] 14 1 s fun _ ls => .ok (ls.map fun l =>
    (l.slot, BitVec.ofNat 64 (specFn f o.rnd o.ftz l.a.toNat)))

def execFrcp (c : Ctl) (o : Alu) (s : State) : Out1 := special c (.frcp c o) .rcp o s
def execFrsq (c : Ctl) (o : Alu) (s : State) : Out1 := special c (.frsq c o) .rsq o s
def execFsqrt (c : Ctl) (o : Alu) (s : State) : Out1 := special c (.fsqrt c o) .sqrt o s
def execFexp2 (c : Ctl) (o : Alu) (s : State) : Out1 := special c (.fexp2 c o) .exp2 o s
def execFlog2 (c : Ctl) (o : Alu) (s : State) : Out1 := special c (.flog2 c o) .log2 o s
def execFsin (c : Ctl) (o : Alu) (s : State) : Out1 := special c (.fsin c o) .sin o s
def execFcos (c : Ctl) (o : Alu) (s : State) : Out1 := special c (.fcos c o) .cos o s
def execFtanh (c : Ctl) (o : Alu) (s : State) : Out1 := special c (.ftanh c o) .tanh o s
def execFsigm (c : Ctl) (o : Alu) (s : State) : Out1 := special c (.fsigm c o) .sigm o s

/-- CVT (R110). -/
def execCvt (c : Ctl) (src : Ty) (o : Alu) (s : State) : Out1 :=
  fpAlu c (.cvt c src o) o 14 0 s fun a _ _ => fCvt src o.ty o.rnd o.sat o.ftz (a % 2 ^ (fmtOf src).width)
/-- CVTI (R111). -/
def execCvti (c : Ctl) (src : Ty) (o : Alu) (s : State) : Out1 :=
  fixedAlu c (.cvti c src o) o .w32 .w32 .w32 o.ty.words 4 14 0 s fun a _ _ =>
    regOf o.ty (fToInt src o.ty o.rnd o.ftz (a.toNat % 2 ^ (fmtOf src).width))
/-- CVTF (R112). -/
def execCvtf (c : Ctl) (src : Ty) (o : Alu) (s : State) : Out1 :=
  fixedAlu c (.cvtf c src o) o (RdAs.of src) .w32 .w32 1 4 14 0 s fun a _ _ =>
    BitVec.ofNat 64 (intToF o.ty o.rnd o.sat (intOf src a))

/-- The two 16-bit elements of a packed register, each by itself (R68, R113). -/
def packed2 (f : Nat → Nat → Nat → Nat) (a b k : Nat) : Nat :=
  let h (v : Nat) : Nat := v / 2 ^ 16 % 2 ^ 16
  f (a % 2 ^ 16) (b % 2 ^ 16) (k % 2 ^ 16) + 2 ^ 16 * f (h a) (h b) (h k)
/-- HADD2, HMUL2, HFMA2 (R113). -/
def execHadd2 (c : Ctl) (o : Alu) (s : State) : Out1 :=
  fpAlu c (.hadd2 c o) o 15 2 s (packed2 fun a b _ => fAdd o.ty o.rnd o.sat o.ftz a b)
def execHmul2 (c : Ctl) (o : Alu) (s : State) : Out1 :=
  fpAlu c (.hmul2 c o) o 15 2 s (packed2 fun a b _ => fMul o.ty o.rnd o.sat o.ftz a b)
def execHfma2 (c : Ctl) (o : Alu) (s : State) : Out1 :=
  fpAlu c (.hfma2 c o) o 15 4 s (packed2 fun a b k => fFma o.ty o.rnd o.sat o.ftz a b k)
/-- DOT4 over integers (R114). -/
def iDot4 (ty : Ty) (sat : Bool) (a b k : Nat) : Nat :=
  let wide := if ty == .i8 then Ty.i32 else .n32
  let el (v i : Nat) : Int := intOf ty (BitVec.ofNat 64 (v / 256 ^ i % 256))
  let v := (List.range 4).foldl (fun t i => t + el a i * el b i) (intOf wide (BitVec.ofNat 64 k))
  (regOf wide (fit wide sat v)).toNat
def execDot4 (c : Ctl) (o : Alu) (s : State) : Out1 :=
  if o.ty == .i8 || o.ty == .n8 then fpAlu c (.dot4 c o) o 16 8 s fun a b k => iDot4 o.ty o.sat a b k
  else fpAlu c (.dot4 c o) o 14 8 s fun a b k => fDot4 o.ty o.rnd o.sat a b k

/-- The block a thread's element belongs to: its origin group and its half of the lane numbers (R115). -/
def Iss.blockOf (e : Iss) (slot : Nat) : Option Origin × Nat :=
  let t := e.thread slot
  (t.origin.map (·.ofGroup), t.lane / 32)
/-- MXPACK (R115): the block of each active lane; lanes that are not active supply +0. -/
def Iss.mxBlocks (e : Iss) (tag : Nat) (o : Alu) (ls : List LaneVals) : List (Nat × DWord) :=
  ls.map fun l =>
    let blk := ls.filter fun m => decide (e.blockOf m.slot = e.blockOf l.slot)
    let xs := (List.range 32).map fun i =>
      ((blk.find? fun m => (e.thread m.slot).lane % 32 == i).map (·.a.toNat)).getD 0
    let (hdr, codes) := mxPack tag o.rnd o.sat xs
    (l.slot, BitVec.ofNat 64 (codes.getD ((e.thread l.slot).lane % 32) 0 + 2 ^ 32 * hdr))
def execMxpack (c : Ctl) (tag : Nat) (o : Alu) (s : State) : Out1 :=
  tokenAlu c (.mxpack c tag o) o.dst 2 [(.w32, o.a)] 14 0 s fun e ls => .ok (e.mxBlocks tag o ls)
/-- MXUNPK (R116): every active lane's tag is checked before any result. -/
def execMxunpk (c : Ctl) (o : Alu) (s : State) : Out1 :=
  tokenAlu c (.mxunpk c o) o.dst 1 [(.w32, o.a), (.w32, o.b)] 14 0 s fun e ls =>
    match ls.find? fun l => (mxUnpack o.rnd o.sat l.a.toNat l.b.toNat).isNone with
    | some l => .error { cause := 0x09, lane := some (e.thread l.slot).lane }
    | none => .ok (ls.map fun l => (l.slot, BitVec.ofNat 64 ((mxUnpack o.rnd o.sat l.a.toNat l.b.toNat).getD 0)))

end Sys2Proof.Machine
end

