-- ==== Sys2Proof/Machine/Manage.lean ====
section
/-! DEFINITION. The management path: mailbox commands and package reset (spec/16_identity_accounting.md R400 to R406, R410 to R417;
spec/15_translation.md R375 to R379; spec/13_scheduling.md R330; spec/14_migration.md R368; spec/17_traps.md R445). -/

namespace Sys2Proof.Machine

/-! Operands and buffers (R401). -/

/-- Bytes i to i + n of the operands. -/
def mailOp (m : Mail) (i n : Nat) : Nat := m.ops.toNat / 2 ^ (8 * i) % 2 ^ (8 * n)
/-- Whether the buffer is in control node memory, aligned and long enough. -/
def bufOk (m : Mail) (need : Nat) : Bool := m.buf % 64 == 0 && decide (need ≤ m.buflen) && decide (m.buf + m.buflen ≤ 2 ^ 48)
/-- The root writes n bytes into the buffer. -/
def State.toBuf (s : State) (m : Mail) (off n v : Nat) : State :=
  s.ctlWrite (ctlKey (m.buf + off)) n v
/-- The answer of a command: STATUS. -/
def State.answer (s : State) (m : Mail) (status : Nat) : State :=
  { s with mailbox := { mail := m, status }, outbox := s.outbox ++ [.status m.code status] }
/-- Whether the root has read a command and is serving it: STATUS is 0xFFFF (R401). -/
def State.serving (s : State) (m : Mail) : Bool := s.mailbox == { mail := m, status := 0xFFFF }
/-- The root reads a command and holds STATUS at 0xFFFF; the next step serves it (R401; log entry 120). -/
def State.beginCommand (s : State) (m : Mail) (i : Instr) : State := { s with mailbox := { mail := m, status := 0xFFFF }, inbox := i :: s.inbox }
/-- Serve a command with its code, the step `i` that stands for it: 0 done, 1 refused with nothing changed. In recovery state only three commands are
served (R402). A step whose mail carries another code is not this command. -/
def serve (code : Nat) (i : Instr) (m : Mail) (s : State) (body : State → Option State) : Out1 :=
  if m.code ≠ code then .next s
  else if !s.serving m then .next (s.beginCommand m i)
  else
    let s := s.draw
    if s.recovery != 0 && !([0x01, 0x02, 0x42].contains code) then .next (s.answer m 1)
    else match body s with
      | some s => .next (s.answer m 0)
      | none => .next (s.answer m 1)
/-- UNKNOWN_CODE. -/
def execUnknownCode (m : Mail) (s : State) : Out1 :=
  .next (if [0x01, 0x02, 0x10, 0x11, 0x12, 0x13, 0x14, 0x15, 0x20, 0x21, 0x30, 0x31, 0x32, 0x40, 0x41, 0x42].contains m.code then s
    else if !s.serving m then s.beginCommand m (.unknownCode m) else s.answer m 3)

/-! Identity (R399, R401, R405). -/

def execGetCert (m : Mail) (s : State) : Out1 :=
  serve 0x01 (.getCert m) m s fun s =>
    let len := 64 + Config.certLength
    if !bufOk m (4 + len) then none
    else
      let cert := (List.range Config.certLength).foldr (fun i v => (Config.certByte i).toNat + 256 * v) 0
      some (((s.toBuf m 0 4 len).toBuf m 4 64 keyBytes).toBuf m 68 Config.certLength cert)
def execGetAttest (m : Mail) (s : State) : Out1 :=
  serve 0x02 (.getAttest m) m s fun s =>
    if !bufOk m 400 then none
    else let (s, r) := s.attest (mailOp m 0 32); some (s.toBuf m 0 400 r)

/-! Partitions (R379, R401, R445). -/

/-- The islands of some dies are powered again (R26): one goes on with the cycle count, clock and emergency it had (log entry 91). -/
def State.powerUp (s : State) (lo size : Nat) : State :=
  let power (i : Nat) (x : Island) : Island := if lo ≤ i / 4 && i / 4 < lo + size then { x with tripped := false, off := false } else x
  { s with islands := s.islands.mapIdx power }
/-- The cores of a partition whose halt ends are cleared as R398 does, and the slots of halt images are freed (R445). -/
def State.endHalt (s : State) (part : Nat) (q : Part) : State :=
  let ps := s.partPhys part q
  let s := ps.foldl (fun s p => if (mfind s.cores p).isNone then s else
    (s.clearCore p).modCore p fun c => { c with wg := none, guests := {}, orphans := {}, past := [], locks := [], quads := [], held := none, reserved := false
                                                tbuf := [], twait := none, tgo := none }) s
  let keep (c : Nat) : List Nat := s.launches.flatMap fun l => if l.2.ctx = c then l.2.snaps.map (·.slot) else []
  let free (e : Nat × Ctx) : Nat × Ctx := if e.2.desc.part = part then (e.1, { e.2 with slots := e.2.slots.filter (keep e.1).contains }) else e
  { s with ctxs := s.ctxs.map free }
/-- SET_PART (R379, R401): a halt of the partition ends, its islands are powered, and launches that an UNCORRECTABLE halt left are rolled back (R26, R445,
R473). -/
def execSetPart (m : Mail) (s : State) : Out1 :=
  serve 0x10 (.setPart m) m s fun s =>
    let lo := mailOp m 0 1
    let size := mailOp m 1 1
    let rho := mailOp m 2 1
    let slice := mailOp m 4 4
    let stop := mailOp m 8 8
    let fq := mailOp m 16 8
    let fqLog := mailOp m 24 1
    let shape := [1, 2, 4, 8].contains size && lo % size == 0 && decide (lo + size ≤ 8)
    let places := stop % 2 ^ 16 == 0 && decide (stop + 2 ^ 25 * size ≤ 2 ^ 48) && fq % 4096 == 0 && decide (fq + 32 * 2 ^ fqLog ≤ 2 ^ 48)
    if !shape || !places || decide (3 < rho) || decide (4000 < slice) || decide (fqLog < 4) || decide (16 < fqLog) || !bufOk m (128 * size) then none
    else
      let olds := s.parts.filter fun e => rangesMeet e.1 e.2.size lo size
      let mayGo (e : Nat × Part) : Bool :=
        let valid := s.ctxs.any fun c => c.2.desc.part == e.1 && (c.2.desc.valid || c.2.pend.any (·.valid))
        match e.2.halt with
        | some h => h.recorded && !e.2.lost && (!valid || (e.1 == lo && e.2.size == size))
        | none => !valid && !e.2.lost
      if !olds.all mayGo then none
      else
        let s := (olds.foldl (fun s e => if e.2.halt.isSome then s.endHalt e.1 e.2 else s) s).powerUp lo size
        let haltNo := (olds.find? fun e => e.1 == lo && e.2.size == size).elim 0 (·.2.haltNo)
        let new : Part := { size, rho, slice := if slice = 0 then 4000000 else 250000 * slice, stopBase := stop, fqBase := fq, fqLog, haltNo }
        let s := { s with parts := minsert (s.parts.filter fun e => !rangesMeet e.1 e.2.size lo size) lo new }
        let back := (s.launches.filter fun l => l.2.afterHalt && (s.ctx l.2.ctx).desc.part == lo).map (·.1)
        let s := back.foldl (fun s id => s.rollBack id) s
        some ((List.range (128 * size)).foldl (fun s i => s.toBuf m i 1 (s.fusePhys (128 * lo + i) % 136)) s)

/-! Contexts (R375, R376, R414). -/

/-- The descriptor in 256 bits (R375). -/
def descOf (v : Nat) : Desc :=
  { valid := bit v 255, sys := bit v 254, checked := bit v 253, ticket := bit v 252, part := bits v 242 240, asid := bits v 239 224
    rstack := bits v 215 212, root := bits v 211 176 * 2 ^ 12, dslimit := bits v 175 163, dsbase := bits v 159 147
    frslots := bits v 127 115, frstack := bits v 111 108, frbase := bits v 107 95 }
/-- Units of 64 KiB of a partition's die scratchpad (R180, R376). -/
def Part.dieUnits (q : Part) : Nat := [0, 1024, 2048, 4096].getD q.rho 0
/-- Whether a descriptor is refused (R376, R215). -/
def State.descRefused (s : State) (c : Nat) (d : Desc) : Bool :=
  let x := s.ctx c
  let same (e : Nat × Ctx) : Bool := e.1 != c && ((e.2.desc.valid && e.2.desc.asid == d.asid) || e.2.pend.any fun p => p.valid && p.asid == d.asid)
  (d.valid && s.ctxs.any same) || decide (8192 < d.frbase + d.frslots) || decide (2 ^ 36 ≤ d.root) || decide (4096 < d.dslimit)
    || (match s.part d.part with | none => d.valid | some q => decide (q.dieUnits < d.dsbase + d.dslimit))
    || (d.ticket && !bit (x.acceptPend.getD x.accept) 4)
/-- Whether a write changes a field that waits until the context has no workgroup placed, saved or being restored (R376). -/
def Desc.waits (old new : Desc) : Bool :=
  old.valid != new.valid || old.part != new.part || old.asid != new.asid || old.root != new.root || old.dsbase != new.dsbase
    || old.dslimit != new.dslimit || old.frslots != new.frslots || old.frstack != new.frstack || old.frbase != new.frbase
def execSetCtx (m : Mail) (s : State) : Out1 :=
  serve 0x11 (.setCtx m) m s fun s =>
    let c := mailOp m 0 1
    let d := descOf (mailOp m 32 32)
    if 64 ≤ c || s.descRefused c d then none
    else
      let old := (s.ctx c).desc
      let s := s.modCtx c fun x =>
        if old.waits d then { x with pend := some d, desc := { x.desc with checked := d.checked, ticket := d.ticket } }
        else { x with pend := none, desc := d }
      some (s.settleCtx c)
def execSetAccept (m : Mail) (s : State) : Out1 :=
  serve 0x14 (.setAccept m) m s fun s =>
    let c := mailOp m 0 1
    let v := mailOp m 8 8 + 2 ^ 64 * mailOp m 16 8
    if 64 ≤ c || !bit v 0 || decide (v &&& feat0 ≠ v) then none
    else some ((s.modCtx c fun x => { x with acceptPend := some v }).settleCtx c)
/-- SET_QUEUE (R330): HEAD is not written; while EN = 1 the other fields cannot change. -/
def execSetQueue (m : Mail) (s : State) : Out1 :=
  serve 0x12 (.setQueue m) m s fun s =>
    let q := mailOp m 0 1
    let v := mailOp m 16 16
    let old := (mfind s.queues q).getD {}
    let new : Queue := { old with en := bit v 127, devopen := bit v 126, logcap := bits v 125 122, ctx := bits v 121 116, base := bits v 56 7 * 128 }
    -- The producer index of a device queue starts where its taking stands (R331; log entry 122).
    let same := old.devopen == new.devopen && old.logcap == new.logcap && old.ctx == new.ctx && old.base == new.base
    let new := { new with prod := if same then old.prod else old.head }
    -- A take that has begun goes on only where its entry stays what it was.
    let new := if new.ctx = old.ctx && new.base = old.base && new.logcap = old.logcap then new else { new with rcd := none, host := [], longs := none }
    if 64 ≤ q || (old.en && (old.devopen != new.devopen || old.logcap != new.logcap || old.ctx != new.ctx || old.base != new.base)) then none
    else some { s with queues := minsert s.queues q new }
/-- SET_RELTH (R368). -/
def execSetRelth (m : Mail) (s : State) : Out1 :=
  serve 0x13 (.setRelth m) m s fun s =>
    let lo := mailOp m 0 1
    let v := mailOp m 4 4
    let level := bits v 9 0
    let cool := bits v 25 16
    if (s.part lo).isNone || level < 240 || 420 < level || level < cool + 40 then none
    else some (s.modPart lo fun q => { q with relthOff := bit v 31, cool, level })

/-! Accounting (R406, R410, R411). -/

/-- SET_ACCTL: PERIOD and the ring of periodic reports. -/
def execSetAcctl (m : Mail) (s : State) : Out1 :=
  serve 0x15 (.setAcctl m) m s fun s =>
    let c := mailOp m 0 1
    let period := mailOp m 4 2
    let log := mailOp m 8 1
    if 64 ≤ c || 12 < log || !bufOk m (512 * 2 ^ log) then none
    else some (s.modCtx c fun x => { x with period, ringBase := m.buf, ringLog := log, ringCount := 0, nextReport := s.ticks + 1000000 * period })
/-- BIND_JOB and UNBIND_JOB, which byte 1 of the operands tells apart. -/
def jobCommand (i : Instr) (m : Mail) (s : State) : Out1 :=
  serve 0x20 i m s fun s =>
    let c := mailOp m 0 1
    let x := s.ctx c
    match mailOp m 1 1 with
    | 0 =>
      if 64 ≤ c || !x.desc.valid || x.job.isSome || !bufOk m rosterBytes then none
      else
        let s := s.modCtx c fun x => { x with job := some (mailOp m 8 8), dbgSeen := x.hasRights }
        let (s, r) := s.rosterEntry c 1 0
        some (s.toBuf m 0 rosterBytes r)
    | 1 =>
      if 64 ≤ c || x.job.isNone || !bufOk m (512 + rosterBytes) then none
      else let (s, r, e) := s.closeJob c; some ((s.toBuf m 0 reportBytes r).toBuf m 512 rosterBytes e)
    | _ => none
def execBindJob (m : Mail) (s : State) : Out1 := jobCommand (.bindJob m) m s
def execUnbindJob (m : Mail) (s : State) : Out1 := jobCommand (.unbindJob m) m s
def execReport (m : Mail) (s : State) : Out1 :=
  serve 0x21 (.report m) m s fun s =>
    let c := mailOp m 0 1
    if 64 ≤ c || !bufOk m reportBytes then none
    else let (s, r) := s.accountReport c false; some (s.toBuf m 0 reportBytes r)

/-! Clearing (R274, R194, R417, R478). -/

def execClearBerr (m : Mail) (s : State) : Out1 :=
  serve 0x30 (.clearBerr m) m s fun s =>
    let k := mailOp m 0 4
    if k = 0xFFFFFFFF then some { s with berr := [] }
    else if 16383 < k then none
    else some { s with berr := merase s.berr k }
def execClearFlag (m : Mail) (s : State) : Out1 :=
  serve 0x31 (.clearFlag m) m s fun s =>
    let st := mailOp m 0 1
    let off := mailOp m 8 8
    if 16 ≤ st || off % 2 ^ 16 != 0 || decide (2 ^ 36 ≤ off) then none
    else
      -- R478: no lease is in force on any line of the region.
      let region := stackKey st off / 2 ^ 16
      some { s with flagged := s.flagged.filter (· != region), leases := s.leases.filter fun e => e.2.line * 128 / 2 ^ 16 != region }
def execClearLink (m : Mail) (s : State) : Out1 :=
  serve 0x32 (.clearLink m) m s fun s =>
    let n := mailOp m 0 1
    if 36 < n then none
    else some { s with ports := mmod s.ports n fun p => { p with crc := 0, replay := 0, retrain := 0 } }

/-! Debug tokens and images (R402, R403, R415). -/

/-- DEBUG_AUTH: every check of the token, then the rights of the context are those it names. -/
def execDebugAuth (m : Mail) (s : State) : Out1 :=
  serve 0x40 (.debugAuth m) m s fun s =>
    let c := mailOp m 0 1
    if 64 ≤ c || !bufOk m 160 || (s.poisonAt (ctlKey m.buf) 160).isSome then none
    else
      let t := s.read (ctlKey m.buf) 160
      let rights := bits t (8 * 36 - 1) (8 * 34)
      let from_ := bits t (8 * 48 - 1) (8 * 40)
      let till := bits t (8 * 56 - 1) (8 * 48)
      let x := s.ctx c
      let ok := x.desc.valid && bits t 255 0 == deviceId && bits t (8 * 34 - 1) (8 * 32) == x.desc.asid && decide (rights < 8)
        && bits t (8 * 40 - 1) (8 * 36) == 0 && bits t (8 * 96 - 1) (8 * 56) == 0 && decide (from_ ≤ s.ticks) && decide (s.ticks ≤ till)
        && tokenVerifies t
      if !ok then none
      else some ((s.endRights c).modCtx c fun x =>
        { x with inj := bit rights 0, watch := bit rights 1, step := bit rights 2, untilTick := till, dbgSeen := x.dbgSeen || rights != 0 })
/-- Whether some context is valid. -/
def State.anyValid (s : State) : Bool := s.ctxs.any fun e => e.2.desc.valid
/-- The fused minimum version of a kind, and whether an image passes R402. -/
def State.minSvn (s : State) (kind : Nat) : Nat := (mfind s.minSvns kind).getD (Config.fusedSvn kind)
def State.imageOk (s : State) (kind : Nat) (i : Nat × Nat) : Bool := Config.imageVerifies i.1 i.2 && decide (s.minSvn kind ≤ Config.imageSvn i.1 i.2)
/-- COMMIT_SVN (R403). -/
def execCommitSvn (m : Mail) (s : State) : Out1 :=
  serve 0x41 (.commitSvn m) m s fun s =>
    if s.anyValid then none
    else
      let raise (v : List (Nat × Nat)) (k : Nat) : List (Nat × Nat) :=
        let i := s.imageOf k
        minsert v k (max (s.minSvn k) (Config.imageSvn i.1 i.2))
      some { s with minSvns := [1, 2, 3, 4, 5, 6].foldl raise s.minSvns }
def execLoadImage (m : Mail) (s : State) : Out1 :=
  serve 0x42 (.loadImage m) m s fun s =>
    let k := mailOp m 0 1
    let i := (s.read (ctlKey m.buf) m.buflen, m.buflen)
    if k = 0 || 6 < k || (s.recovery = 0 && s.anyValid) || !bufOk m 1 || (s.poisonAt (ctlKey m.buf) m.buflen).isSome || !s.imageOk k i then none
    else some { s with images := minsert s.images k i }

/-! Package reset (R402). -/

/-- PACKAGE_RESET: the six stored images are examined; with a refused one the package is in recovery state. What lies outside the
package and in its HBM stacks keeps its bytes. -/
def execPackageReset (s : State) : Out1 :=
  let s := s.draw
  let kinds := [1, 2, 3, 4, 5, 6]
  let images := kinds.map fun k => (k, s.storedImage k)
  let bad := images.find? fun e => !s.imageOk e.1 e.2
  .next { State.reset with
    inbox := s.inbox, draws := s.draws, pace := s.pace, outbox := s.outbox
    mem := s.mem.filter fun c => c.1 < 2 ^ 56
    poison := s.poison.filter fun e => e.1 * 32 < 2 ^ 56
    pkgid := s.pkgid, fuses := s.fuses, domain := s.domain, images := s.images, minSvns := s.minSvns, running := images
    recovery := bad.elim 0 (·.1) }

end Sys2Proof.Machine
end

