-- ==== Sys2Proof/Machine/Dispatch.lean ====
section
/-! DEFINITION. Which meaning each instruction and each step has: one arm per constructor of Instr. -/

namespace Sys2Proof.Machine

def exec (i : Instr) (s : State) : Host.Outcome State Fault Refusal :=
  match i with
  | .iadd c o => Sys2Proof.Machine.execIadd c o s
  | .isub c o => Sys2Proof.Machine.execIsub c o s
  | .imul c o => Sys2Proof.Machine.execImul c o s
  | .imulHi c o => Sys2Proof.Machine.execImulHi c o s
  | .imad c o => Sys2Proof.Machine.execImad c o s
  | .imadWide c o => Sys2Proof.Machine.execImadWide c o s
  | .imin c o => Sys2Proof.Machine.execImin c o s
  | .imax c o => Sys2Proof.Machine.execImax c o s
  | .iabs c o => Sys2Proof.Machine.execIabs c o s
  | .ineg c o => Sys2Proof.Machine.execIneg c o s
  | .and c o => Sys2Proof.Machine.execAnd c o s
  | .or c o => Sys2Proof.Machine.execOr c o s
  | .xor c o => Sys2Proof.Machine.execXor c o s
  | .andn c o => Sys2Proof.Machine.execAndn c o s
  | .orn c o => Sys2Proof.Machine.execOrn c o s
  | .not c o => Sys2Proof.Machine.execNot c o s
  | .shl c o => Sys2Proof.Machine.execShl c o s
  | .shr c o => Sys2Proof.Machine.execShr c o s
  | .sar c o => Sys2Proof.Machine.execSar c o s
  | .rol c o => Sys2Proof.Machine.execRol c o s
  | .ror c o => Sys2Proof.Machine.execRor c o s
  | .bfx c o => Sys2Proof.Machine.execBfx c o s
  | .bfi c o => Sys2Proof.Machine.execBfi c o s
  | .popc c o => Sys2Proof.Machine.execPopc c o s
  | .clz c o => Sys2Proof.Machine.execClz c o s
  | .ctz c o => Sys2Proof.Machine.execCtz c o s
  | .brev c o => Sys2Proof.Machine.execBrev c o s
  | .prmt c o => Sys2Proof.Machine.execPrmt c o s
  | .icmp c r o => Sys2Proof.Machine.execIcmp c r o s
  | .isel c o => Sys2Proof.Machine.execIsel c o s
  | .mov c o => Sys2Proof.Machine.execMov c o s
  | .movi c v o => Sys2Proof.Machine.execMovi c v o s
  | .lea c sh o => Sys2Proof.Machine.execLea c sh o s
  | .plog c op o => Sys2Proof.Machine.execPlog c op o s
  | .pmovPack c n o => Sys2Proof.Machine.execPmovPack c n o s
  | .pmovUnpack c n o => Sys2Proof.Machine.execPmovUnpack c n o s
  | .fadd c o => Sys2Proof.Machine.execFadd c o s
  | .fsub c o => Sys2Proof.Machine.execFsub c o s
  | .fmul c o => Sys2Proof.Machine.execFmul c o s
  | .fma c o => Sys2Proof.Machine.execFma c o s
  | .fmin c o => Sys2Proof.Machine.execFmin c o s
  | .fmax c o => Sys2Proof.Machine.execFmax c o s
  | .fcmp c r o => Sys2Proof.Machine.execFcmp c r o s
  | .frnd c o => Sys2Proof.Machine.execFrnd c o s
  | .frcp c o => Sys2Proof.Machine.execFrcp c o s
  | .frsq c o => Sys2Proof.Machine.execFrsq c o s
  | .fsqrt c o => Sys2Proof.Machine.execFsqrt c o s
  | .fexp2 c o => Sys2Proof.Machine.execFexp2 c o s
  | .flog2 c o => Sys2Proof.Machine.execFlog2 c o s
  | .fsin c o => Sys2Proof.Machine.execFsin c o s
  | .fcos c o => Sys2Proof.Machine.execFcos c o s
  | .ftanh c o => Sys2Proof.Machine.execFtanh c o s
  | .fsigm c o => Sys2Proof.Machine.execFsigm c o s
  | .fclass c o => Sys2Proof.Machine.execFclass c o s
  | .fscale c o => Sys2Proof.Machine.execFscale c o s
  | .cvt c src o => Sys2Proof.Machine.execCvt c src o s
  | .cvti c src o => Sys2Proof.Machine.execCvti c src o s
  | .cvtf c src o => Sys2Proof.Machine.execCvtf c src o s
  | .hadd2 c o => Sys2Proof.Machine.execHadd2 c o s
  | .hmul2 c o => Sys2Proof.Machine.execHmul2 c o s
  | .hfma2 c o => Sys2Proof.Machine.execHfma2 c o s
  | .dot4 c o => Sys2Proof.Machine.execDot4 c o s
  | .mxpack c tag o => Sys2Proof.Machine.execMxpack c tag o s
  | .mxunpk c o => Sys2Proof.Machine.execMxunpk c o s
  | .nop c => Sys2Proof.Machine.execNop c s
  | .dly c n => Sys2Proof.Machine.execDly c n s
  | .bra c disp => Sys2Proof.Machine.execBra c disp s
  | .brx c a => Sys2Proof.Machine.execBrx c a s
  | .call c disp => Sys2Proof.Machine.execCall c disp s
  | .callReg c a => Sys2Proof.Machine.execCallReg c a s
  | .ret c => Sys2Proof.Machine.execRet c s
  | .exit c => Sys2Proof.Machine.execExit c s
  | .twait c n k => Sys2Proof.Machine.execTwait c n k s
  | .yield c => Sys2Proof.Machine.execYield c s
  | .sleep c ticks => Sys2Proof.Machine.execSleep c ticks s
  | .join c m => Sys2Proof.Machine.execJoin c m s
  | .leave c m => Sys2Proof.Machine.execLeave c m s
  | .mwait c m => Sys2Proof.Machine.execMwait c m s
  | .maskRd c dst m => Sys2Proof.Machine.execMaskRd c dst m s
  | .maskTst c dst m => Sys2Proof.Machine.execMaskTst c dst m s
  | .ballot c dst a => Sys2Proof.Machine.execBallot c dst a s
  | .vote c k dst a => Sys2Proof.Machine.execVote c k dst a s
  | .shfl c k seg dst a b => Sys2Proof.Machine.execShfl c k seg dst a b s
  | .bar c n => Sys2Proof.Machine.execBar c n s
  | .cbar c n => Sys2Proof.Machine.execCbar c n s
  | .binit c o => Sys2Proof.Machine.execBinit c o s
  | .barrive c o => Sys2Proof.Machine.execBarrive c o s
  | .barriveTx c o => Sys2Proof.Machine.execBarriveTx c o s
  | .bwait c o => Sys2Proof.Machine.execBwait c o s
  | .binval c o => Sys2Proof.Machine.execBinval c o s
  | .qsend c o => Sys2Proof.Machine.execQsend c o s
  | .qrecv c dst base off => Sys2Proof.Machine.execQrecv c dst base off s
  | .launch c dst rec queue => Sys2Proof.Machine.execLaunch c dst rec queue s
  | .ldp c o => Sys2Proof.Machine.execLdp c o s
  | .lds c o => Sys2Proof.Machine.execLds c o s
  | .ldc c o => Sys2Proof.Machine.execLdc c o s
  | .ldd c o => Sys2Proof.Machine.execLdd c o s
  | .ldg c o => Sys2Proof.Machine.execLdg c o s
  | .stp c o => Sys2Proof.Machine.execStp c o s
  | .sts c o => Sys2Proof.Machine.execSts c o s
  | .stc c o => Sys2Proof.Machine.execStc c o s
  | .std c o => Sys2Proof.Machine.execStd c o s
  | .stg c o => Sys2Proof.Machine.execStg c o s
  | .cstore c o => Sys2Proof.Machine.execCstore c o s
  | .xload c o => Sys2Proof.Machine.execXload c o s
  | .atom c op o => Sys2Proof.Machine.execAtom c op o s
  | .atomf c op o => Sys2Proof.Machine.execAtomf c op o s
  | .red c op o => Sys2Proof.Machine.execRed c op o s
  | .cas c o => Sys2Proof.Machine.execCas c o s
  | .fence c o => Sys2Proof.Machine.execFence c o s
  | .pref c l1 o => Sys2Proof.Machine.execPref c l1 o s
  | .cctlWb c o => Sys2Proof.Machine.execCctlWb c o s
  | .cctlInv c o => Sys2Proof.Machine.execCctlInv c o s
  | .cctlWbinv c o => Sys2Proof.Machine.execCctlWbinv c o s
  | .seal c o => Sys2Proof.Machine.execSeal c o s
  | .unseal c o => Sys2Proof.Machine.execUnseal c o s
  | .amodeSto c qmask => Sys2Proof.Machine.execAmodeSto c qmask s
  | .amodeMul c qmask => Sys2Proof.Machine.execAmodeMul c qmask s
  | .acal c qmask => Sys2Proof.Machine.execAcal c qmask s
  | .awr c o => Sys2Proof.Machine.execAwr c o s
  | .ald c o => Sys2Proof.Machine.execAld c o s
  | .ard c o => Sys2Proof.Machine.execArd c o s
  | .mconv c kreg g3 g2 g1 g0 => Sys2Proof.Machine.execMconv c kreg g3 g2 g1 g0 s
  | .mma c o => Sys2Proof.Machine.execMma c o s
  | .mzero c qmask acc => Sys2Proof.Machine.execMzero c qmask acc s
  | .mdrain c o => Sys2Proof.Machine.execMdrain c o s
  | .macc c o => Sys2Proof.Machine.execMacc c o s
  | .mcks c o => Sys2Proof.Machine.execMcks c o s
  | .mloc c o => Sys2Proof.Machine.execMloc c o s
  | .mfix c o => Sys2Proof.Machine.execMfix c o s
  | .mretry c rep o => Sys2Proof.Machine.execMretry c rep o s
  | .ainfo c sel o => Sys2Proof.Machine.execAinfo c sel o s
  | .bcopy c o => Sys2Proof.Machine.execBcopy c o s
  | .bcopym c o => Sys2Proof.Machine.execBcopym c o s
  | .broom c => Sys2Proof.Machine.execBroom c s
  | .nma c o => Sys2Proof.Machine.execNma c o s
  | .nmar c o => Sys2Proof.Machine.execNmar c o s
  | .bdot c o => Sys2Proof.Machine.execBdot c o s
  | .gred c o => Sys2Proof.Machine.execGred c o s
  | .migset c live => Sys2Proof.Machine.execMigset c live s
  | .migto c o => Sys2Proof.Machine.execMigto c o s
  | .migret c => Sys2Proof.Machine.execMigret c s
  | .migq c o => Sys2Proof.Machine.execMigq c o s
  | .wpre c o => Sys2Proof.Machine.execWpre c o s
  | .trap c code => Sys2Proof.Machine.execTrap c code s
  | .tret c next => Sys2Proof.Machine.execTret c next s
  | .sysr c dst idx => Sys2Proof.Machine.execSysr c dst idx s
  | .sysw c a idx => Sys2Proof.Machine.execSysw c a idx s
  | .cntr c dst n => Sys2Proof.Machine.execCntr c dst n s
  | .brk c code => Sys2Proof.Machine.execBrk c code s
  | .halt c code => Sys2Proof.Machine.execHalt c code s
  | .tlbiVa c a b => Sys2Proof.Machine.execTlbiVa c a b s
  | .tlbiAsid c b => Sys2Proof.Machine.execTlbiAsid c b s
  | .dbgr c o => Sys2Proof.Machine.execDbgr c o s
  | .dbgw c o => Sys2Proof.Machine.execDbgw c o s
  | .ckinjWrite core v => Sys2Proof.Machine.execCkinjWrite core v s
  | .dbgctlWrite core group v => Sys2Proof.Machine.execDbgctlWrite core group v s
  | .getCert m => Sys2Proof.Machine.execGetCert m s
  | .getAttest m => Sys2Proof.Machine.execGetAttest m s
  | .setPart m => Sys2Proof.Machine.execSetPart m s
  | .setCtx m => Sys2Proof.Machine.execSetCtx m s
  | .setQueue m => Sys2Proof.Machine.execSetQueue m s
  | .setRelth m => Sys2Proof.Machine.execSetRelth m s
  | .setAccept m => Sys2Proof.Machine.execSetAccept m s
  | .setAcctl m => Sys2Proof.Machine.execSetAcctl m s
  | .bindJob m => Sys2Proof.Machine.execBindJob m s
  | .unbindJob m => Sys2Proof.Machine.execUnbindJob m s
  | .report m => Sys2Proof.Machine.execReport m s
  | .clearBerr m => Sys2Proof.Machine.execClearBerr m s
  | .clearFlag m => Sys2Proof.Machine.execClearFlag m s
  | .clearLink m => Sys2Proof.Machine.execClearLink m s
  | .debugAuth m => Sys2Proof.Machine.execDebugAuth m s
  | .commitSvn m => Sys2Proof.Machine.execCommitSvn m s
  | .loadImage m => Sys2Proof.Machine.execLoadImage m s
  | .packageReset => Sys2Proof.Machine.execPackageReset s
  | .powerArbiterInterval targets => Sys2Proof.Machine.execPowerArbiterInterval targets s
  | .hardThrottle core => Sys2Proof.Machine.execHardThrottle core s
  | .thermalTrip core => Sys2Proof.Machine.execThermalTrip core s
  | .sensorSample core reading => Sys2Proof.Machine.execSensorSample core reading s
  | .cadenceTick => Sys2Proof.Machine.execCadenceTick s
  | .leaseWritebackDeadline line => Sys2Proof.Machine.execLeaseWritebackDeadline line s
  | .leaseRecall line => Sys2Proof.Machine.execLeaseRecall line s
  | .leaseExpiry line => Sys2Proof.Machine.execLeaseExpiry line s
  | .collapseComplete chunk => Sys2Proof.Machine.execCollapseComplete chunk s
  | .calibrationTrigger core q => Sys2Proof.Machine.execCalibrationTrigger core q s
  | .calibrationComplete core q => Sys2Proof.Machine.execCalibrationComplete core q s
  | .modeChangeComplete core => Sys2Proof.Machine.execModeChangeComplete core s
  | .tileWriteComplete core q => Sys2Proof.Machine.execTileWriteComplete core q s
  | .mmaVerdict core q => Sys2Proof.Machine.execMmaVerdict core q s
  | .retryVerdict core q => Sys2Proof.Machine.execRetryVerdict core q s
  | .promotionProbeAnswer core group op => Sys2Proof.Machine.execPromotionProbeAnswer core group op s
  | .broomProbeReturn core group op => Sys2Proof.Machine.execBroomProbeReturn core group op s
  | .tokenCountdown core group op => Sys2Proof.Machine.execTokenCountdown core group op s
  | .shortMissResolved miss => Sys2Proof.Machine.execShortMissResolved miss s
  | .faultQueueResponse part entry => Sys2Proof.Machine.execFaultQueueResponse part entry s
  | .workgroupSave core => Sys2Proof.Machine.execWorkgroupSave core s
  | .copySegmentLand core copy slice seg => Sys2Proof.Machine.execCopySegmentLand core copy slice seg s
  | .fixupReplay core copy => Sys2Proof.Machine.execFixupReplay core copy s
  | .copyEnd core copy => Sys2Proof.Machine.execCopyEnd core copy s
  | .nmuRefresh bank => Sys2Proof.Machine.execNmuRefresh bank s
  | .nmuCommandComplete core group op => Sys2Proof.Machine.execNmuCommandComplete core group op s
  | .qsendArrival core group op => Sys2Proof.Machine.execQsendArrival core group op s
  | .queueTake q => Sys2Proof.Machine.execQueueTake q s
  | .dispatch part => Sys2Proof.Machine.execDispatch part s
  | .completionIncrement launch => Sys2Proof.Machine.execCompletionIncrement launch s
  | .waitReevaluation launch => Sys2Proof.Machine.execWaitReevaluation launch s
  | .reservedMessage xid pkg => Sys2Proof.Machine.execReservedMessage xid pkg s
  | .goMessage xid => Sys2Proof.Machine.execGoMessage xid s
  | .goAck xid pkg => Sys2Proof.Machine.execGoAck xid pkg s
  | .goTimeout xid => Sys2Proof.Machine.execGoTimeout xid s
  | .abortMessage xid => Sys2Proof.Machine.execAbortMessage xid s
  | .sliceEnd part => Sys2Proof.Machine.execSliceEnd part s
  | .preemption core => Sys2Proof.Machine.execPreemption core s
  | .restore ctx unit => Sys2Proof.Machine.execRestore ctx unit s
  | .runGrant core q => Sys2Proof.Machine.execRunGrant core q s
  | .sleepEnd core q => Sys2Proof.Machine.execSleepEnd core q s
  | .relocationHonour core => Sys2Proof.Machine.execRelocationHonour core s
  | .relocationRemap core => Sys2Proof.Machine.execRelocationRemap core s
  | .slotRequestAnswer core group lane => Sys2Proof.Machine.execSlotRequestAnswer core group lane s
  | .slotRequestRetry core group lane => Sys2Proof.Machine.execSlotRequestRetry core group lane s
  | .pannierArrival n => Sys2Proof.Machine.execPannierArrival n s
  | .travelDrainEnd core group => Sys2Proof.Machine.execTravelDrainEnd core group s
  | .haltRaise part cause => Sys2Proof.Machine.execHaltRaise part cause s
  | .skidEnd part => Sys2Proof.Machine.execSkidEnd part s
  | .haltRecorded part => Sys2Proof.Machine.execHaltRecorded part s
  | .tandemCommit core => Sys2Proof.Machine.execTandemCommit core s
  | .tandemTimeout core => Sys2Proof.Machine.execTandemTimeout core s
  | .rollback launch => Sys2Proof.Machine.execRollback launch s
  | .ueDetected key cls => Sys2Proof.Machine.execUeDetected key cls s
  | .accumulatorUe core q a m n => Sys2Proof.Machine.execAccumulatorUe core q a m n s
  | .containmentLost die => Sys2Proof.Machine.execContainmentLost die s
  | .patrolScrub stack columns => Sys2Proof.Machine.execPatrolScrub stack columns s
  | .linkReplay port => Sys2Proof.Machine.execLinkReplay port s
  | .linkRetrain port => Sys2Proof.Machine.execLinkRetrain port s
  | .linkRateUp port => Sys2Proof.Machine.execLinkRateUp port s
  | .controlPortRetry => Sys2Proof.Machine.execControlPortRetry s
  | .periodicReport ctx => Sys2Proof.Machine.execPeriodicReport ctx s
  | .debugRightsExpiry ctx => Sys2Proof.Machine.execDebugRightsExpiry ctx s
  | .invalidateBroadcast asid range => Sys2Proof.Machine.execInvalidateBroadcast asid range s
  | .sync n => Sys2Proof.Machine.execSync n s
  | .syncAck n => Sys2Proof.Machine.execSyncAck n s
  | .flitAcknowledged port => Sys2Proof.Machine.execFlitAcknowledged port s
  | .retrainingComplete port lanes => Sys2Proof.Machine.execRetrainingComplete port lanes s
  | .leaseTermEnd line => Sys2Proof.Machine.execLeaseTermEnd line s
  | .withdrawEntry q => Sys2Proof.Machine.execWithdrawEntry q s
  | .unknownCode m => Sys2Proof.Machine.execUnknownCode m s

end Sys2Proof.Machine
end

