-- ==== Sys2Proof/Machine/Step.lean ====
section
/-! DEFINITION. One step of the machine: time passes, then one thing happens: a step that is due from outside, the issue of the group
in focus, an event of the package, or the grant of a run (log entry 1). -/

namespace Sys2Proof.Machine

/-! Time (R24; log entry 2). -/

/-- An island's cycle counter after some ticks; its clock is in units of 25 MHz. -/
def Island.elapse (x : Island) (dt : Nat) : Island :=
  if x.off then x
  else let r := x.rest + dt * 25 * x.clock; { x with cycles := x.cycles + r / 1000, rest := r % 1000 }
/-- The cycles that pass on an island. -/
def Island.advance (x : Island) (dt : Nat) : Nat := (x.elapse dt).cycles - x.cycles
/-- The context whose resident core-cycles a core's cycles are (R407, counter 24). -/
def Core.residentOf (c : Core) : Option Nat :=
  match c.wg with
  | some w => some w.ctx
  | none => c.held.map (·.1)
/-- Some ticks pass. -/
def State.elapse (s : State) (dt : Nat) : State :=
  let due : List (Nat × Nat) := s.cores.filterMap fun e => e.2.residentOf.map fun c => (c, (lget {} s.islands (s.islandOf e.1)).advance dt)
  let s : State := { s with ticks := s.ticks + dt, islands := s.islands.map (·.elapse dt) }
  due.foldl (fun s e => s.count e.1 24 e.2) s
/-- Debug rights end at tick UNTIL + 1 (R415). -/
def State.lapse (s : State) : State :=
  (s.ctxs.filter fun e => e.2.hasRights && decide (e.2.untilTick < s.ticks)).foldl (fun s e => s.endRights e.1) s
/-- The time of this step passes. -/
def State.tick (s : State) : State := (State.elapse { s with pace := s.pace.drop 1 } (s.pace.headD 1)).lapse.logDue

/-! Who goes on. -/

/-- Whether a group is inside a run and can issue its next instruction (R290, R293, R314, R439, R467). -/
def State.canIssue (s : State) (p gi : Nat) : Bool :=
  let c := s.core p
  let g := c.group gi
  g.run.any (!·.held) && c.quads.any (fun q => q.holder == some gi && q.sleep.isNone)
    && g.park.isNone && g.skidTrap.isNone && !(g.headSet (gi == guestIx)).isEmpty
    && !(c.twait.isSome && gi != guestIx) && !s.skidPast p
/-- Issue slots (core, quadrant) of the cores that hold something, those after the focus first. -/
def State.slots (s : State) : List (Nat × Nat) :=
  let all := (s.cores.filter fun e => e.2.wg.isSome || !e.2.guests.threads.isEmpty).flatMap fun e => (List.range 4).map fun q => (e.1, q)
  let (p, gi) := s.focus
  let at_ (x : Nat × Nat) : Bool := decide (x.1 < p) || (x.1 == p && decide (x.2 ≤ gi % 4))
  all.filter (!at_ ·) ++ all.filter at_
/-- Another group that is inside a run. -/
def State.otherRunning (s : State) : Option (Nat × Nat) :=
  s.slots.findSome? fun x => match ((s.core x.1).quad x.2).holder with
    | some gi => if s.canIssue x.1 gi then some (x.1, gi) else none
    | none => none
/-- A quadrant that can grant a run (R291). -/
def State.grantDue (s : State) : Option (Nat × Nat) :=
  s.slots.find? fun x => ((s.core x.1).quad x.2).holder.isNone && ((s.core x.1).quad x.2).sleep.isNone && ((s.core x.1).inQuad x.2).any fun gi => s.grantable x.1 x.2 gi

/-! The package's own events. -/

/-- Timers and managers. -/
def State.timerEvents (s : State) : List Instr :=
  [.cadenceTick, .powerArbiterInterval (s.islands.map (·.clock))]
    ++ (s.cores.filter fun e => decide (420 ≤ e.2.temp)).flatMap (fun e => [.hardThrottle e.1, .thermalTrip e.1])
    ++ s.ctxs.flatMap (fun e => [.debugRightsExpiry e.1, .periodicReport e.1])
    ++ s.parts.flatMap (fun e => [.skidEnd e.1, .haltRecorded e.1, .sliceEnd e.1])
    ++ s.launches.flatMap (fun e => if e.2.rcd.npkg = 0 then [] else [.goTimeout (BitVec.ofNat 32 e.2.rcd.xid)])
    ++ s.leases.flatMap (fun e => [.leaseWritebackDeadline e.1, .leaseTermEnd e.1, .leaseExpiry e.1])
    ++ s.ports.flatMap (fun e => [.flitAcknowledged e.1, .linkRetrain e.1, .linkRateUp e.1]) ++ [.controlPortRetry]
/-- Whether a write to a line of this package is outstanding: the home recalls the read leases on it (R192). -/
def State.writeAwaits (s : State) (line : Nat) : Bool := s.cores.any fun e => e.2.allOps.any fun o =>
  (o.i.accKind.getD {}).writes && o.lanes.any fun l => !l.done && l.tier == .glob && l.key.any fun k => k / 128 == line
/-- Engines outside the cores. -/
def State.engineEvents (s : State) : List Instr :=
  (s.misses.map fun e => .shortMissResolved e.1)
    ++ s.parts.flatMap (fun e => e.2.fqBusy.map fun x => .faultQueueResponse e.1 x.1)
    ++ (s.panniers.map fun e => .pannierArrival e.1)
    ++ (s.collapsing.map fun k => .collapseComplete k)
    ++ ((s.leases.filter fun e => e.2.holder.isSome && !e.2.write && s.writeAwaits e.2.line).map fun e => .leaseRecall e.1)
    ++ (s.syncs.take 1).map (fun y => .syncAck y.n)
/-- Outstanding operations of a core. -/
def opEvents (p : Nat) (c : Core) : List Instr := c.groupIxs.flatMap fun gi =>
  let g := c.group gi
  g.ops.flatMap (fun o => [.tokenCountdown p gi o.id, .promotionProbeAnswer p gi o.id, .broomProbeReturn p gi o.id])
    ++ (if gi = guestIx && g.threads.any (·.bound.isSome) then [.travelDrainEnd p gi] else [])
    ++ (if (g.travelling fun _ => true).isNone then [] else
        [.travelDrainEnd p gi] ++ g.threads.flatMap fun t => [.slotRequestAnswer p gi t.slot, .slotRequestRetry p gi t.slot])
/-- Copies and arrays of a core. -/
def unitEvents (p : Nat) (c : Core) : List Instr :=
  let copies := c.past ++ c.wg.elim [] (·.copies)
  copies.flatMap (fun k => k.slices.flatMap (fun x => (List.range 32).map fun j => .copySegmentLand p k.k x.group (k.high x + j))
      ++ [.fixupReplay p k.k, .copyEnd p k.k])
    ++ (if c.arr.ops.isEmpty && c.arr.fails.isEmpty then [] else
        .modeChangeComplete p :: (List.range 4).flatMap fun q => [.calibrationComplete p q, .tileWriteComplete p q, .mmaVerdict p q, .retryVerdict p q])
/-- What takes a workgroup from its core is looked at before the operations it waits for end: a pre-emption or a move begins at the
first moment at which it can (R341, R370). -/
def leaveEvents (p : Nat) (c : Core) : List Instr :=
  if c.wg.isNone then [] else [.relocationHonour p, .relocationRemap p, .preemption p]
/-- A core's workgroup as a whole. -/
def coreEvents (p : Nat) (c : Core) : List Instr :=
  (c.quads.zipIdx.filter fun x => x.1.sleep.isSome).map (fun x => .sleepEnd p x.2)
    ++ (if c.wg.isNone then [] else [.tandemCommit p, .tandemTimeout p, .workgroupSave p])
/-- The command processor. -/
def State.commandEvents (s : State) : List Instr :=
  s.launches.flatMap (fun e => [.waitReevaluation e.1, .completionIncrement e.1, .rollback e.1])
    ++ (s.queues.map fun e => .queueTake e.1) ++ (s.parts.map fun e => .dispatch e.1)
/-- Every event of the package that can be due. Outside facts (resets, errors, readings, messages, commands) come
through the inbox alone. -/
def State.candidates (s : State) : List Instr :=
  s.timerEvents ++ s.engineEvents ++ s.cores.flatMap (fun e => leaveEvents e.1 e.2 ++ opEvents e.1 e.2 ++ unitEvents e.1 e.2 ++ coreEvents e.1 e.2) ++ s.commandEvents

/-- The first event that is due: the one that changes more than the counter of draws. -/
def State.firstDue (s : State) : List Instr → Option Out1
  | [] => none
  | i :: is => match exec i s with
    | .next t => if { t with draws := s.draws } = s then s.firstDue is else some (.next t)
    | o => some o

/-! The step. -/

/-- The group in focus fetches, decodes and issues (R35). -/
def State.issueNext (s : State) : Out1 :=
  match s.fetch s.focus.1 s.focus.2 with
  | .stop t => .next t
  | .word t w => match decode w with
    | .ok i => exec i t
    | .error _ => .next (t.illegalWord s.focus.1 s.focus.2)
/-- One step of the machine. -/
def step (s : State) : Host.Outcome State Fault Refusal :=
  let s := s.tick
  match s.inbox with
  | i :: is => exec i { s with inbox := is }
  | [] =>
    if s.canIssue s.focus.1 s.focus.2 then s.issueNext
    else match s.firstDue s.candidates with
    | some o => o
    | none => match s.otherRunning with
      | some f => .next { s with focus := f }
      | none => match s.grantDue with
        | some (p, q) => exec (.runGrant p q) s
        | none => .next s

/-! A machine about to issue one word (the host's question; log entry 13). -/

/-- A line's word whose slot 0 holds a word: SPAR bit 22, TGT bit 27, LPAR bit 21 (R30, R31). -/
def lineWordFor (w : Nat) : Nat :=
  let v := 2 ^ 22 * b2n (oddOnes w 96) + 2 ^ 27
  v + 2 ^ 21 * b2n (oddOnes v 32)
/-- A group of one thread at PC 0, inside a run. -/
def fetchGroup : Group := { threads := [{ slot := 0, lane := 0, pc := 0 }], run := some {} }
/-- A core with one workgroup of one group of one thread, context 0, 128 registers, that holds the slot of quadrant 0. -/
def fetchCore (launch : Nat) : Core :=
  { wg := some { ctx := 0, launch, threads := 1, regs := 128, groups := [fetchGroup] }
    lastCtx := some 0, quads := [{ holder := some 0 }, {}, {}, {}]
    tlb := [{ asid := 0, base := 0, size := 2 ^ 16, leaf := 0x73 }] }
/-- The state with an instruction where the next step fetches: what a load of a program does beside placing its workgroup. Page 0 of
context 0, which has accepted every feature (R412), is the first 64 KiB of stack 0. -/
def State.withFetchWord (s : State) (nbits w : Nat) : State :=
  let v := w % 2 ^ nbits % 2 ^ 96
  { s with
    inbox := [], focus := (0, 0)
    ctxs := minsert s.ctxs 0 { desc := { valid := true }, accept := feat0 }
    parts := minsert (s.parts.filter fun e => e.1 != 0) 0 { size := 1 }
    cores := minsert s.cores 0 (fetchCore s.nextLaunch)
    mem := memWrite (memWrite (memClear s.mem 0 64) 0 12 v) 60 4 (lineWordFor v)
    poison := s.poison.filter fun e => 2 ≤ e.1
    lostHomes := s.lostHomes.filter (· != 0) }

end Sys2Proof.Machine
end

