-- ==== Sys2Proof/Claims.lean ====
section
/-! DEFINITION. The words in which statements about the machine are written: when an issue goes through to its instruction's own
effect (spec/02_instruction_word.md R35), what an issue leaves unchanged, and what is posted on a token (R46). -/

namespace Sys2Proof.Machine

/-! The issue that reaches the instruction's own effect. -/

/-- The checks that precede an instruction's own conditions let it go: legality in its kernel and context (R36, R39, R413), HAZARD in checked
mode (R48), registers with an uncorrectable error (R456), the debug checks (R435), RUN_LENGTH (R292), what an away thread cannot reach
(R354), and no commit point of a tandem copy (R467). -/
def Iss.clears (e : Iss) (c : Ctl) (i : Instr) : Bool :=
  let x := e.s.ctx e.ctx
  legalFor e.regLimit x.accept i
    && (!x.checked || (hazardBreak e.g c i e.head e.act).isNone)
    && (ueBreak e.g c i e.head e.act).isNone
    && (!e.watched || (debugBreak x e.gi e.pc).isNone)
    && (decide (e.g.run.elim 0 (·.count) ≠ 24) || c.e)
    && (!e.guest || (awayBreak i ((if everyThread i then e.head else e.act).map e.thread)).isNone)
    && !(e.tandem && e.commits i)
/-- The issue with which the group in focus reaches an instruction's own effect; none where it cannot issue or an earlier check
stops it. -/
def State.goes (s : State) (c : Ctl) (i : Instr) (weight : Nat) : Option Iss :=
  ((s.begin c weight).map (·.drawn s.draws)).filter (·.clears c i)

/-- Value k among the operands of a thread. -/
def Iss.opnd (e : Iss) (os : List (RdAs × Src)) (slot k : Nat) : DWord := (e.srcs (e.thread slot) 0 os).1.getD k 0

/-! What an issue leaves unchanged. -/

/-- The state outside cores and contexts. -/
def State.rest (s : State) : State := { s with cores := [], ctxs := [], draws := 0 }
/-- A context without its accounting counters. -/
def Ctx.uncounted (x : Ctx) : Ctx := { x with counters := [], acsat := 0 }
/-- A core without its groups and issue slots. -/
def Core.shell (c : Core) : Core := { c with wg := none, guests := {}, orphans := {}, quads := [] }
/-- A workgroup without its groups. -/
def Workgroup.shell (w : Workgroup) : Workgroup := { w with groups := [] }
/-- A thread without its registers, its PC and the marks that every issue changes. -/
def Thread.shell (t : Thread) : Thread :=
  { t with x := [], p := 0, pc := 0, wait := 0, exempt := false, target := none, returned := none, cycHigh := none, timeHigh := none }
/-- A group without its registers, its threads' PCs and what every issue changes (distances, run, the drain of a D bit). -/
def Group.shell (g : Group) : Group :=
  { g with threads := g.threads.map Thread.shell, s := [], hazards := [], run := none, park := none, thenDrain := false, passed := 0,
           hostPage := none, ueRegs := [] }
/-- The same, without what a post changes: tokens and outstanding operations. -/
def Group.core (g : Group) : Group := { g.shell with tok := [], ops := [], nextOp := 0 }

/-- An issue from s to t has changed, of the machine outside the issuing group, only issue slots and accounting counters. -/
structure Iss.Local (e : Iss) (s t : State) : Prop where
  others : ∀ gi, gi ≠ e.gi → (t.core e.p).group? gi = (s.core e.p).group? gi
  wg : (t.core e.p).wg.map Workgroup.shell = (s.core e.p).wg.map Workgroup.shell
  core : (t.core e.p).shell = (s.core e.p).shell
  cores : ∀ q, q ≠ e.p → t.core q = s.core q
  ctxs : ∀ k, (t.ctx k).uncounted = (s.ctx k).uncounted
  bytes : ∀ a, memGet t.mem a = memGet s.mem a
  rest : t.rest = s.rest

/-- The state but for what the read of an error among columns records (R274, R451). -/
def State.unmet (s : State) : State := { s.rest with berr := [], weak := [], ceDue := [] }
/-- The same, but that the issue may also have entered translations in its core's TLB (R386), and met errors beside the tables (R451). -/
structure Iss.Near (e : Iss) (s t : State) : Prop where
  others : ∀ gi, gi ≠ e.gi → (t.core e.p).group? gi = (s.core e.p).group? gi
  wg : (t.core e.p).wg.map Workgroup.shell = (s.core e.p).wg.map Workgroup.shell
  core : { (t.core e.p).shell with tlb := [] } = { (s.core e.p).shell with tlb := [] }
  cores : ∀ q, q ≠ e.p → t.core q = s.core q
  ctxs : ∀ k, (t.ctx k).uncounted = (s.ctx k).uncounted
  bytes : ∀ a, memGet t.mem a = memGet s.mem a
  rest : t.unmet = s.unmet
/-- Every byte outside n bytes from a place is as it was. -/
def BytesBut (s t : State) (k n : Nat) : Prop := ∀ a, ¬(k ≤ a ∧ a < k + n) → memGet t.mem a = memGet s.mem a
/-- Every byte is as it was. -/
def SameBytes (s t : State) : Prop := ∀ a, memGet t.mem a = memGet s.mem a

/-- Whether a code names a register: x, s or predicate (R38). -/
def regCode (code : Nat) : Prop := code < 0xC0 ∨ (0xE0 ≤ code ∧ code < 0xF8)
/-- Whether an instruction with this destination writes a register: each active lane's own x or p registers, or an s register. -/
def dstHits (d : Dst) (codes act : List Nat) (slot code : Nat) : Bool :=
  codes.contains code && !act.isEmpty && (match d with | .s _ => true | _ => act.contains slot)
/-- Every register outside the destination is as it was. -/
def Iss.OtherRegs (e : Iss) (s t : State) (d : Dst) (codes : List Nat) : Prop :=
  ∀ slot code, regCode code → dstHits d codes e.act slot code = false → (t.group e.p e.gi).reg slot code = (s.group e.p e.gi).reg slot code
/-- Every register outside the destination holds an uncorrectable error where it did (R456). -/
def Iss.OtherErrors (e : Iss) (s t : State) (d : Dst) (codes : List Nat) : Prop :=
  ∀ slot code, dstHits d codes e.act slot code = false → (t.group e.p e.gi).ueReg slot code = (s.group e.p e.gi).ueReg slot code
/-- The errors in registers are those that were (R456). -/
def Iss.SameErrors (e : Iss) (s t : State) : Prop := (t.group e.p e.gi).ueRegs = (s.group e.p e.gi).ueRegs
/-- Every register is as it was. -/
def Iss.SameRegs (e : Iss) (s t : State) : Prop := ∀ slot code, (t.group e.p e.gi).reg slot code = (s.group e.p e.gi).reg slot code

/-- The destination registers hold the values: `f slot k` in the k-th of them. -/
def Iss.Holds (e : Iss) (t : State) (d : Dst) (codes : List Nat) (f : Nat → Nat → Word) : Prop :=
  match d with
  | .none => True
  | .s _ => ∀ n, e.act.head? = some n → ∀ k (h : k < codes.length), (t.group e.p e.gi).reg n codes[k] = f n k
  | _ => ∀ n ∈ e.act, ∀ k (h : k < codes.length), (t.group e.p e.gi).reg n codes[k] = f n k

/-- Wherever an instruction's issue goes through, it writes its result into its destination registers and changes no other register, no
memory and nothing else but what every issue changes. -/
def RegResult (c : Ctl) (i : Instr) (weight : Nat) (d : Dst) (codes : List Nat) (f : Iss → Nat → Nat → Word) : Prop :=
  ∀ s e, i.wf = true → s.goes c i weight = some e →
    ∃ t, exec i s = .next t ∧ e.Holds t d codes (f e) ∧ e.OtherRegs s t d codes ∧ e.OtherErrors s t d codes ∧ e.Local s t
      ∧ (t.group e.p e.gi).shell = (s.group e.p e.gi).shell

/-- The same of an instruction of classes 0 and 1 with three source fields, by a function of its operands. -/
def AluResult (c : Ctl) (i : Instr) (o : Alu) (ra rb rc : RdAs) (words : Nat) (f : DWord → DWord → DWord → DWord) : Prop :=
  RegResult c i 1 o.dst (o.dst.codes words) fun e n k =>
    let v := e.opnd [(ra, o.a), (rb, o.b), (rc, o.c)] n
    wordOf (f (v 0) (v 1) (v 2)) k
/-- The same where all sources are of the type. -/
def TypedResult (c : Ctl) (i : Instr) (o : Alu) (f : DWord → DWord → DWord → DWord) : Prop :=
  AluResult c i o (RdAs.of o.ty) (RdAs.of o.ty) (RdAs.of o.ty) o.ty.words f
/-- The arithmetic instructions: an exact value of the operands as numbers, then Fit (R93). -/
def ExactResult (c : Ctl) (i : Instr) (o : Alu) (f : Int → Int → Int → Int) : Prop :=
  TypedResult c i o fun a b k => regOf o.ty (fit o.ty o.sat (f (intOf o.ty a) (intOf o.ty b) (intOf o.ty k)))
/-- The instructions with a 32-bit second operand (R92), on the w bits of the first and third. -/
def FieldResult (c : Ctl) (i : Instr) (o : Alu) (f : (w : Nat) → BitVec w → Nat → BitVec w → BitVec w) : Prop :=
  AluResult c i o (RdAs.of o.ty) .w32 (RdAs.of o.ty) o.ty.words fun a b k =>
    (f (tyWidth o.ty) (a.setWidth _) (b.toNat % 2 ^ 32) (k.setWidth _)).setWidth 64
/-- The instructions of class 1 over the raw words of their sources. -/
def FloatResult (c : Ctl) (i : Instr) (o : Alu) (f : Nat → Nat → Nat → Nat) : Prop :=
  AluResult c i o .w32 .w32 .w32 1 fun a b k => BitVec.ofNat 64 (f a.toNat b.toNat k.toNat)

/-- The threads of the issue have gone on to the next instruction (R308). -/
def Iss.Falls (e : Iss) (s t : State) (ns : List Nat) : Prop :=
  ∀ n ∈ ns, ((t.group e.p e.gi).thread? n).map (·.pc) = ((s.group e.p e.gi).thread? n).map fun u => nextPC u.pc
/-- The issue has changed no register, no memory and nothing else but what every issue changes. -/
structure Iss.Quiet (e : Iss) (s t : State) : Prop where
  regs : e.SameRegs s t
  errors : e.SameErrors s t
  group : (t.group e.p e.gi).shell = (s.group e.p e.gi).shell
  outside : e.Local s t
/-- The instruction traps: nothing of its effect happens, and the trap is taken as R421 to R424 say (takeTrap), or waits for the twin of a
tandem copy (R467). -/
def Traps (s : State) (e : Iss) (i : Instr) (x : Trap) : Prop :=
  exec i s = .next (e.trapAt { s with draws := s.draws + 1 } { x with unperf := some (x.unperf.getD (maskOf e.act)) })

/-! Posting (R46). -/

/-- Whether an operation counted on a token can be posted: its count is below 63 (R46). -/
def Iss.canPost (e : Iss) (c : Ctl) : Bool := !e.act.isEmpty && decide (mget 0 e.g.tok c.t < 63)
/-- The issue has entered one operation of an instruction in the group, with its threads, head set and PC. -/
structure Iss.Enters (e : Iss) (s t : State) (i : Instr) (o : Op) : Prop where
  ops : (t.group e.p e.gi).ops = (s.group e.p e.gi).ops ++ [o]
  id : o.id = (s.group e.p e.gi).nextOp
  next : (t.group e.p e.gi).nextOp = (s.group e.p e.gi).nextOp + 1
  i : o.i = i
  pc : o.pc = e.pc
  act : o.act = e.act
  head : o.head = e.head
  ctx : o.ctx = e.ctx
/-- The issue has posted one operation: it is entered, and counted on its token and no other. -/
structure Iss.Posts (e : Iss) (s t : State) (c : Ctl) (i : Instr) (o : Op) : Prop extends e.Enters s t i o where
  tok : o.tok = some c.t
  counts : ∀ n, mget 0 (t.group e.p e.gi).tok n = mget 0 (s.group e.p e.gi).tok n + (if n = c.t then 1 else 0)
/-- Of the group, a post changes no register and nothing but its tokens, its operations and what every issue changes. -/
structure Iss.PostFrame (e : Iss) (s t : State) : Prop where
  regs : e.SameRegs s t
  errors : e.SameErrors s t
  group : (t.group e.p e.gi).core = (s.group e.p e.gi).core
  outside : e.Local s t
/-- An issue has changed no register, no memory, no other group and no other core; its own core may hold what it began there. -/
structure Iss.Beside (e : Iss) (s t : State) : Prop where
  regs : e.SameRegs s t
  errors : e.SameErrors s t
  group : (t.group e.p e.gi).core = (s.group e.p e.gi).core
  others : ∀ gi, gi ≠ e.gi → (t.core e.p).group? gi = (s.core e.p).group? gi
  cores : ∀ q, q ≠ e.p → t.core q = s.core q
  ctxs : ∀ k, (t.ctx k).uncounted = (s.ctx k).uncounted
  bytes : SameBytes s t
/-- The issue was held, for the reason given: nothing of it happened, and its run is suspended (R293). -/
def Holds (s : State) (e : Iss) (i : Instr) (h : Hold) : Prop := exec i s = .next (State.holdIssue { s with draws := s.draws + 1 } e.p e.gi h)
/-- Wherever its issue goes through and its token has room, an instruction is posted with the results that it will deliver. -/
def PostResult (c : Ctl) (i : Instr) (d : Dst) (words : Nat) (f : Iss → Nat → DWord) : Prop :=
  ∀ s e, i.wf = true → s.goes c i 1 = some e → e.canPost c = true →
    ∃ t o, exec i s = .next t ∧ e.Posts s t c i o ∧ o.writes = dstWrites d words (e.act.map fun n => (n, f e n)) ∧ e.PostFrame s t

/-- Wherever an access's issue goes through, its token has room and no lane misses or travels, it is posted with its lanes and the writes
already known; a missing lane parks the group for its replay (R46, R233, R249). -/
def AccessPost (c : Ctl) (i : Instr) (q : AccReq) (os : List (RdAs × Src)) (lanes : Iss → List LaneReq) (ws : Iss → List RegWrite) : Prop :=
  ∀ s e u los, i.wf = true → s.goes c i 1 = some e → e.canPost c = true → e.tandem = false →
    (e.latched os).locate q (lanes e) = .ok (u, los) →
    ((∀ l ∈ los, l.miss = false ∧ l.trav = .no) →
      ∃ t x, exec i s = .next t ∧ e.Posts s t c i x ∧ x.lanes = los ∧ x.writes = ws e ∧ x.stage = 0 ∧ e.SameRegs s t ∧ e.Near s t
        ∧ (t.group e.p e.gi).core = (s.group e.p e.gi).core ∧ e.Falls s t e.head)
    ∧ ((∃ l ∈ los, l.miss = true) →
      ∃ t x, exec i s = .next t ∧ e.Posts s t c i x ∧ x.lanes = los ∧ x.writes = ws e ∧ x.stage = 0 ∧ e.SameRegs s t
        ∧ (t.group e.p e.gi).park = some .replay ∧ (t.group e.p e.gi).run = none
        ∧ ∀ gi, gi ≠ e.gi → (t.core e.p).group? gi = (s.core e.p).group? gi)

/-! Results of outstanding operations (R46). -/

/-- Whether two writes name one register: an s register is one for all threads of its group (R38). -/
def RegWrite.meets (a b : RegWrite) : Bool := a.code == b.code && (a.slot == b.slot || (decide (0x80 ≤ a.code) && decide (a.code < 0xC0)))
/-- Whether the writes of an operation reach x and s registers that exist in a group that has not ended (R283), each written once, with no
other write of them made meanwhile (R47, R48). -/
def Group.awaits (g : Group) (id : Nat) (ws : List RegWrite) : Prop :=
  (∀ w ∈ ws, w.code < 0xC0 ∧ (w.code < 0x80 → (g.thread? w.slot).isSome = true)) ∧ ws.Pairwise (fun a b => a.meets b = false)
    ∧ (∀ h ∈ g.hazards, h.op = some id → h.clob = false) ∧ (ws ≠ [] → g.ended = false)
/-- The writes are in place and every other register of the group is as it was. -/
def Landed (s t : State) (p gi : Nat) (ws : List RegWrite) : Prop :=
  (∀ w ∈ ws, (t.group p gi).reg w.slot w.code = w.v)
    ∧ ∀ slot code, regCode code → (∀ w ∈ ws, w.meets ⟨slot, code, 0⟩ = false) → (t.group p gi).reg slot code = (s.group p gi).reg slot code
/-- An operation is over: its results are in place, it is no longer outstanding, and its token alone has counted down by one. -/
structure Completes (s t : State) (p gi : Nat) (o : Op) (ws : List RegWrite) : Prop where
  landed : Landed s t p gi ws
  gone : (t.group p gi).op? o.id = none
  count : ∀ n, mget 0 (t.group p gi).tok n = mget 0 (s.group p gi).tok n - (if o.tok = some n then 1 else 0)
/-- An operation outstanding in a group, that no tandem twin shares (R467). -/
def Pending (s : State) (p gi id : Nat) (o : Op) : Prop :=
  ((s.core p).group? gi).isSome = true ∧ (s.group p gi).op? id = some o ∧ o.twin = none ∧ o.shadow = false
/-- The result that a lane of an operation writes: to its own registers, or to an s register where it is the lowest lane (R40). -/
def Op.laneWrites (o : Op) (slot : Nat) (v : DWord) : List RegWrite :=
  match o.i.accDst with
  | (.s n, w) => if o.act.head? = some slot then dstWrites (.s n) w [(slot, v)] else []
  | (d, w) => dstWrites d w [(slot, v)]
/-- A lane of an operation that nothing but the order of the thread's accesses keeps from being performed at a place (R223, R233, R249):
it is translated, its window's workgroup is placed, its bytes are sound, and no lease stands against it (R192, R194). -/
def State.open (s : State) (p gi : Nat) (o : Op) (l : LaneOp) (a : Nat) : Prop :=
  o.i.moves = false ∧ l.done = false ∧ l.refused = none ∧ l.long = none ∧ (l.trav = .no ∨ l.trav = .fell) ∧ (l.tier = .glob → l.key ≠ none)
    ∧ s.placeNow gi l = (some a, false) ∧ (l.tier = .glob → s.reaches (pdie p) a = true) ∧ s.poisonAt a l.size = none
    ∧ s.mustStall l.leaf a (.lane p gi o.id l.slot) = false
    ∧ (l.tier = .glob → s.flagged.contains (a / 2 ^ 16) = false ∧ s.leaseWaits a l.size true = false)

end Sys2Proof.Machine
end

