-- ==== Sys2Proof/Laws/PerInstr.lean ====
section
/-! SUPPORT. One lemma per constructor of Instr: which constructors stand for a word and which for an event. -/

namespace Sys2Proof

/-- Whether a constructor is an instruction word rather than an event of the package (spec/95_what_each_step_holds.md). -/
def Instr.isWord : Instr → Bool
  | .iadd .. => true
  | .isub .. => true
  | .imul .. => true
  | .imulHi .. => true
  | .imad .. => true
  | .imadWide .. => true
  | .imin .. => true
  | .imax .. => true
  | .iabs .. => true
  | .ineg .. => true
  | .and .. => true
  | .or .. => true
  | .xor .. => true
  | .andn .. => true
  | .orn .. => true
  | .not .. => true
  | .shl .. => true
  | .shr .. => true
  | .sar .. => true
  | .rol .. => true
  | .ror .. => true
  | .bfx .. => true
  | .bfi .. => true
  | .popc .. => true
  | .clz .. => true
  | .ctz .. => true
  | .brev .. => true
  | .prmt .. => true
  | .icmp .. => true
  | .isel .. => true
  | .mov .. => true
  | .movi .. => true
  | .lea .. => true
  | .plog .. => true
  | .pmovPack .. => true
  | .pmovUnpack .. => true
  | .fadd .. => true
  | .fsub .. => true
  | .fmul .. => true
  | .fma .. => true
  | .fmin .. => true
  | .fmax .. => true
  | .fcmp .. => true
  | .frnd .. => true
  | .frcp .. => true
  | .frsq .. => true
  | .fsqrt .. => true
  | .fexp2 .. => true
  | .flog2 .. => true
  | .fsin .. => true
  | .fcos .. => true
  | .ftanh .. => true
  | .fsigm .. => true
  | .fclass .. => true
  | .fscale .. => true
  | .cvt .. => true
  | .cvti .. => true
  | .cvtf .. => true
  | .hadd2 .. => true
  | .hmul2 .. => true
  | .hfma2 .. => true
  | .dot4 .. => true
  | .mxpack .. => true
  | .mxunpk .. => true
  | .nop .. => true
  | .dly .. => true
  | .bra .. => true
  | .brx .. => true
  | .call .. => true
  | .callReg .. => true
  | .ret .. => true
  | .exit .. => true
  | .twait .. => true
  | .yield .. => true
  | .sleep .. => true
  | .join .. => true
  | .leave .. => true
  | .mwait .. => true
  | .maskRd .. => true
  | .maskTst .. => true
  | .ballot .. => true
  | .vote .. => true
  | .shfl .. => true
  | .bar .. => true
  | .cbar .. => true
  | .binit .. => true
  | .barrive .. => true
  | .barriveTx .. => true
  | .bwait .. => true
  | .binval .. => true
  | .qsend .. => true
  | .qrecv .. => true
  | .launch .. => true
  | .ldp .. => true
  | .lds .. => true
  | .ldc .. => true
  | .ldd .. => true
  | .ldg .. => true
  | .stp .. => true
  | .sts .. => true
  | .stc .. => true
  | .std .. => true
  | .stg .. => true
  | .cstore .. => true
  | .xload .. => true
  | .atom .. => true
  | .atomf .. => true
  | .red .. => true
  | .cas .. => true
  | .fence .. => true
  | .pref .. => true
  | .cctlWb .. => true
  | .cctlInv .. => true
  | .cctlWbinv .. => true
  | .seal .. => true
  | .unseal .. => true
  | .amodeSto .. => true
  | .amodeMul .. => true
  | .acal .. => true
  | .awr .. => true
  | .ald .. => true
  | .ard .. => true
  | .mconv .. => true
  | .mma .. => true
  | .mzero .. => true
  | .mdrain .. => true
  | .macc .. => true
  | .mcks .. => true
  | .mloc .. => true
  | .mfix .. => true
  | .mretry .. => true
  | .ainfo .. => true
  | .bcopy .. => true
  | .bcopym .. => true
  | .broom .. => true
  | .nma .. => true
  | .nmar .. => true
  | .bdot .. => true
  | .gred .. => true
  | .migset .. => true
  | .migto .. => true
  | .migret .. => true
  | .migq .. => true
  | .wpre .. => true
  | .trap .. => true
  | .tret .. => true
  | .sysr .. => true
  | .sysw .. => true
  | .cntr .. => true
  | .brk .. => true
  | .halt .. => true
  | .tlbiVa .. => true
  | .tlbiAsid .. => true
  | .dbgr .. => true
  | .dbgw .. => true
  | .ckinjWrite .. => false
  | .dbgctlWrite .. => false
  | .getCert .. => false
  | .getAttest .. => false
  | .setPart .. => false
  | .setCtx .. => false
  | .setQueue .. => false
  | .setRelth .. => false
  | .setAccept .. => false
  | .setAcctl .. => false
  | .bindJob .. => false
  | .unbindJob .. => false
  | .report .. => false
  | .clearBerr .. => false
  | .clearFlag .. => false
  | .clearLink .. => false
  | .debugAuth .. => false
  | .commitSvn .. => false
  | .loadImage .. => false
  | .packageReset .. => false
  | .powerArbiterInterval .. => false
  | .hardThrottle .. => false
  | .thermalTrip .. => false
  | .sensorSample .. => false
  | .cadenceTick .. => false
  | .leaseWritebackDeadline .. => false
  | .leaseRecall .. => false
  | .leaseExpiry .. => false
  | .collapseComplete .. => false
  | .calibrationTrigger .. => false
  | .calibrationComplete .. => false
  | .modeChangeComplete .. => false
  | .tileWriteComplete .. => false
  | .mmaVerdict .. => false
  | .retryVerdict .. => false
  | .promotionProbeAnswer .. => false
  | .broomProbeReturn .. => false
  | .tokenCountdown .. => false
  | .shortMissResolved .. => false
  | .faultQueueResponse .. => false
  | .workgroupSave .. => false
  | .copySegmentLand .. => false
  | .fixupReplay .. => false
  | .copyEnd .. => false
  | .nmuRefresh .. => false
  | .nmuCommandComplete .. => false
  | .qsendArrival .. => false
  | .queueTake .. => false
  | .dispatch .. => false
  | .completionIncrement .. => false
  | .waitReevaluation .. => false
  | .reservedMessage .. => false
  | .goMessage .. => false
  | .goAck .. => false
  | .goTimeout .. => false
  | .abortMessage .. => false
  | .sliceEnd .. => false
  | .preemption .. => false
  | .restore .. => false
  | .runGrant .. => false
  | .sleepEnd .. => false
  | .relocationHonour .. => false
  | .relocationRemap .. => false
  | .slotRequestAnswer .. => false
  | .slotRequestRetry .. => false
  | .pannierArrival .. => false
  | .travelDrainEnd .. => false
  | .haltRaise .. => false
  | .skidEnd .. => false
  | .haltRecorded .. => false
  | .tandemCommit .. => false
  | .tandemTimeout .. => false
  | .rollback .. => false
  | .ueDetected .. => false
  | .accumulatorUe .. => false
  | .containmentLost .. => false
  | .patrolScrub .. => false
  | .linkReplay .. => false
  | .linkRetrain .. => false
  | .linkRateUp .. => false
  | .controlPortRetry .. => false
  | .periodicReport .. => false
  | .debugRightsExpiry .. => false
  | .invalidateBroadcast .. => false
  | .sync .. => false
  | .syncAck .. => false
  | .flitAcknowledged .. => false
  | .retrainingComplete .. => false
  | .leaseTermEnd .. => false
  | .withdrawEntry .. => false
  | .unknownCode .. => false

/-- An instruction word has an encoding, an event has none. -/
def Laws.Encoding.Statement (i : Instr) : Prop := (encode i).isSome = i.isWord

theorem Laws.Encoding.iadd : ∀ a0 a1, Laws.Encoding.Statement (.iadd a0 a1) := fun _ _ => rfl
theorem Laws.Encoding.isub : ∀ a0 a1, Laws.Encoding.Statement (.isub a0 a1) := fun _ _ => rfl
theorem Laws.Encoding.imul : ∀ a0 a1, Laws.Encoding.Statement (.imul a0 a1) := fun _ _ => rfl
theorem Laws.Encoding.imulHi : ∀ a0 a1, Laws.Encoding.Statement (.imulHi a0 a1) := fun _ _ => rfl
theorem Laws.Encoding.imad : ∀ a0 a1, Laws.Encoding.Statement (.imad a0 a1) := fun _ _ => rfl
theorem Laws.Encoding.imadWide : ∀ a0 a1, Laws.Encoding.Statement (.imadWide a0 a1) := fun _ _ => rfl
theorem Laws.Encoding.imin : ∀ a0 a1, Laws.Encoding.Statement (.imin a0 a1) := fun _ _ => rfl
theorem Laws.Encoding.imax : ∀ a0 a1, Laws.Encoding.Statement (.imax a0 a1) := fun _ _ => rfl
theorem Laws.Encoding.iabs : ∀ a0 a1, Laws.Encoding.Statement (.iabs a0 a1) := fun _ _ => rfl
theorem Laws.Encoding.ineg : ∀ a0 a1, Laws.Encoding.Statement (.ineg a0 a1) := fun _ _ => rfl
theorem Laws.Encoding.and : ∀ a0 a1, Laws.Encoding.Statement (.and a0 a1) := fun _ _ => rfl
theorem Laws.Encoding.or : ∀ a0 a1, Laws.Encoding.Statement (.or a0 a1) := fun _ _ => rfl
theorem Laws.Encoding.xor : ∀ a0 a1, Laws.Encoding.Statement (.xor a0 a1) := fun _ _ => rfl
theorem Laws.Encoding.andn : ∀ a0 a1, Laws.Encoding.Statement (.andn a0 a1) := fun _ _ => rfl
theorem Laws.Encoding.orn : ∀ a0 a1, Laws.Encoding.Statement (.orn a0 a1) := fun _ _ => rfl
theorem Laws.Encoding.not : ∀ a0 a1, Laws.Encoding.Statement (.not a0 a1) := fun _ _ => rfl
theorem Laws.Encoding.shl : ∀ a0 a1, Laws.Encoding.Statement (.shl a0 a1) := fun _ _ => rfl
theorem Laws.Encoding.shr : ∀ a0 a1, Laws.Encoding.Statement (.shr a0 a1) := fun _ _ => rfl
theorem Laws.Encoding.sar : ∀ a0 a1, Laws.Encoding.Statement (.sar a0 a1) := fun _ _ => rfl
theorem Laws.Encoding.rol : ∀ a0 a1, Laws.Encoding.Statement (.rol a0 a1) := fun _ _ => rfl
theorem Laws.Encoding.ror : ∀ a0 a1, Laws.Encoding.Statement (.ror a0 a1) := fun _ _ => rfl
theorem Laws.Encoding.bfx : ∀ a0 a1, Laws.Encoding.Statement (.bfx a0 a1) := fun _ _ => rfl
theorem Laws.Encoding.bfi : ∀ a0 a1, Laws.Encoding.Statement (.bfi a0 a1) := fun _ _ => rfl
theorem Laws.Encoding.popc : ∀ a0 a1, Laws.Encoding.Statement (.popc a0 a1) := fun _ _ => rfl
theorem Laws.Encoding.clz : ∀ a0 a1, Laws.Encoding.Statement (.clz a0 a1) := fun _ _ => rfl
theorem Laws.Encoding.ctz : ∀ a0 a1, Laws.Encoding.Statement (.ctz a0 a1) := fun _ _ => rfl
theorem Laws.Encoding.brev : ∀ a0 a1, Laws.Encoding.Statement (.brev a0 a1) := fun _ _ => rfl
theorem Laws.Encoding.prmt : ∀ a0 a1, Laws.Encoding.Statement (.prmt a0 a1) := fun _ _ => rfl
theorem Laws.Encoding.icmp : ∀ a0 a1 a2, Laws.Encoding.Statement (.icmp a0 a1 a2) := fun _ _ _ => rfl
theorem Laws.Encoding.isel : ∀ a0 a1, Laws.Encoding.Statement (.isel a0 a1) := fun _ _ => rfl
theorem Laws.Encoding.mov : ∀ a0 a1, Laws.Encoding.Statement (.mov a0 a1) := fun _ _ => rfl
theorem Laws.Encoding.movi : ∀ a0 a1 a2, Laws.Encoding.Statement (.movi a0 a1 a2) := fun _ _ _ => rfl
theorem Laws.Encoding.lea : ∀ a0 a1 a2, Laws.Encoding.Statement (.lea a0 a1 a2) := fun _ _ _ => rfl
theorem Laws.Encoding.plog : ∀ a0 a1 a2, Laws.Encoding.Statement (.plog a0 a1 a2) := fun _ _ _ => rfl
theorem Laws.Encoding.pmovPack : ∀ a0 a1 a2, Laws.Encoding.Statement (.pmovPack a0 a1 a2) := fun _ _ _ => rfl
theorem Laws.Encoding.pmovUnpack : ∀ a0 a1 a2, Laws.Encoding.Statement (.pmovUnpack a0 a1 a2) := fun _ _ _ => rfl
theorem Laws.Encoding.fadd : ∀ a0 a1, Laws.Encoding.Statement (.fadd a0 a1) := fun _ _ => rfl
theorem Laws.Encoding.fsub : ∀ a0 a1, Laws.Encoding.Statement (.fsub a0 a1) := fun _ _ => rfl
theorem Laws.Encoding.fmul : ∀ a0 a1, Laws.Encoding.Statement (.fmul a0 a1) := fun _ _ => rfl
theorem Laws.Encoding.fma : ∀ a0 a1, Laws.Encoding.Statement (.fma a0 a1) := fun _ _ => rfl
theorem Laws.Encoding.fmin : ∀ a0 a1, Laws.Encoding.Statement (.fmin a0 a1) := fun _ _ => rfl
theorem Laws.Encoding.fmax : ∀ a0 a1, Laws.Encoding.Statement (.fmax a0 a1) := fun _ _ => rfl
theorem Laws.Encoding.fcmp : ∀ a0 a1 a2, Laws.Encoding.Statement (.fcmp a0 a1 a2) := fun _ _ _ => rfl
theorem Laws.Encoding.frnd : ∀ a0 a1, Laws.Encoding.Statement (.frnd a0 a1) := fun _ _ => rfl
theorem Laws.Encoding.frcp : ∀ a0 a1, Laws.Encoding.Statement (.frcp a0 a1) := fun _ _ => rfl
theorem Laws.Encoding.frsq : ∀ a0 a1, Laws.Encoding.Statement (.frsq a0 a1) := fun _ _ => rfl
theorem Laws.Encoding.fsqrt : ∀ a0 a1, Laws.Encoding.Statement (.fsqrt a0 a1) := fun _ _ => rfl
theorem Laws.Encoding.fexp2 : ∀ a0 a1, Laws.Encoding.Statement (.fexp2 a0 a1) := fun _ _ => rfl
theorem Laws.Encoding.flog2 : ∀ a0 a1, Laws.Encoding.Statement (.flog2 a0 a1) := fun _ _ => rfl
theorem Laws.Encoding.fsin : ∀ a0 a1, Laws.Encoding.Statement (.fsin a0 a1) := fun _ _ => rfl
theorem Laws.Encoding.fcos : ∀ a0 a1, Laws.Encoding.Statement (.fcos a0 a1) := fun _ _ => rfl
theorem Laws.Encoding.ftanh : ∀ a0 a1, Laws.Encoding.Statement (.ftanh a0 a1) := fun _ _ => rfl
theorem Laws.Encoding.fsigm : ∀ a0 a1, Laws.Encoding.Statement (.fsigm a0 a1) := fun _ _ => rfl
theorem Laws.Encoding.fclass : ∀ a0 a1, Laws.Encoding.Statement (.fclass a0 a1) := fun _ _ => rfl
theorem Laws.Encoding.fscale : ∀ a0 a1, Laws.Encoding.Statement (.fscale a0 a1) := fun _ _ => rfl
theorem Laws.Encoding.cvt : ∀ a0 a1 a2, Laws.Encoding.Statement (.cvt a0 a1 a2) := fun _ _ _ => rfl
theorem Laws.Encoding.cvti : ∀ a0 a1 a2, Laws.Encoding.Statement (.cvti a0 a1 a2) := fun _ _ _ => rfl
theorem Laws.Encoding.cvtf : ∀ a0 a1 a2, Laws.Encoding.Statement (.cvtf a0 a1 a2) := fun _ _ _ => rfl
theorem Laws.Encoding.hadd2 : ∀ a0 a1, Laws.Encoding.Statement (.hadd2 a0 a1) := fun _ _ => rfl
theorem Laws.Encoding.hmul2 : ∀ a0 a1, Laws.Encoding.Statement (.hmul2 a0 a1) := fun _ _ => rfl
theorem Laws.Encoding.hfma2 : ∀ a0 a1, Laws.Encoding.Statement (.hfma2 a0 a1) := fun _ _ => rfl
theorem Laws.Encoding.dot4 : ∀ a0 a1, Laws.Encoding.Statement (.dot4 a0 a1) := fun _ _ => rfl
theorem Laws.Encoding.mxpack : ∀ a0 a1 a2, Laws.Encoding.Statement (.mxpack a0 a1 a2) := fun _ _ _ => rfl
theorem Laws.Encoding.mxunpk : ∀ a0 a1, Laws.Encoding.Statement (.mxunpk a0 a1) := fun _ _ => rfl
theorem Laws.Encoding.nop : ∀ a0, Laws.Encoding.Statement (.nop a0) := fun _ => rfl
theorem Laws.Encoding.dly : ∀ a0 a1, Laws.Encoding.Statement (.dly a0 a1) := fun _ _ => rfl
theorem Laws.Encoding.bra : ∀ a0 a1, Laws.Encoding.Statement (.bra a0 a1) := fun _ _ => rfl
theorem Laws.Encoding.brx : ∀ a0 a1, Laws.Encoding.Statement (.brx a0 a1) := fun _ _ => rfl
theorem Laws.Encoding.call : ∀ a0 a1, Laws.Encoding.Statement (.call a0 a1) := fun _ _ => rfl
theorem Laws.Encoding.callReg : ∀ a0 a1, Laws.Encoding.Statement (.callReg a0 a1) := fun _ _ => rfl
theorem Laws.Encoding.ret : ∀ a0, Laws.Encoding.Statement (.ret a0) := fun _ => rfl
theorem Laws.Encoding.exit : ∀ a0, Laws.Encoding.Statement (.exit a0) := fun _ => rfl
theorem Laws.Encoding.twait : ∀ a0 a1 a2, Laws.Encoding.Statement (.twait a0 a1 a2) := fun _ _ _ => rfl
theorem Laws.Encoding.yield : ∀ a0, Laws.Encoding.Statement (.yield a0) := fun _ => rfl
theorem Laws.Encoding.sleep : ∀ a0 a1, Laws.Encoding.Statement (.sleep a0 a1) := fun _ _ => rfl
theorem Laws.Encoding.join : ∀ a0 a1, Laws.Encoding.Statement (.join a0 a1) := fun _ _ => rfl
theorem Laws.Encoding.leave : ∀ a0 a1, Laws.Encoding.Statement (.leave a0 a1) := fun _ _ => rfl
theorem Laws.Encoding.mwait : ∀ a0 a1, Laws.Encoding.Statement (.mwait a0 a1) := fun _ _ => rfl
theorem Laws.Encoding.maskRd : ∀ a0 a1 a2, Laws.Encoding.Statement (.maskRd a0 a1 a2) := fun _ _ _ => rfl
theorem Laws.Encoding.maskTst : ∀ a0 a1 a2, Laws.Encoding.Statement (.maskTst a0 a1 a2) := fun _ _ _ => rfl
theorem Laws.Encoding.ballot : ∀ a0 a1 a2, Laws.Encoding.Statement (.ballot a0 a1 a2) := fun _ _ _ => rfl
theorem Laws.Encoding.vote : ∀ a0 a1 a2 a3, Laws.Encoding.Statement (.vote a0 a1 a2 a3) := fun _ _ _ _ => rfl
theorem Laws.Encoding.shfl : ∀ a0 a1 a2 a3 a4 a5, Laws.Encoding.Statement (.shfl a0 a1 a2 a3 a4 a5) := fun _ _ _ _ _ _ => rfl
theorem Laws.Encoding.bar : ∀ a0 a1, Laws.Encoding.Statement (.bar a0 a1) := fun _ _ => rfl
theorem Laws.Encoding.cbar : ∀ a0 a1, Laws.Encoding.Statement (.cbar a0 a1) := fun _ _ => rfl
theorem Laws.Encoding.binit : ∀ a0 a1, Laws.Encoding.Statement (.binit a0 a1) := fun _ _ => rfl
theorem Laws.Encoding.barrive : ∀ a0 a1, Laws.Encoding.Statement (.barrive a0 a1) := fun _ _ => rfl
theorem Laws.Encoding.barriveTx : ∀ a0 a1, Laws.Encoding.Statement (.barriveTx a0 a1) := fun _ _ => rfl
theorem Laws.Encoding.bwait : ∀ a0 a1, Laws.Encoding.Statement (.bwait a0 a1) := fun _ _ => rfl
theorem Laws.Encoding.binval : ∀ a0 a1, Laws.Encoding.Statement (.binval a0 a1) := fun _ _ => rfl
theorem Laws.Encoding.qsend : ∀ a0 a1, Laws.Encoding.Statement (.qsend a0 a1) := fun _ _ => rfl
theorem Laws.Encoding.qrecv : ∀ a0 a1 a2 a3, Laws.Encoding.Statement (.qrecv a0 a1 a2 a3) := fun _ _ _ _ => rfl
theorem Laws.Encoding.launch : ∀ a0 a1 a2 a3, Laws.Encoding.Statement (.launch a0 a1 a2 a3) := fun _ _ _ _ => rfl
theorem Laws.Encoding.ldp : ∀ a0 a1, Laws.Encoding.Statement (.ldp a0 a1) := fun _ _ => rfl
theorem Laws.Encoding.lds : ∀ a0 a1, Laws.Encoding.Statement (.lds a0 a1) := fun _ _ => rfl
theorem Laws.Encoding.ldc : ∀ a0 a1, Laws.Encoding.Statement (.ldc a0 a1) := fun _ _ => rfl
theorem Laws.Encoding.ldd : ∀ a0 a1, Laws.Encoding.Statement (.ldd a0 a1) := fun _ _ => rfl
theorem Laws.Encoding.ldg : ∀ a0 a1, Laws.Encoding.Statement (.ldg a0 a1) := fun _ _ => rfl
theorem Laws.Encoding.stp : ∀ a0 a1, Laws.Encoding.Statement (.stp a0 a1) := fun _ _ => rfl
theorem Laws.Encoding.sts : ∀ a0 a1, Laws.Encoding.Statement (.sts a0 a1) := fun _ _ => rfl
theorem Laws.Encoding.stc : ∀ a0 a1, Laws.Encoding.Statement (.stc a0 a1) := fun _ _ => rfl
theorem Laws.Encoding.std : ∀ a0 a1, Laws.Encoding.Statement (.std a0 a1) := fun _ _ => rfl
theorem Laws.Encoding.stg : ∀ a0 a1, Laws.Encoding.Statement (.stg a0 a1) := fun _ _ => rfl
theorem Laws.Encoding.cstore : ∀ a0 a1, Laws.Encoding.Statement (.cstore a0 a1) := fun _ _ => rfl
theorem Laws.Encoding.xload : ∀ a0 a1, Laws.Encoding.Statement (.xload a0 a1) := fun _ _ => rfl
theorem Laws.Encoding.atom : ∀ a0 a1 a2, Laws.Encoding.Statement (.atom a0 a1 a2) := fun _ _ _ => rfl
theorem Laws.Encoding.atomf : ∀ a0 a1 a2, Laws.Encoding.Statement (.atomf a0 a1 a2) := fun _ _ _ => rfl
theorem Laws.Encoding.red : ∀ a0 a1 a2, Laws.Encoding.Statement (.red a0 a1 a2) := fun _ _ _ => rfl
theorem Laws.Encoding.cas : ∀ a0 a1, Laws.Encoding.Statement (.cas a0 a1) := fun _ _ => rfl
theorem Laws.Encoding.fence : ∀ a0 a1, Laws.Encoding.Statement (.fence a0 a1) := fun _ _ => rfl
theorem Laws.Encoding.pref : ∀ a0 a1 a2, Laws.Encoding.Statement (.pref a0 a1 a2) := fun _ _ _ => rfl
theorem Laws.Encoding.cctlWb : ∀ a0 a1, Laws.Encoding.Statement (.cctlWb a0 a1) := fun _ _ => rfl
theorem Laws.Encoding.cctlInv : ∀ a0 a1, Laws.Encoding.Statement (.cctlInv a0 a1) := fun _ _ => rfl
theorem Laws.Encoding.cctlWbinv : ∀ a0 a1, Laws.Encoding.Statement (.cctlWbinv a0 a1) := fun _ _ => rfl
theorem Laws.Encoding.seal : ∀ a0 a1, Laws.Encoding.Statement (.seal a0 a1) := fun _ _ => rfl
theorem Laws.Encoding.unseal : ∀ a0 a1, Laws.Encoding.Statement (.unseal a0 a1) := fun _ _ => rfl
theorem Laws.Encoding.amodeSto : ∀ a0 a1, Laws.Encoding.Statement (.amodeSto a0 a1) := fun _ _ => rfl
theorem Laws.Encoding.amodeMul : ∀ a0 a1, Laws.Encoding.Statement (.amodeMul a0 a1) := fun _ _ => rfl
theorem Laws.Encoding.acal : ∀ a0 a1, Laws.Encoding.Statement (.acal a0 a1) := fun _ _ => rfl
theorem Laws.Encoding.awr : ∀ a0 a1, Laws.Encoding.Statement (.awr a0 a1) := fun _ _ => rfl
theorem Laws.Encoding.ald : ∀ a0 a1, Laws.Encoding.Statement (.ald a0 a1) := fun _ _ => rfl
theorem Laws.Encoding.ard : ∀ a0 a1, Laws.Encoding.Statement (.ard a0 a1) := fun _ _ => rfl
theorem Laws.Encoding.mconv : ∀ a0 a1 a2 a3 a4 a5, Laws.Encoding.Statement (.mconv a0 a1 a2 a3 a4 a5) := fun _ _ _ _ _ _ => rfl
theorem Laws.Encoding.mma : ∀ a0 a1, Laws.Encoding.Statement (.mma a0 a1) := fun _ _ => rfl
theorem Laws.Encoding.mzero : ∀ a0 a1 a2, Laws.Encoding.Statement (.mzero a0 a1 a2) := fun _ _ _ => rfl
theorem Laws.Encoding.mdrain : ∀ a0 a1, Laws.Encoding.Statement (.mdrain a0 a1) := fun _ _ => rfl
theorem Laws.Encoding.macc : ∀ a0 a1, Laws.Encoding.Statement (.macc a0 a1) := fun _ _ => rfl
theorem Laws.Encoding.mcks : ∀ a0 a1, Laws.Encoding.Statement (.mcks a0 a1) := fun _ _ => rfl
theorem Laws.Encoding.mloc : ∀ a0 a1, Laws.Encoding.Statement (.mloc a0 a1) := fun _ _ => rfl
theorem Laws.Encoding.mfix : ∀ a0 a1, Laws.Encoding.Statement (.mfix a0 a1) := fun _ _ => rfl
theorem Laws.Encoding.mretry : ∀ a0 a1 a2, Laws.Encoding.Statement (.mretry a0 a1 a2) := fun _ _ _ => rfl
theorem Laws.Encoding.ainfo : ∀ a0 a1 a2, Laws.Encoding.Statement (.ainfo a0 a1 a2) := fun _ _ _ => rfl
theorem Laws.Encoding.bcopy : ∀ a0 a1, Laws.Encoding.Statement (.bcopy a0 a1) := fun _ _ => rfl
theorem Laws.Encoding.bcopym : ∀ a0 a1, Laws.Encoding.Statement (.bcopym a0 a1) := fun _ _ => rfl
theorem Laws.Encoding.broom : ∀ a0, Laws.Encoding.Statement (.broom a0) := fun _ => rfl
theorem Laws.Encoding.nma : ∀ a0 a1, Laws.Encoding.Statement (.nma a0 a1) := fun _ _ => rfl
theorem Laws.Encoding.nmar : ∀ a0 a1, Laws.Encoding.Statement (.nmar a0 a1) := fun _ _ => rfl
theorem Laws.Encoding.bdot : ∀ a0 a1, Laws.Encoding.Statement (.bdot a0 a1) := fun _ _ => rfl
theorem Laws.Encoding.gred : ∀ a0 a1, Laws.Encoding.Statement (.gred a0 a1) := fun _ _ => rfl
theorem Laws.Encoding.migset : ∀ a0 a1, Laws.Encoding.Statement (.migset a0 a1) := fun _ _ => rfl
theorem Laws.Encoding.migto : ∀ a0 a1, Laws.Encoding.Statement (.migto a0 a1) := fun _ _ => rfl
theorem Laws.Encoding.migret : ∀ a0, Laws.Encoding.Statement (.migret a0) := fun _ => rfl
theorem Laws.Encoding.migq : ∀ a0 a1, Laws.Encoding.Statement (.migq a0 a1) := fun _ _ => rfl
theorem Laws.Encoding.wpre : ∀ a0 a1, Laws.Encoding.Statement (.wpre a0 a1) := fun _ _ => rfl
theorem Laws.Encoding.trap : ∀ a0 a1, Laws.Encoding.Statement (.trap a0 a1) := fun _ _ => rfl
theorem Laws.Encoding.tret : ∀ a0 a1, Laws.Encoding.Statement (.tret a0 a1) := fun _ _ => rfl
theorem Laws.Encoding.sysr : ∀ a0 a1 a2, Laws.Encoding.Statement (.sysr a0 a1 a2) := fun _ _ _ => rfl
theorem Laws.Encoding.sysw : ∀ a0 a1 a2, Laws.Encoding.Statement (.sysw a0 a1 a2) := fun _ _ _ => rfl
theorem Laws.Encoding.cntr : ∀ a0 a1 a2, Laws.Encoding.Statement (.cntr a0 a1 a2) := fun _ _ _ => rfl
theorem Laws.Encoding.brk : ∀ a0 a1, Laws.Encoding.Statement (.brk a0 a1) := fun _ _ => rfl
theorem Laws.Encoding.halt : ∀ a0 a1, Laws.Encoding.Statement (.halt a0 a1) := fun _ _ => rfl
theorem Laws.Encoding.tlbiVa : ∀ a0 a1 a2, Laws.Encoding.Statement (.tlbiVa a0 a1 a2) := fun _ _ _ => rfl
theorem Laws.Encoding.tlbiAsid : ∀ a0 a1, Laws.Encoding.Statement (.tlbiAsid a0 a1) := fun _ _ => rfl
theorem Laws.Encoding.dbgr : ∀ a0 a1, Laws.Encoding.Statement (.dbgr a0 a1) := fun _ _ => rfl
theorem Laws.Encoding.dbgw : ∀ a0 a1, Laws.Encoding.Statement (.dbgw a0 a1) := fun _ _ => rfl
theorem Laws.Encoding.ckinjWrite : ∀ a0 a1, Laws.Encoding.Statement (.ckinjWrite a0 a1) := fun _ _ => rfl
theorem Laws.Encoding.dbgctlWrite : ∀ a0 a1 a2, Laws.Encoding.Statement (.dbgctlWrite a0 a1 a2) := fun _ _ _ => rfl
theorem Laws.Encoding.getCert : ∀ a0, Laws.Encoding.Statement (.getCert a0) := fun _ => rfl
theorem Laws.Encoding.getAttest : ∀ a0, Laws.Encoding.Statement (.getAttest a0) := fun _ => rfl
theorem Laws.Encoding.setPart : ∀ a0, Laws.Encoding.Statement (.setPart a0) := fun _ => rfl
theorem Laws.Encoding.setCtx : ∀ a0, Laws.Encoding.Statement (.setCtx a0) := fun _ => rfl
theorem Laws.Encoding.setQueue : ∀ a0, Laws.Encoding.Statement (.setQueue a0) := fun _ => rfl
theorem Laws.Encoding.setRelth : ∀ a0, Laws.Encoding.Statement (.setRelth a0) := fun _ => rfl
theorem Laws.Encoding.setAccept : ∀ a0, Laws.Encoding.Statement (.setAccept a0) := fun _ => rfl
theorem Laws.Encoding.setAcctl : ∀ a0, Laws.Encoding.Statement (.setAcctl a0) := fun _ => rfl
theorem Laws.Encoding.bindJob : ∀ a0, Laws.Encoding.Statement (.bindJob a0) := fun _ => rfl
theorem Laws.Encoding.unbindJob : ∀ a0, Laws.Encoding.Statement (.unbindJob a0) := fun _ => rfl
theorem Laws.Encoding.report : ∀ a0, Laws.Encoding.Statement (.report a0) := fun _ => rfl
theorem Laws.Encoding.clearBerr : ∀ a0, Laws.Encoding.Statement (.clearBerr a0) := fun _ => rfl
theorem Laws.Encoding.clearFlag : ∀ a0, Laws.Encoding.Statement (.clearFlag a0) := fun _ => rfl
theorem Laws.Encoding.clearLink : ∀ a0, Laws.Encoding.Statement (.clearLink a0) := fun _ => rfl
theorem Laws.Encoding.debugAuth : ∀ a0, Laws.Encoding.Statement (.debugAuth a0) := fun _ => rfl
theorem Laws.Encoding.commitSvn : ∀ a0, Laws.Encoding.Statement (.commitSvn a0) := fun _ => rfl
theorem Laws.Encoding.loadImage : ∀ a0, Laws.Encoding.Statement (.loadImage a0) := fun _ => rfl
theorem Laws.Encoding.packageReset : Laws.Encoding.Statement (.packageReset) := rfl
theorem Laws.Encoding.powerArbiterInterval : ∀ a0, Laws.Encoding.Statement (.powerArbiterInterval a0) := fun _ => rfl
theorem Laws.Encoding.hardThrottle : ∀ a0, Laws.Encoding.Statement (.hardThrottle a0) := fun _ => rfl
theorem Laws.Encoding.thermalTrip : ∀ a0, Laws.Encoding.Statement (.thermalTrip a0) := fun _ => rfl
theorem Laws.Encoding.sensorSample : ∀ a0 a1, Laws.Encoding.Statement (.sensorSample a0 a1) := fun _ _ => rfl
theorem Laws.Encoding.cadenceTick : Laws.Encoding.Statement (.cadenceTick) := rfl
theorem Laws.Encoding.leaseWritebackDeadline : ∀ a0, Laws.Encoding.Statement (.leaseWritebackDeadline a0) := fun _ => rfl
theorem Laws.Encoding.leaseRecall : ∀ a0, Laws.Encoding.Statement (.leaseRecall a0) := fun _ => rfl
theorem Laws.Encoding.leaseExpiry : ∀ a0, Laws.Encoding.Statement (.leaseExpiry a0) := fun _ => rfl
theorem Laws.Encoding.collapseComplete : ∀ a0, Laws.Encoding.Statement (.collapseComplete a0) := fun _ => rfl
theorem Laws.Encoding.calibrationTrigger : ∀ a0 a1, Laws.Encoding.Statement (.calibrationTrigger a0 a1) := fun _ _ => rfl
theorem Laws.Encoding.calibrationComplete : ∀ a0 a1, Laws.Encoding.Statement (.calibrationComplete a0 a1) := fun _ _ => rfl
theorem Laws.Encoding.modeChangeComplete : ∀ a0, Laws.Encoding.Statement (.modeChangeComplete a0) := fun _ => rfl
theorem Laws.Encoding.tileWriteComplete : ∀ a0 a1, Laws.Encoding.Statement (.tileWriteComplete a0 a1) := fun _ _ => rfl
theorem Laws.Encoding.mmaVerdict : ∀ a0 a1, Laws.Encoding.Statement (.mmaVerdict a0 a1) := fun _ _ => rfl
theorem Laws.Encoding.retryVerdict : ∀ a0 a1, Laws.Encoding.Statement (.retryVerdict a0 a1) := fun _ _ => rfl
theorem Laws.Encoding.promotionProbeAnswer : ∀ a0 a1 a2, Laws.Encoding.Statement (.promotionProbeAnswer a0 a1 a2) := fun _ _ _ => rfl
theorem Laws.Encoding.broomProbeReturn : ∀ a0 a1 a2, Laws.Encoding.Statement (.broomProbeReturn a0 a1 a2) := fun _ _ _ => rfl
theorem Laws.Encoding.tokenCountdown : ∀ a0 a1 a2, Laws.Encoding.Statement (.tokenCountdown a0 a1 a2) := fun _ _ _ => rfl
theorem Laws.Encoding.shortMissResolved : ∀ a0, Laws.Encoding.Statement (.shortMissResolved a0) := fun _ => rfl
theorem Laws.Encoding.faultQueueResponse : ∀ a0 a1, Laws.Encoding.Statement (.faultQueueResponse a0 a1) := fun _ _ => rfl
theorem Laws.Encoding.workgroupSave : ∀ a0, Laws.Encoding.Statement (.workgroupSave a0) := fun _ => rfl
theorem Laws.Encoding.copySegmentLand : ∀ a0 a1 a2 a3, Laws.Encoding.Statement (.copySegmentLand a0 a1 a2 a3) := fun _ _ _ _ => rfl
theorem Laws.Encoding.fixupReplay : ∀ a0 a1, Laws.Encoding.Statement (.fixupReplay a0 a1) := fun _ _ => rfl
theorem Laws.Encoding.copyEnd : ∀ a0 a1, Laws.Encoding.Statement (.copyEnd a0 a1) := fun _ _ => rfl
theorem Laws.Encoding.nmuRefresh : ∀ a0, Laws.Encoding.Statement (.nmuRefresh a0) := fun _ => rfl
theorem Laws.Encoding.nmuCommandComplete : ∀ a0 a1 a2, Laws.Encoding.Statement (.nmuCommandComplete a0 a1 a2) := fun _ _ _ => rfl
theorem Laws.Encoding.qsendArrival : ∀ a0 a1 a2, Laws.Encoding.Statement (.qsendArrival a0 a1 a2) := fun _ _ _ => rfl
theorem Laws.Encoding.queueTake : ∀ a0, Laws.Encoding.Statement (.queueTake a0) := fun _ => rfl
theorem Laws.Encoding.dispatch : ∀ a0, Laws.Encoding.Statement (.dispatch a0) := fun _ => rfl
theorem Laws.Encoding.completionIncrement : ∀ a0, Laws.Encoding.Statement (.completionIncrement a0) := fun _ => rfl
theorem Laws.Encoding.waitReevaluation : ∀ a0, Laws.Encoding.Statement (.waitReevaluation a0) := fun _ => rfl
theorem Laws.Encoding.reservedMessage : ∀ a0 a1, Laws.Encoding.Statement (.reservedMessage a0 a1) := fun _ _ => rfl
theorem Laws.Encoding.goMessage : ∀ a0, Laws.Encoding.Statement (.goMessage a0) := fun _ => rfl
theorem Laws.Encoding.goAck : ∀ a0 a1, Laws.Encoding.Statement (.goAck a0 a1) := fun _ _ => rfl
theorem Laws.Encoding.goTimeout : ∀ a0, Laws.Encoding.Statement (.goTimeout a0) := fun _ => rfl
theorem Laws.Encoding.abortMessage : ∀ a0, Laws.Encoding.Statement (.abortMessage a0) := fun _ => rfl
theorem Laws.Encoding.sliceEnd : ∀ a0, Laws.Encoding.Statement (.sliceEnd a0) := fun _ => rfl
theorem Laws.Encoding.preemption : ∀ a0, Laws.Encoding.Statement (.preemption a0) := fun _ => rfl
theorem Laws.Encoding.restore : ∀ a0 a1, Laws.Encoding.Statement (.restore a0 a1) := fun _ _ => rfl
theorem Laws.Encoding.runGrant : ∀ a0 a1, Laws.Encoding.Statement (.runGrant a0 a1) := fun _ _ => rfl
theorem Laws.Encoding.sleepEnd : ∀ a0 a1, Laws.Encoding.Statement (.sleepEnd a0 a1) := fun _ _ => rfl
theorem Laws.Encoding.relocationHonour : ∀ a0, Laws.Encoding.Statement (.relocationHonour a0) := fun _ => rfl
theorem Laws.Encoding.relocationRemap : ∀ a0, Laws.Encoding.Statement (.relocationRemap a0) := fun _ => rfl
theorem Laws.Encoding.slotRequestAnswer : ∀ a0 a1 a2, Laws.Encoding.Statement (.slotRequestAnswer a0 a1 a2) := fun _ _ _ => rfl
theorem Laws.Encoding.slotRequestRetry : ∀ a0 a1 a2, Laws.Encoding.Statement (.slotRequestRetry a0 a1 a2) := fun _ _ _ => rfl
theorem Laws.Encoding.pannierArrival : ∀ a0, Laws.Encoding.Statement (.pannierArrival a0) := fun _ => rfl
theorem Laws.Encoding.travelDrainEnd : ∀ a0 a1, Laws.Encoding.Statement (.travelDrainEnd a0 a1) := fun _ _ => rfl
theorem Laws.Encoding.haltRaise : ∀ a0 a1, Laws.Encoding.Statement (.haltRaise a0 a1) := fun _ _ => rfl
theorem Laws.Encoding.skidEnd : ∀ a0, Laws.Encoding.Statement (.skidEnd a0) := fun _ => rfl
theorem Laws.Encoding.haltRecorded : ∀ a0, Laws.Encoding.Statement (.haltRecorded a0) := fun _ => rfl
theorem Laws.Encoding.tandemCommit : ∀ a0, Laws.Encoding.Statement (.tandemCommit a0) := fun _ => rfl
theorem Laws.Encoding.tandemTimeout : ∀ a0, Laws.Encoding.Statement (.tandemTimeout a0) := fun _ => rfl
theorem Laws.Encoding.rollback : ∀ a0, Laws.Encoding.Statement (.rollback a0) := fun _ => rfl
theorem Laws.Encoding.ueDetected : ∀ a0 a1, Laws.Encoding.Statement (.ueDetected a0 a1) := fun _ _ => rfl
theorem Laws.Encoding.accumulatorUe : ∀ a0 a1 a2 a3 a4, Laws.Encoding.Statement (.accumulatorUe a0 a1 a2 a3 a4) := fun _ _ _ _ _ => rfl
theorem Laws.Encoding.containmentLost : ∀ a0, Laws.Encoding.Statement (.containmentLost a0) := fun _ => rfl
theorem Laws.Encoding.patrolScrub : ∀ a0 a1, Laws.Encoding.Statement (.patrolScrub a0 a1) := fun _ _ => rfl
theorem Laws.Encoding.linkReplay : ∀ a0, Laws.Encoding.Statement (.linkReplay a0) := fun _ => rfl
theorem Laws.Encoding.linkRetrain : ∀ a0, Laws.Encoding.Statement (.linkRetrain a0) := fun _ => rfl
theorem Laws.Encoding.linkRateUp : ∀ a0, Laws.Encoding.Statement (.linkRateUp a0) := fun _ => rfl
theorem Laws.Encoding.controlPortRetry : Laws.Encoding.Statement (.controlPortRetry) := rfl
theorem Laws.Encoding.periodicReport : ∀ a0, Laws.Encoding.Statement (.periodicReport a0) := fun _ => rfl
theorem Laws.Encoding.debugRightsExpiry : ∀ a0, Laws.Encoding.Statement (.debugRightsExpiry a0) := fun _ => rfl
theorem Laws.Encoding.invalidateBroadcast : ∀ a0 a1, Laws.Encoding.Statement (.invalidateBroadcast a0 a1) := fun _ _ => rfl
theorem Laws.Encoding.sync : ∀ a0, Laws.Encoding.Statement (.sync a0) := fun _ => rfl
theorem Laws.Encoding.syncAck : ∀ a0, Laws.Encoding.Statement (.syncAck a0) := fun _ => rfl
theorem Laws.Encoding.flitAcknowledged : ∀ a0, Laws.Encoding.Statement (.flitAcknowledged a0) := fun _ => rfl
theorem Laws.Encoding.retrainingComplete : ∀ a0 a1, Laws.Encoding.Statement (.retrainingComplete a0 a1) := fun _ _ => rfl
theorem Laws.Encoding.leaseTermEnd : ∀ a0, Laws.Encoding.Statement (.leaseTermEnd a0) := fun _ => rfl
theorem Laws.Encoding.withdrawEntry : ∀ a0, Laws.Encoding.Statement (.withdrawEntry a0) := fun _ => rfl
theorem Laws.Encoding.unknownCode : ∀ a0, Laws.Encoding.Statement (.unknownCode a0) := fun _ => rfl

end Sys2Proof
end

