-- ==== Sys2Proof/Certificates/Slice0/Obligations.lean ====
section
/-! DEFINITION. The statements for the provers, from the numbered rules of spec/. -/

open Sys2Proof Sys2Proof.Machine

/-! Class 0 (spec/04_vector_arithmetic.md). -/

/-- R93: the exact value of each arithmetic instruction, then Fit. -/
def Obligations.IntegerArithmeticResults : Prop := ∀ (c : Ctl) (o : Alu),
  ExactResult c (.iadd c o) o (fun a b _ => a + b)
  ∧ ExactResult c (.isub c o) o (fun a b _ => a - b)
  ∧ ExactResult c (.imul c o) o (fun a b _ => a * b)
  ∧ ExactResult c (.imulHi c o) o (fun a b _ => a * b / 2 ^ 32)
  ∧ ExactResult c (.imad c o) o (fun a b k => a * b + k)
  ∧ AluResult c (.imadWide c o) o .w32 .w32 .w64z 2 (fun a b k =>
      let wide := if o.ty = .i32 then Ty.i64 else .n64
      regOf wide (fit wide o.sat (intOf o.ty a * intOf o.ty b + intOf wide k)))
  ∧ ExactResult c (.imin c o) o (fun a b _ => min a b)
  ∧ ExactResult c (.imax c o) o (fun a b _ => max a b)
  ∧ ExactResult c (.iabs c o) o (fun a _ _ => a.natAbs)
  ∧ ExactResult c (.ineg c o) o (fun a _ _ => -a)

/-- R94, R95: the logic, shift, rotate and field instructions on the w bits of their operands. -/
def Obligations.LogicShiftFieldResults : Prop := ∀ (c : Ctl) (o : Alu),
  TypedResult c (.and c o) o (fun a b _ => ((a &&& b).setWidth (tyWidth o.ty)).setWidth 64)
  ∧ TypedResult c (.or c o) o (fun a b _ => ((a ||| b).setWidth (tyWidth o.ty)).setWidth 64)
  ∧ TypedResult c (.xor c o) o (fun a b _ => ((a ^^^ b).setWidth (tyWidth o.ty)).setWidth 64)
  ∧ TypedResult c (.andn c o) o (fun a b _ => ((a &&& ~~~b).setWidth (tyWidth o.ty)).setWidth 64)
  ∧ TypedResult c (.orn c o) o (fun a b _ => ((a ||| ~~~b).setWidth (tyWidth o.ty)).setWidth 64)
  ∧ TypedResult c (.not c o) o (fun a _ _ => ((~~~a).setWidth (tyWidth o.ty)).setWidth 64)
  ∧ FieldResult c (.shl c o) o (fun _ a k _ => a <<< k)
  ∧ FieldResult c (.shr c o) o (fun _ a k _ => a >>> k)
  ∧ FieldResult c (.sar c o) o (fun _ a k _ => a.sshiftRight k)
  ∧ FieldResult c (.rol c o) o (fun _ a k _ => a.rotateLeft k)
  ∧ FieldResult c (.ror c o) o (fun _ a k _ => a.rotateRight k)
  ∧ FieldResult c (.bfx c o) o (fun w a k _ =>
      let pos := k % 256; let len := k / 256 % 256; let cut := min len (w - pos)
      if len = 0 ∨ w ≤ pos then 0
      else if o.ty = .i32 ∨ o.ty = .i64 then ((a >>> pos).setWidth cut).signExtend w else ((a >>> pos).setWidth cut).setWidth w)
  ∧ FieldResult c (.bfi c o) o (fun w a k base =>
      let pos := k % 256; let len := k / 256 % 256; let cut := min len (w - pos)
      if len = 0 ∨ w ≤ pos then base
      else (base &&& ~~~((BitVec.allOnes cut).setWidth w <<< pos)) ||| ((a.setWidth cut).setWidth w <<< pos))

/-- R96 to R101: counts, bit reversal, byte permutation, comparison, selection, moves, addresses and predicates. -/
def Obligations.CountMovePredicateResults : Prop := ∀ (c : Ctl) (o : Alu),
  AluResult c (.popc c o) o (RdAs.of o.ty) .w32 .w32 1 (fun a _ _ => BitVec.ofNat 64 ((List.range (tyWidth o.ty)).countP a.toNat.testBit))
  ∧ AluResult c (.clz c o) o (RdAs.of o.ty) .w32 .w32 1 (fun a _ _ =>
      BitVec.ofNat 64 ((List.range (tyWidth o.ty)).reverse.takeWhile (fun j => !a.toNat.testBit j)).length)
  ∧ AluResult c (.ctz c o) o (RdAs.of o.ty) .w32 .w32 1 (fun a _ _ =>
      BitVec.ofNat 64 ((List.range (tyWidth o.ty)).takeWhile (fun j => !a.toNat.testBit j)).length)
  ∧ FieldResult c (.brev c o) o (fun _ a _ _ => a.reverse)
  ∧ FieldResult c (.prmt c o) o (fun w a sel k => BitVec.ofNat w (prmt a.toNat k.toNat sel))
  ∧ (∀ r, AluResult c (.icmp c r o) o (RdAs.of o.ty) (RdAs.of o.ty) .w32 1 fun a b _ =>
      BitVec.ofNat 64 (b2n (relHolds r (intOf o.ty a) (intOf o.ty b))))
  ∧ AluResult c (.isel c o) o (RdAs.of o.ty) (RdAs.of o.ty) .w32 o.ty.words (fun a b k => if k ≠ 0 then a else b)
  ∧ TypedResult c (.mov c o) o (fun _ b _ => b)
  ∧ (∀ v, RegResult c (.movi c v o) 1 o.dst (if o.ty = .b64 then [o.dst.code + 1] else [o.dst.code]) fun _ _ _ => v)
  ∧ (∀ sh, AluResult c (.lea c sh o) o .w64z (RdAs.of o.ty) .w32 2 fun a b _ =>
      a + (if o.ty = .i32 then (b.setWidth 32).signExtend 64 else b) <<< sh)
  ∧ (∀ op, AluResult c (.plog c op o) o .w32 .w32 .w32 1 fun a b _ => BitVec.ofNat 64 (b2n (plog op (a != 0) (b != 0))))
  ∧ (∀ n A, o.a = .p A → RegResult c (.pmovPack c n o) 1 o.dst (o.dst.codes 1) fun e m _ =>
      BitVec.ofNat 32 (((List.range n).map fun j => (e.reg m (0xE0 + A + j) (2 * j)).toNat * 2 ^ j).sum))
  ∧ (∀ n, RegResult c (.pmovUnpack c n o) 1 o.dst (o.dst.codes n) fun e m j =>
      BitVec.ofNat 32 (b2n ((e.opnd [(.w32, o.a)] m 0).toNat.testBit j)))

/-! Class 1 (spec/04_vector_arithmetic.md, spec/03_number_formats.md). -/

/-- R103 to R107, R110 to R114: the instructions of fixed latency over number formats. -/
def Obligations.FloatAndConversionResults : Prop := ∀ (c : Ctl) (o : Alu),
  FloatResult c (.fadd c o) o (fun a b _ => fAdd .f32 o.rnd o.sat o.ftz a b)
  ∧ FloatResult c (.fsub c o) o (fun a b _ => fAdd .f32 o.rnd o.sat o.ftz a (fNeg .f32 b))
  ∧ FloatResult c (.fmul c o) o (fun a b _ => fMul .f32 o.rnd o.sat o.ftz a b)
  ∧ FloatResult c (.fma c o) o (fun a b k => fFma .f32 o.rnd o.sat o.ftz a b k)
  ∧ FloatResult c (.fmin c o) o (fun a b _ => fMinMax .f32 false (flush o.ftz .f32 a) (flush o.ftz .f32 b))
  ∧ FloatResult c (.fmax c o) o (fun a b _ => fMinMax .f32 true (flush o.ftz .f32 a) (flush o.ftz .f32 b))
  ∧ (∀ r, FloatResult c (.fcmp c r o) o fun a b _ => b2n (fRel r (flush o.ftz .f32 a) (flush o.ftz .f32 b)))
  ∧ FloatResult c (.frnd c o) o (fun a _ _ => fRnd o.rnd o.ftz a)
  ∧ FloatResult c (.fscale c o) o (fun a b _ => fScale o.rnd o.sat o.ftz a (signedOf 32 b))
  ∧ FloatResult c (.fclass c o) o (fun a _ _ => fClass o.ty (a % 2 ^ (fmtOf o.ty).width))
  ∧ (∀ ty, FloatResult c (.cvt c ty o) o fun a _ _ => fCvt ty o.ty o.rnd o.sat o.ftz (a % 2 ^ (fmtOf ty).width))
  ∧ (∀ ty, AluResult c (.cvti c ty o) o .w32 .w32 .w32 o.ty.words fun a _ _ =>
      regOf o.ty (fToInt ty o.ty o.rnd o.ftz (a.toNat % 2 ^ (fmtOf ty).width)))
  ∧ (∀ ty, AluResult c (.cvtf c ty o) o (RdAs.of ty) .w32 .w32 1 fun a _ _ => BitVec.ofNat 64 (intToF o.ty o.rnd o.sat (intOf ty a)))
  ∧ FloatResult c (.hadd2 c o) o (fun a b _ =>
      fAdd o.ty o.rnd o.sat o.ftz (a % 2 ^ 16) (b % 2 ^ 16) + 2 ^ 16 * fAdd o.ty o.rnd o.sat o.ftz (a / 2 ^ 16 % 2 ^ 16) (b / 2 ^ 16 % 2 ^ 16))
  ∧ FloatResult c (.hmul2 c o) o (fun a b _ =>
      fMul o.ty o.rnd o.sat o.ftz (a % 2 ^ 16) (b % 2 ^ 16) + 2 ^ 16 * fMul o.ty o.rnd o.sat o.ftz (a / 2 ^ 16 % 2 ^ 16) (b / 2 ^ 16 % 2 ^ 16))
  ∧ FloatResult c (.hfma2 c o) o (fun a b k =>
      fFma o.ty o.rnd o.sat o.ftz (a % 2 ^ 16) (b % 2 ^ 16) (k % 2 ^ 16)
        + 2 ^ 16 * fFma o.ty o.rnd o.sat o.ftz (a / 2 ^ 16 % 2 ^ 16) (b / 2 ^ 16 % 2 ^ 16) (k / 2 ^ 16 % 2 ^ 16))
  ∧ FloatResult c (.dot4 c o) o (fun a b k =>
      if o.ty = .i8 ∨ o.ty = .n8 then iDot4 o.ty o.sat a b k else fDot4 o.ty o.rnd o.sat a b k)

/-- R108, R115, R116: the instructions of class 1 that are counted on a token are posted with their results; MXUNPK where every tag is
one of R81's. -/
def Obligations.PostedArithmeticResults : Prop := ∀ (c : Ctl) (o : Alu),
  (∀ x : (Ctl → Alu → Instr) × Spec, x ∈ [(Instr.frcp, Spec.rcp), (.frsq, .rsq), (.fsqrt, .sqrt), (.fexp2, .exp2), (.flog2, .log2), (.fsin, .sin),
      (.fcos, .cos), (.ftanh, .tanh), (.fsigm, .sigm)] →
    PostResult c (x.1 c o) o.dst 1 fun e n =>
      BitVec.ofNat 64 (specFn x.2 o.rnd o.ftz (e.opnd [(.w32, o.a)] n 0).toNat))
  ∧ (∀ tag, PostResult c (.mxpack c tag o) o.dst 2 fun e n =>
      (((e.mxBlocks tag o (e.read e.act [(.w32, o.a)])).find? (·.1 == n)).map (·.2)).getD 0)
  ∧ (∀ s e, (Instr.mxunpk c o).wf = true → s.goes c (.mxunpk c o) 1 = some e → e.canPost c = true →
      (∀ n ∈ e.act, (mxUnpack o.rnd o.sat (e.opnd [(.w32, o.a), (.w32, o.b)] n 0).toNat (e.opnd [(.w32, o.a), (.w32, o.b)] n 1).toNat).isSome = true) →
      ∃ t p, exec (.mxunpk c o) s = .next t ∧ e.Posts s t c (.mxunpk c o) p ∧ e.PostFrame s t
        ∧ p.writes = dstWrites o.dst 1 (e.act.map fun n => (n, BitVec.ofNat 64
            ((mxUnpack o.rnd o.sat (e.opnd [(.w32, o.a), (.w32, o.b)] n 0).toNat (e.opnd [(.w32, o.a), (.w32, o.b)] n 1).toNat).getD 0))))

/-! Class 2 (spec/12_control_instructions.md, spec/11_execution_model.md, spec/10_async_engines.md). -/

/-- R311 to R314, R244: what spends issues. NOP, DLY and PREF change nothing; YIELD marks the group; SLEEP holds the slot where nothing
ends it at once. -/
def Obligations.SpendingIssues : Prop := ∀ (c : Ctl) (s : State) (e : Iss),
  ((Instr.nop c).wf = true → s.goes c (.nop c) 1 = some e → ∃ t, exec (.nop c) s = .next t ∧ e.Quiet s t ∧ e.Falls s t e.head)
  ∧ (∀ n, (Instr.dly c n).wf = true → s.goes c (.dly c n) n = some e → ∃ t, exec (.dly c n) s = .next t ∧ e.Quiet s t ∧ e.Falls s t e.head)
  ∧ (∀ l1 o, (Instr.pref c l1 o).wf = true → s.goes c (.pref c l1 o) 1 = some e →
      ∃ t, exec (.pref c l1 o) s = .next t ∧ e.Quiet s t ∧ e.Falls s t e.head)
  ∧ ((Instr.yield c).wf = true → s.goes c (.yield c) 1 = some e → e.act ≠ [] →
      ∃ t, exec (.yield c) s = .next t ∧ e.SameRegs s t ∧ e.Local s t ∧ e.Falls s t e.head
        ∧ (t.group e.p e.gi).shell = { (s.group e.p e.gi).shell with yielded := some ((s.core e.p).quadOf e.gi) })
  ∧ (∀ n, (Instr.sleep c n).wf = true → s.goes c (.sleep c n) 1 = some e → e.act ≠ [] →
      ∃ t, exec (.sleep c n) s = .next t ∧ e.Quiet s t ∧ e.Falls s t e.head
        ∧ let q := (s.core e.p).quadOf e.gi
          ((t.core e.p).quad q).sleep = if n ≠ 0 ∧ e.s.maySleep e.p q e.gi = true then some (s.ticks + n, e.gi) else ((s.core e.p).quad q).sleep)

/-- R297, R312: TWAIT goes on where its threshold is met, and otherwise parks its group and ends the run. -/
def Obligations.TokenWaits : Prop := ∀ (c : Ctl) (n k : Nat) (s : State) (e : Iss),
  (Instr.twait c n k).wf = true → s.goes c (.twait c n k) 1 = some e → e.act ≠ [] →
  (mget 0 (s.group e.p e.gi).tok n ≤ k →
    ∃ t, exec (.twait c n k) s = .next t ∧ e.Quiet s t ∧ e.Falls s t e.head ∧ (c.d = false → (t.group e.p e.gi).park = none))
  ∧ (k < mget 0 (s.group e.p e.gi).tok n → (e.s.core e.p).stuck e.gi n k = none →
    ∃ t, exec (.twait c n k) s = .next t ∧ e.Quiet s t ∧ (t.group e.p e.gi).park = some (.twait n k e.pc e.head)
      ∧ (t.group e.p e.gi).run = none ∧ (t.group e.p e.gi).thenDrain = (c.d || (s.group e.p e.gi).thenDrain))

/-- R308, R309: where the targets pass their checks, BRA, BRX and CALL move each active thread to its target and the others to NextPC;
CALL pushes the return address, RET pops one. -/
def Obligations.TransfersOfControl : Prop := ∀ (c : Ctl) (s u : State) (e : Iss),
  let moved (t : State) (target : Nat → DWord) (push : Bool) : Prop :=
    (∀ n ∈ e.act, ((t.group e.p e.gi).thread? n).map (fun x => (x.pc, x.rstack))
      = ((s.group e.p e.gi).thread? n).map fun x => (target n, if push then nextPC e.pc :: x.rstack else x.rstack))
    ∧ e.Falls s t (e.head.filter fun n => !e.act.contains n) ∧ e.SameRegs s t ∧ e.Local u t
  let pair (a : Src) (n : Nat) : DWord := e.opnd [(.w64z, a)] n 0
  let calls : Prop := ((s.ctx e.ctx).checked = true → ∀ n, 0 < n → n < 8 → mget 0 (s.group e.p e.gi).tok n = 0)
    ∧ ∀ n ∈ e.act, (e.thread n).rstack.length < 8
  (∀ d, (Instr.bra c d).wf = true → s.goes c (.bra c d) 1 = some e → e.targets (e.act.map fun n => (n, e.pc + d.signExtend 64)) = .ok u →
    ∃ t, exec (.bra c d) s = .next t ∧ moved t (fun _ => e.pc + d.signExtend 64) false)
  ∧ (∀ a, (Instr.brx c a).wf = true → s.goes c (.brx c a) 1 = some e → e.targets (e.act.map fun n => (n, pair a n)) = .ok u →
    ∃ t, exec (.brx c a) s = .next t ∧ moved t (pair a) false)
  ∧ (∀ d, (Instr.call c d).wf = true → s.goes c (.call c d) 1 = some e → e.targets (e.act.map fun n => (n, e.pc + d.signExtend 64)) = .ok u → calls →
    ∃ t, exec (.call c d) s = .next t ∧ moved t (fun _ => e.pc + d.signExtend 64) true)
  ∧ (∀ a, (Instr.callReg c a).wf = true → s.goes c (.callReg c a) 1 = some e → e.targets (e.act.map fun n => (n, pair a n)) = .ok u → calls →
    ∃ t, exec (.callReg c a) s = .next t ∧ moved t (pair a) true)
  ∧ ((Instr.ret c).wf = true → s.goes c (.ret c) 1 = some e → (∀ n ∈ e.act, (e.thread n).rstack ≠ []) →
    ∃ t, exec (.ret c) s = .next t ∧ e.SameRegs s t ∧ e.Local s t ∧ e.Falls s t (e.head.filter fun n => !e.act.contains n)
      ∧ ∀ n ∈ e.act, ((t.group e.p e.gi).thread? n).map (fun x => (x.pc, x.rstack))
        = ((s.group e.p e.gi).thread? n).map fun x => (x.rstack.headD 0, x.rstack.drop 1))

/-- R308 checks 1 to 3: targets that are slot addresses of translated, readable lines whose line words are good and mark the slot pass,
and their check changes nothing; a target that is no slot address traps MISALIGNED and names the lowest failing lane, and one whose slot is not
marked traps BAD_TARGET. -/
def Obligations.TransferTargetChecks : Prop := ∀ (e : Iss) (ts : List (Nat × DWord)),
  let slotAddress (a : DWord) : Prop := a.toNat < 2 ^ 57 ∧ pcAligned a = true
  let line (n : Nat) (a : DWord) (lw : Nat) : Prop := ∃ x : TlbEntry,
    (e.s.core e.p).tlbFind (e.s.ctx (e.s.ctxAt e.p e.gi n)).desc.asid (a.toNat / 64 * 64) = some x
      ∧ e.s.leafRefuse x.leaf x.size .fetch = none ∧ e.s.leaseWaits (leafKey x.leaf x.size (a.toNat / 64 * 64)) 64 false = false
      ∧ e.s.reaches (pdie e.p) (leafKey x.leaf x.size (a.toNat / 64 * 64)) = true ∧ e.s.poisonAt (leafKey x.leaf x.size (a.toNat / 64 * 64)) 64 = none
      ∧ lw = e.s.read (leafKey x.leaf x.size (a.toNat / 64 * 64) + 60) 4 ∧ lineBad lw = false
  ((∀ x ∈ ts, slotAddress x.2 ∧ ∃ lw, line x.1 x.2 lw ∧ lineTgt lw (slotOf x.2) = true) → e.targets ts = .ok e.s)
  ∧ (∀ n a, ts.find? (fun x => decide (2 ^ 57 ≤ x.2.toNat) || !pcAligned x.2) = some (n, a) →
      e.targets ts = .error (.trap { cause := 0x03, lane := some (e.thread n).lane, addr := a.toNat }))
  ∧ ((∀ x ∈ ts, slotAddress x.2 ∧ ∃ lw, line x.1 x.2 lw) → ∀ x ∈ ts, ∀ lw, line x.1 x.2 lw → lineTgt lw (slotOf x.2) = false →
      ∃ y : Trap, e.targets ts = .error (.trap y) ∧ y.cause = 0x05)

/-- R283, R294 to R296, R310, R356: JOIN, with and without an away member, LEAVE and MWAIT, and the trap of a wait that can never end; EXIT of
some threads of a group, which leave every mask and may complete an MWAIT, of its last ones, which may retire the workgroup, and of a guest;
and where an EXIT waits, for room in the arrays or for its origin. That joiners enter before a wait is tested is the model's choice (log entry
114). -/
def Obligations.MasksAndExit : Prop := ∀ (c : Ctl) (m : Nat) (s : State) (e : Iss), m < 12 →
  let g := s.group e.p e.gi
  let mask (t : State) : Mask := mget {} (t.group e.p e.gi).masks m
  let state (t : State) (n : Nat) : Option TState := ((t.group e.p e.gi).thread? n).map (·.st)
  ((Instr.join c m).wf = true → s.goes c (.join c m) 1 = some e → g.awayIn m ≠ [] →
    ∃ t, exec (.join c m) s = .next t ∧ e.SameRegs s t ∧ e.Local s t ∧ mask t = mask s
      ∧ ∀ n ∈ e.act, state t n = if (mask s).members.toNat.testBit n = true then state s n else some (.jwaiting m))
  ∧ ((Instr.join c m).wf = true → s.goes c (.join c m) 1 = some e → g.awayIn m = [] → g.deadlocked = false →
    ∃ t, exec (.join c m) s = .next t ∧ e.SameRegs s t ∧ e.Local s t ∧ e.Falls s t e.head ∧ (mask t).arrived = (mask s).arrived
      ∧ ∀ l < 64, (mask t).members.getLsbD l = ((mask s).members.getLsbD l || e.act.contains l))
  ∧ ((Instr.leave c m).wf = true → s.goes c (.leave c m) 1 = some e → (∀ u ∈ g.threads, u.st ≠ .jwaiting m) →
    ∃ t, exec (.leave c m) s = .next t ∧ e.SameRegs s t ∧ e.Local s t
      ∧ ∀ l < 64, (mask t).members.getLsbD l = ((mask s).members.getLsbD l && !e.act.contains l))
  ∧ ((Instr.mwait c m).wf = true → s.goes c (.mwait c m) 1 = some e → (∀ n ∈ e.act, (mask s).members.toNat.testBit n = false) →
    ∃ t, exec (.mwait c m) s = .next t ∧ e.Quiet s t ∧ e.Falls s t e.head)
  ∧ ((Instr.mwait c m).wf = true → s.goes c (.mwait c m) 1 = some e → e.act ≠ [] → (∀ n ∈ e.act, n < 64 ∧ (mask s).members.toNat.testBit n = true) →
    g.awayIn m = [] → (∀ u ∈ g.threads, u.st ≠ .jwaiting m) →
    (∃ l < 64, (mask s).members.getLsbD l = true ∧ (mask s).arrived.getLsbD l = false ∧ l ∉ e.act) →
    (∃ u ∈ g.threads, u.slot ∉ e.act ∧ u.st = .ready) →
    ∃ t, exec (.mwait c m) s = .next t ∧ e.SameRegs s t ∧ e.Local s t ∧ (∀ n ∈ e.act, state t n = some (.mwaiting m))
      ∧ ∀ l < 64, (mask t).arrived.getLsbD l = ((mask s).arrived.getLsbD l || e.act.contains l))
  ∧ ((Instr.mwait c m).wf = true → s.goes c (.mwait c m) 1 = some e → e.act ≠ [] → (∀ n ∈ e.act, n < 64 ∧ (mask s).members.toNat.testBit n = true) →
    g.awayIn m = [] → (∀ u ∈ g.threads, u.st ≠ .jwaiting m) →
    (∀ l < 64, (mask s).members.getLsbD l = true → (mask s).arrived.getLsbD l = true ∨ l ∈ e.act) →
    ∃ t, exec (.mwait c m) s = .next t ∧ e.SameRegs s t ∧ e.Local s t ∧ (mask t).arrived = 0 ∧ (∀ n ∈ e.act, state t n = some .ready)
      ∧ ∀ n, state s n = some (.mwaiting m) → state t n = some .ready)
  ∧ ((Instr.mwait c m).wf = true → s.goes c (.mwait c m) 1 = some e → e.act ≠ [] → (∀ n ∈ e.act, n < 64 ∧ (mask s).members.toNat.testBit n = true) →
    g.awayIn m = [] → (∀ u ∈ g.threads, u.st ≠ .jwaiting m) →
    (∃ l < 64, (mask s).members.getLsbD l = true ∧ (mask s).arrived.getLsbD l = false ∧ l ∉ e.act) →
    (∀ u ∈ g.threads, u.slot ∈ e.act ∨ u.st = .exited ∨ ∃ k, u.st = .mwaiting k ∨ u.st = .jwaiting k) →
    Traps s e (.mwait c m) { cause := 0x18, info := m })
  ∧ ((Instr.exit c).wf = true → s.goes c (.exit c) 1 = some e →
    (e.guest = false → ∀ q qs, e.s.exitWaits e.p e.gi e.act = q :: qs → Holds s e (.exit c) (.array (q :: qs) true))
    ∧ (e.guest = true → e.s.guestExitWaits e.p e.act = true → Holds s e (.exit c) .origin)
    ∧ (e.guest = false → e.s.exitWaits e.p e.gi e.act = [] → (∃ u ∈ g.threads, u.slot ∉ e.act ∧ u.st ≠ .exited) →
      ∃ t, exec (.exit c) s = .next t ∧ (∀ n ∈ e.act, state t n = some .exited) ∧ e.SameRegs s t ∧ SameBytes s t ∧ (∀ q, q ≠ e.p → t.core q = s.core q)
        ∧ (∀ gi, gi ≠ e.gi → ∀ slot code, (t.group e.p gi).reg slot code = (s.group e.p gi).reg slot code)
        ∧ (∀ l < 64, (mask t).members.getLsbD l = (((mask s).members.getLsbD l && !e.act.contains l)
          || (g.awayIn m == [] && (g.threads.any fun u => u.slot == l && u.st == .jwaiting m))))
        ∧ ((∃ l < 64, (mask s).members.getLsbD l = true ∧ l ∉ e.act) → g.awayIn m = [] → (∀ u ∈ g.threads, u.st ≠ .jwaiting m) →
          (∀ l < 64, (mask s).members.getLsbD l = true → (mask s).arrived.getLsbD l = true ∨ l ∈ e.act) →
          (mask t).arrived = 0 ∧ ∀ n, state s n = some (.mwaiting m) → state t n = some .ready))
    ∧ (∀ w, e.guest = false → e.act ≠ [] → e.s.exitWaits e.p e.gi e.act = [] → (∀ u ∈ g.threads, u.slot ∈ e.act ∨ u.st = .exited) → e.gi < 64 →
      (s.core e.p).wg = some w → w.tandem = none →
      ∃ t, exec (.exit c) s = .next t
        ∧ ((∃ k h, k ≠ e.gi ∧ w.groups[k]? = some h ∧ h.ended = false) → (∀ n ∈ e.act, state t n = some .exited) ∧ (t.core e.p).wg.map (·.wg) = some w.wg)
        ∧ ((∀ k h, k ≠ e.gi → w.groups[k]? = some h → h.ended = true) → (t.core e.p).wg = none ∧ (t.core e.p).dir = []))
    ∧ (∀ n x o, e.guest = true → e.act = [n] → e.s.guestExitWaits e.p [n] = false → (g.thread? n).bind (·.origin) = some o → o.group < 64 →
      ((s.group (s.phys o.core) o.group).thread? o.lane) = some x → (∃ u ∈ (s.group (s.phys o.core) o.group).threads, u.slot ≠ o.lane ∧ u.st ≠ .exited) →
      ∃ t, exec (.exit c) s = .next t ∧ state t n = none ∧ SameBytes s t
        ∧ ((t.group (s.phys o.core) o.group).thread? o.lane).map (·.st) = some .exited))

/-- R316 to R320: values between the lanes of an issue. -/
def Obligations.LaneValueResults : Prop := ∀ (c : Ctl) (d : Dst),
  (∀ m, RegResult c (.maskRd c d m) 1 d (d.codes 2) fun e _ k => wordOf (mget {} e.g.masks m).members k)
  ∧ (∀ m, RegResult c (.maskTst c d m) 1 d (d.codes 1) fun e n _ =>
      BitVec.ofNat 32 (b2n ((mget {} e.g.masks m).members.toNat.testBit (e.thread n).lane)))
  ∧ (∀ a, RegResult c (.ballot c d a) 1 d (d.codes 2) fun e n k =>
      wordOf (maskOf (((e.peers n).filter fun j => e.opnd [(.w32, a)] j 0 != 0).map fun j => (e.thread j).lane)) k)
  ∧ (∀ kind a, RegResult c (.vote c kind d a) 1 d (d.codes 1) fun e n _ =>
      let vs := (e.peers n).map fun j => e.opnd [(.w32, a)] j 0
      BitVec.ofNat 32 (match kind with
        | .all => b2n (vs.all (· != 0))
        | .any => b2n (vs.any (· != 0))
        | .same => b2n (vs.all (· == vs.headD 0))
        | .cnt => vs.countP (· != 0)))
  ∧ (∀ kind seg a b, RegResult c (.shfl c kind seg d a b) 1 d (d.codes 1) fun e n _ =>
      let os := [(RdAs.w32, a), (.w32, b)]
      let from_ := shflLane kind (64 / 2 ^ seg) (e.thread n).lane (e.opnd os n 1).toNat
      match (e.peers n).find? fun j => (e.thread j).lane == from_ with
      | some j => wordOf (e.opnd os j 0) 0
      | none => wordOf (e.opnd os n 0) 0)

/-! Barriers and queues (spec/10_async_engines.md R253 to R261, spec/12_control_instructions.md R321 to R329). -/

/-- R257, R260: BINIT enters a fresh barrier and writes its mirror, or traps; BINVAL removes one and marks its mirror. -/
def Obligations.BarrierInitAndInvalidate : Prop := ∀ (c : Ctl) (o : BarOps) (s : State) (e : Iss) (h : Home) (p a : Nat),
  e.poolAddr o.cm o.base o.off = .ok (h, p, a) → e.act ≠ [] →
  let n := e.low32 o.b
  let dir := (s.core p).dir
  let inits : Prop := (Instr.binit c o).wf = true ∧ s.goes c (.binit c o) 1 = some e
  let after (t : State) (word : Nat) : Prop :=
    t.read (windowKey p a) 16 = word ∧ BytesBut s t (windowKey p a) 16 ∧ e.SameRegs s t ∧ e.Falls s t e.head
  (inits → 0 < n → n ≤ 65535 →
    (match mfind dir a with
      | some _ => e.s.anyWaiter h a = false ∧ e.s.countedOn h a = false
      | none => dir.length < 32) →
    ∃ t, exec (.binit c o) s = .next t ∧ mfind (t.core p).dir a = some { left := n, expect := n }
      ∧ after t (2 ^ 127 + n * 2 ^ 80 + n * 2 ^ 64))
  ∧ (inits → (n = 0 ∨ 65535 < n) → Traps s e (.binit c o) { cause := 0x14, info := a })
  ∧ (inits → 0 < n → n ≤ 65535 → mfind dir a = none → 32 ≤ dir.length → Traps s e (.binit c o) { cause := 0x15, info := a })
  ∧ (inits → 0 < n → n ≤ 65535 → (∃ b, mfind dir a = some b) → (e.s.anyWaiter h a = true ∨ e.s.countedOn h a = true) →
    Traps s e (.binit c o) { cause := 0x13, info := a })
  ∧ ((Instr.binval c o).wf = true → s.goes c (.binval c o) 1 = some e → mfind dir a = none →
    ∃ t, exec (.binval c o) s = .next t ∧ e.Quiet s t ∧ e.Falls s t e.head)
  ∧ (∀ b, (Instr.binval c o).wf = true → s.goes c (.binval c o) 1 = some e → mfind dir a = some b →
    ∃ t, exec (.binval c o) s = .next t ∧ mfind (t.core p).dir a = none
      ∧ after t (Barrier.word { b with valid := false, inv := true }))

/-- R258, R255: BARRIVE traps where the barrier is not valid or too few arrivals or bytes are left; where nothing earlier must be performed
first it is applied at once, as one change with the rule of R255; otherwise it is entered, to be applied later. -/
def Obligations.BarrierArrivals : Prop := ∀ (c : Ctl) (o : BarOps) (s : State) (e : Iss) (h : Home) (p a : Nat),
  e.poolAddr o.cm o.base o.off = .ok (h, p, a) → e.act ≠ [] →
  let count := e.act.length
  let arrives (i : Instr) (n : Nat) : Prop := i.wf = true → s.goes c i 1 = some e →
    let op : Op := { i, args := [h.lc, a, count, n], mate := some (h.launch, h.wg), act := e.act, id := (e.s.group e.p e.gi).nextOp }
    (mfind (s.core p).dir a = none → Traps s e i { cause := 0x16, info := a })
    ∧ ∀ b, mfind (s.core p).dir a = some b →
      let passed := e.s.passedAt h a
      let b' : Barrier := { b.from_ (e.p != p) with pend := b.pend + n, left := b.left - count }
      let b'' := if b.valid = true ∧ b.ovf = false ∧ b'.left = 0 ∧ b'.pend = 0
        then { b' with phase := (b.phase + 1) % 2 ^ 16, left := b.expect, wide := b'.wide.filter (· != (b.phase + 1) % 2 ^ 16) } else b'
      ((b.left < passed.1 + count ∨ 2 ^ 55 - 1 < b.pend + passed.2 + n) → Traps s e i { cause := 0x14, info := a })
      ∧ (passed.1 + count ≤ b.left → b.pend + passed.2 + n ≤ 2 ^ 55 - 1 →
        (e.s.waitsAny e.p e.gi op = false →
          ∃ t, exec i s = .next t ∧ mfind (t.core p).dir a = some b'' ∧ t.read (windowKey p a) 16 = b''.word
            ∧ BytesBut s t (windowKey p a) 16 ∧ e.SameRegs s t ∧ e.Falls s t e.head)
        ∧ (e.s.waitsAny e.p e.gi op = true →
          ∃ t x, exec i s = .next t ∧ e.Enters s t i x ∧ x.tok = none ∧ x.args = [h.lc, a, count, n] ∧ x.mate = some (h.launch, h.wg) ∧ e.SameRegs s t ∧ e.Local s t
            ∧ e.Falls s t e.head))
  arrives (.barrive c o) 0
  ∧ arrives (.barriveTx c o) ((e.act.map fun n => (e.opnd [(.w32, o.base), (.w32, o.b)] n 1).toNat).sum)

/-- R254, R255, R259: the barrier word's fields; BWAIT on no barrier or on another phase goes on, and otherwise parks the group and ends the
run; a change of a barrier that leaves its phase ends every wait on the old one. -/
def Obligations.BarrierWaits : Prop :=
  (∀ b : Barrier, -2 ^ 55 ≤ b.pend → b.pend < 2 ^ 55 → b.expect < 2 ^ 16 → b.left < 2 ^ 16 → b.phase < 2 ^ 16 →
    signedOf 56 b.word = b.pend ∧ bits b.word 63 56 = 0 ∧ bits b.word 79 64 = b.expect ∧ bits b.word 95 80 = b.left
      ∧ bits b.word 111 96 = b.phase ∧ bits b.word 123 112 = 0 ∧ bit b.word 124 = b.ovf ∧ bit b.word 125 = b.err
      ∧ bit b.word 126 = b.inv ∧ bit b.word 127 = b.valid)
  ∧ (∀ (c : Ctl) (o : BarOps) (s : State) (e : Iss) (h : Home) (p a : Nat), e.poolAddr o.cm o.base o.off = .ok (h, p, a) → e.act ≠ [] →
    (Instr.bwait c o).wf = true → s.goes c (.bwait c o) 1 = some e →
    let ph := e.low32 o.b % 2 ^ 16
    (mfind (s.core p).dir a = none → ∃ t, exec (.bwait c o) s = .next t ∧ e.Quiet s t ∧ e.Falls s t e.head)
    ∧ (∀ b, mfind (s.core p).dir a = some b → b.phase ≠ ph →
      ∃ t, exec (.bwait c o) s = .next t ∧ e.SameRegs s t ∧ SameBytes s t ∧ e.Falls s t e.head
        ∧ (o.cm = true → ∀ l ∈ (t.core e.p).l1, l ∈ (s.core e.p).l1
          ∧ ∃ x ∈ s.seals, x.die = pdie e.p ∧ x.ctx = l.ctx ∧ rangesMeet x.start x.len l.va 128 = true))
    ∧ (∀ b, mfind (s.core p).dir a = some b → b.phase = ph →
      ∃ t, exec (.bwait c o) s = .next t ∧ e.Quiet s t ∧ (t.group e.p e.gi).park = some (.bwait h a ph o.cm)
        ∧ (t.group e.p e.gi).run = none))
  ∧ (∀ (s : State) (p off : Nat) (b : Barrier) (q gi ph : Nat) (cm : Bool) (x : Workgroup), (s.core p).wg = some x →
    (∃ w, (s.core q).wg = some w ∧ gi < w.groups.length) → (s.group q gi).park = some (.bwait x.home off ph cm) →
    ph ≠ (if b.valid = true ∧ b.ovf = false ∧ b.left = 0 ∧ b.pend = 0 then (b.phase + 1) % 2 ^ 16 else b.phase) →
    ((s.putBarrier p off b).group q gi).park ≠ some (.bwait x.home off ph cm))

/-- R322, R323: BAR and CBAR park the group; its arrival is entered where something earlier must be performed first; the arrival of the
last group that has not ended lets all of them go on and leaves the barrier empty. -/
def Obligations.GroupBarriers : Prop := ∀ (c : Ctl) (n : Nat) (s : State) (e : Iss) (w : Workgroup),
  (s.core e.p).wg = some w → e.gi < w.groups.length → w.groups.length ≤ 64 → e.act ≠ [] →
  let blocked (i : Instr) : Bool :=
    e.s.waitsAny e.p e.gi { i, args := [n], act := e.act, id := (e.s.group e.p e.gi).nextOp }
  let waits (i : Instr) (k : Park) : Prop := i.wf = true → s.goes c i 1 = some e → blocked i = true →
    ∃ t x, exec i s = .next t ∧ e.Enters s t i x ∧ x.tok = none ∧ (t.group e.p e.gi).park = some k ∧ (t.group e.p e.gi).run = none
      ∧ e.SameRegs s t ∧ e.Local s t
  let there (x : Workgroup) (m : List (Nat × List Nat)) (j : Nat) : Prop := j ∈ mget [] m n ∨ (x.groups.getD j {}).ended = true
  let all (q : Nat) : Prop := ∀ x, (s.core q).wg = some x → ∀ j < x.groups.length, (q = e.p ∧ j = e.gi) ∨ there x x.cbars j
  waits (.bar c n) (.bar n) ∧ waits (.cbar c n) (.cbar n)
  ∧ ((Instr.bar c n).wf = true → s.goes c (.bar c n) 1 = some e → blocked (.bar c n) = false →
    ((∃ j < w.groups.length, j ≠ e.gi ∧ ¬there w w.bars j) →
      ∃ t x, exec (.bar c n) s = .next t ∧ (t.core e.p).wg = some x ∧ e.gi ∈ mget [] x.bars n ∧ (t.group e.p e.gi).park = some (.bar n)
        ∧ (t.group e.p e.gi).run = none ∧ e.SameRegs s t ∧ SameBytes s t)
    ∧ ((∀ j < w.groups.length, j = e.gi ∨ there w w.bars j) →
      ∃ t x, exec (.bar c n) s = .next t ∧ (t.core e.p).wg = some x ∧ mget [] x.bars n = []
        ∧ (∀ j < w.groups.length, (t.group e.p j).park ≠ some (.bar n)) ∧ e.SameRegs s t ∧ SameBytes s t ∧ e.Falls s t e.head))
  ∧ ((Instr.cbar c n).wf = true → s.goes c (.cbar c n) 1 = some e → blocked (.cbar c n) = false → e.p ∈ s.gangCores w →
    (((∃ q ∈ s.gangCores w, ¬all q) ∨ ∃ x ∈ s.gangSaved w, ∃ j < x.groups.length, ¬there x x.cbars j) →
      ∃ t x, exec (.cbar c n) s = .next t ∧ (t.core e.p).wg = some x ∧ e.gi ∈ mget [] x.cbars n ∧ (t.group e.p e.gi).park = some (.cbar n)
        ∧ (t.group e.p e.gi).run = none ∧ e.SameRegs s t ∧ SameBytes s t)
    ∧ ((∀ q ∈ s.gangCores w, all q) → (∀ x ∈ s.gangSaved w, ∀ j < x.groups.length, there x x.cbars j) →
      ∃ t, exec (.cbar c n) s = .next t ∧ e.SameRegs s t ∧ SameBytes s t ∧ e.Falls s t e.head
        ∧ ∀ q ∈ s.gangCores w, ∀ x, (t.core q).wg = some x → mget [] x.cbars n = [] ∧ ∀ j < x.groups.length, j < 64 →
          (t.group q j).park ≠ some (.cbar n)))

/-- R324 to R326, R328: QSEND and LAUNCH are posted with their operands; an arriving send with room writes its messages and TAIL; QRECV takes
its entries where the queue holds them and nobody waits before, and otherwise parks. -/
def Obligations.QueueTransfers : Prop :=
  (∀ (c : Ctl) (o : BarOps) (s : State) (e : Iss) (w : Workgroup) (here : Bool) (a : Nat), e.poolName o.cm o.base o.off = .ok (w, here, a) →
    (Instr.qsend c o).wf = true → s.goes c (.qsend c o) 1 = some e → e.canPost c = true →
    ∃ t x, exec (.qsend c o) s = .next t ∧ e.Posts s t c (.qsend c o) x ∧ e.PostFrame s t
      ∧ x.mate = some (w.launch, w.wg)
      ∧ x.args = [w.lcore, a, 0] ++ e.act.map fun n => (e.opnd [(.w32, o.base), (.w64z, o.b)] n 1).toNat)
  ∧ (∀ (c : Ctl) (d : Dst) (rec_ queue : Src) (s : State) (e : Iss), (Instr.launch c d rec_ queue).wf = true →
    s.goes c (.launch c d rec_ queue) 1 = some e → e.canPost c = true →
    let v := e.opnd [(.w64z, rec_), (.w32, queue)] e.lowest
    ∃ t x, exec (.launch c d rec_ queue) s = .next t ∧ e.Posts s t c (.launch c d rec_ queue) x ∧ e.PostFrame s t
      ∧ x.args = [(v 0).toNat, (v 1).toNat % 64])
  ∧ (∀ (p gi id : Nat) (s : State) (o : Op) (c : Ctl) (b : BarOps) (lc off k : Nat) (msgs : List Nat),
    (s.group p gi).op? id = some o → o.i = .qsend c b → o.args = [lc, off, k] ++ msgs →
    (o.stage = 1 ∨ (o.stage = 0 ∧ s.waitsAny p gi o = false)) →
    let h := s.phys lc
    let q := s.qhead h off
    (∃ w, (s.core h).wg = some w ∧ ∀ m, o.mate = some m → isMate lc m w = true) → s.qbad h off q = false → q.held + msgs.length ≤ q.cap →
    (s.core h).sendLocked o.ctx lc off q.tail msgs.length q = false →
    (∀ x ∈ s.everyOp, (∃ c' b', x.i = .qsend c' b') → x.stage = 1 → x.args.take 2 = [lc, off] →
      o.stage = 1 ∧ k ≤ x.args.getD 2 0) →
    ∃ t, exec (.qsendArrival p gi id) s = .next t ∧ (t.group p gi).op? id = none
      ∧ (∀ j (hj : j < msgs.length), t.read (windowKey h (q.ring + 8 * ((q.tail + j) % q.cap))) 8 = msgs[j] % 2 ^ 64)
      ∧ t.read (windowKey h (off + 4)) 4 = (q.tail + msgs.length) % 2 ^ 32
      ∧ ∀ a, ¬(windowKey h (off + 4) ≤ a ∧ a < windowKey h (off + 8)) →
        ¬(windowKey h q.ring ≤ a ∧ a < windowKey h (q.ring + 8 * q.cap)) → memGet t.mem a = memGet s.mem a)
  ∧ (∀ (c : Ctl) (d : Dst) (base : Src) (off : Word) (s : State) (e : Iss) (h : Home) (p a : Nat), e.poolAddr false base off = .ok (h, p, a) →
    (Instr.qrecv c d base off).wf = true → s.goes c (.qrecv c d base off) 1 = some e → e.act ≠ [] →
    let q := s.qhead p a
    let first : Prop := ∀ x ∈ (s.core p).allOps, (∃ c' d' b' o', x.i = .qrecv c' d' b' o') → x.stage = 0 → x.args.getD 0 0 ≠ a
    ((s.qbad p a q = true ∨ q.cap < e.act.length) → Traps s e (.qrecv c d base off) { cause := 0x1A, info := a })
    ∧ (s.qbad p a q = false → e.act.length ≤ q.held → first → e.canPost c = true →
      ∃ t x, exec (.qrecv c d base off) s = .next t ∧ e.Posts s t c (.qrecv c d base off) x ∧ x.stage = 1 ∧ e.SameRegs s t
        ∧ x.writes = dstWrites d 2 (e.act.zipIdx.map fun n => (n.1, BitVec.ofNat 64 (s.read (windowKey p (q.ring + 8 * ((q.head + n.2) % q.cap))) 8)))
        ∧ t.read (windowKey p a) 4 = (q.head + e.act.length) % 2 ^ 32 ∧ BytesBut s t (windowKey p a) 4)
    ∧ (s.qbad p a q = false → q.held < e.act.length → e.act.length ≤ q.cap → e.canPost c = true →
      ∃ t x, exec (.qrecv c d base off) s = .next t ∧ e.Posts s t c (.qrecv c d base off) x ∧ x.stage = 0 ∧ e.SameRegs s t ∧ e.Local s t
        ∧ (t.group e.p e.gi).park = some (.qrecv x.id) ∧ (t.group e.p e.gi).run = none
        ∧ ∀ n ∈ e.head, ((t.group e.p e.gi).thread? n).map (·.pc) = some e.pc))

/-! Class 3 (spec/09_memory_instructions.md, spec/07_memory_tiers.md). -/

/-- R177 to R180, R229: where a lane's access of each tier lies, for a workgroup's own threads; a misaligned address is judged by itself. -/
def Obligations.AccessPlaces : Prop := ∀ (e : Iss) (q : AccReq) (l : LaneReq) (w x : Workgroup), e.guest = false → e.w = some w →
  (e.s.core e.p).wg = some x → x.shell = w.shell → (e.thread l.slot).origin = none →
  let d := (e.s.ctx x.ctx).desc
  let o : LaneOp := { slot := l.slot, lane := (e.thread l.slot).lane, tier := q.tier, va := l.a.toNat, size := q.n, v := l.v, v2 := l.v2, go := q.go }
  let n : Nat := if q.align = none ∧ l.a % (q.n : Int) ≠ 0 then 1 else q.n
  let ends (top : Nat) : Prop := 0 ≤ l.a ∧ l.a + n ≤ top
  let window (carve : Nat) (a : Int) : Prop := 0 ≤ a ∧ (a + n ≤ carveBytes carve ∨ (0x80000 ≤ a ∧ a + n ≤ 0x280000))
  let lies (inside : Prop) (r : LaneOp) : Prop := (inside → e.place q l = some r) ∧ (¬inside → e.place q l = none)
  let lc := clusterOf w.lcore * 16 + l.a.toNat / 2 ^ 22
  match q.tier with
  | .glob => lies (ends (2 ^ 57)) o
  | .dmem => lies (ends (d.dslimit * 2 ^ 16)) { o with key := some (dieKey (dieOf w.lcore) (d.dsbase * 2 ^ 16 + l.a.toNat)) }
  | .priv => lies (ends w.priv) { o with lc := w.lcore, grp := e.gi }
  | .smem => lies (window w.carve l.a) { o with lc := w.lcore }
  | .cmem =>
    (0 ≤ l.a → l.a < 2 ^ 26 → (∀ y here, e.s.gangMember x lc = some (y, here) →
        (window y.carve (l.a % 2 ^ 22) → e.place q l = some { o with lc, mate := some (y.launch, y.wg) })
        ∧ (¬window y.carve (l.a % 2 ^ 22) → e.place q l = none))
      ∧ (e.s.gangMember x lc = none → e.place q l = none))
    ∧ ((l.a < 0 ∨ 2 ^ 26 ≤ l.a) → e.place q l = none)

/-- R230: the first lane outside its window traps OUT_OF_WINDOW, else the first misaligned one traps MISALIGNED; a write that meets a range
lock or, without one, a barrier's mirror traps RANGE_CONFLICT or BARRIER_BUSY; where no check fails the lanes are those placed, and for
the global tier those that the TLB translates. -/
def Obligations.AccessIssueChecks : Prop := ∀ (e : Iss) (q : AccReq) (ls : List LaneReq), e.guest = false → q.bare = false → q.walker = false →
  q.align = none → (∀ l ∈ ls, (e.thread l.slot).origin = none) →
  let lanes := ls.filterMap (e.place q)
  let placed : Prop := ∀ l ∈ ls, (e.place q l).isSome = true
  let aligned : Prop := ∀ l ∈ ls, l.a % (q.n : Int) = 0
  let plain (o : LaneOp) : Prop := ∀ w, e.s.laneWindow o = some w → subsOf w.2 q.n = []
  let named (o : LaneOp) : Bool := o.tier != .priv &&
    (((e.s.core e.p).lockHit (e.s.ctxAt e.p e.gi o.slot) o.tier.code o.va o.size q.writes (e.s.logical e.p % 16)).isSome
      || (o.lc != e.s.logical e.p && (e.s.laneWindow o).any fun w =>
        (w.1.lockHit (e.s.ctxAt e.p e.gi o.slot) 1 w.2 o.size q.writes (o.lc % 16)).isSome))
  let mirror (o : LaneOp) : Option Nat := (e.s.laneWindow o).bind fun w => w.1.mirrorHit w.2 o.size
  let traps (o : LaneOp) (f : Trap → Prop) : Prop := ∃ x, e.locate q ls = .error (.trap x) ∧ x.lane = some o.lane ∧ f x
  (∀ l, ls.find? (fun l => (e.place q l).isNone) = some l → e.locate q ls = .error (laneTrap e ls l { cause := 0x0C }))
  ∧ (placed → ∀ l, ls.find? (fun l => l.a % (q.n : Int) != 0) = some l → e.locate q ls = .error (laneTrap e ls l trapMisaligned))
  ∧ (placed → aligned → q.tier ≠ .glob → (∀ o ∈ lanes, plain o) → ls.Pairwise (·.slot ≠ ·.slot) →
    (∀ o, lanes.find? named = some o → traps o (·.cause = 0x0F))
    ∧ ((∀ o ∈ lanes, named o = false) → q.writes = true → ∀ o, lanes.find? (fun o => (mirror o).isSome) = some o →
        traps o fun x => x.cause = 0x13 ∧ mirror o = some x.info)
    ∧ ((∀ o ∈ lanes, named o = false) → (q.writes = true → ∀ o ∈ lanes, mirror o = none) → q.go = false → e.locate q ls = .ok (e.s, lanes)))
  ∧ (placed → aligned → q.tier = .glob → q.go = false → ls.Pairwise (·.slot ≠ ·.slot) → ∀ f : Nat → TlbEntry,
    (∀ o ∈ lanes, (e.s.core e.p).tlbFind (e.s.ctx (e.s.ctxAt e.p e.gi o.slot)).desc.asid o.va = some (f o.slot)
      ∧ e.s.leafRefuse (f o.slot).leaf (f o.slot).size q.acc = none ∧ pteSnapshot (f o.slot).leaf = false ∧ pteTravel (f o.slot).leaf = false
      ∧ (q.writes = true → e.s.sealedAt (e.s.ctxAt e.p e.gi o.slot) o.va o.size = false)
      ∧ leafKey (f o.slot).leaf (f o.slot).size o.va / 2 ^ 16 ∉ e.s.flagged ∧ named o = false) → e.watched = false →
    e.locate q ls = .ok (e.s, lanes.map fun o => let x := f o.slot; { o with key := some (leafKey x.leaf x.size o.va), leaf := x.leaf, psize := x.size }))

/-- R231 to R233, R236, R238 to R240, R249: the loads, stores and read-modify-writes are posted with one lane for each active thread, at its
base plus the offset, or at its rank from the lowest thread's; a missing lane parks the group. -/
def Obligations.AccessesArePosted : Prop := ∀ (c : Ctl) (o : MemOps),
  let os (tier : Tier) (words : Nat) : List (RdAs × Src) := [(baseAs tier, o.base), (dataAs words, o.data)]
  let unit (i : Instr) (tier : Tier) (reads writes travel : Bool) (n : Nat) : Prop :=
    AccessPost c i { tier, n, reads, writes, go := o.go, mayTravel := travel } (os tier (if n = 8 then 2 else 1))
      (fun e => e.act.map fun k => { slot := k, a := (e.opnd (os tier (if n = 8 then 2 else 1)) k 0).toNat + o.off.toInt
                                     v := e.opnd (os tier (if n = 8 then 2 else 1)) k 1 }) fun _ => []
  let run (i : Instr) (reads writes : Bool) (ws : Iss → List RegWrite) : Prop :=
    AccessPost c i { tier := o.tier, n := o.width.bytes, reads, writes, go := o.go } (os o.tier o.width.words)
      (fun e => e.act.mapIdx fun r k =>
        { slot := k, a := (e.opnd (os o.tier o.width.words) e.lowest 0).toNat + o.off.toInt + o.width.bytes * r
          v := e.opnd (os o.tier o.width.words) k 1 }) ws
  let wide : Bool := o.tier == .glob || o.tier == .cmem
  let cas : List (RdAs × Src) := [(baseAs o.tier, o.base), (dataAs o.width.words, o.data),
    (dataAs o.width.words, match o.data with | .x n => .x (n + o.width.words) | d => d)]
  unit (.ldp c o) .priv true false false o.width.bytes ∧ unit (.stp c o) .priv false true false o.width.bytes
  ∧ unit (.lds c o) .smem true false false o.width.bytes ∧ unit (.sts c o) .smem false true false o.width.bytes
  ∧ unit (.ldc c o) .cmem true false true o.width.bytes ∧ unit (.stc c o) .cmem false true true o.width.bytes
  ∧ unit (.ldd c o) .dmem true false false o.width.bytes ∧ unit (.std c o) .dmem false true false o.width.bytes
  ∧ unit (.ldg c o) .glob true false true o.width.bytes ∧ unit (.stg c o) .glob false true true o.width.bytes
  ∧ (∀ op, unit (.atom c op o) o.tier true true wide (4 * o.ty.words)) ∧ (∀ op, unit (.atomf c op o) o.tier true true wide (4 * o.ty.words))
  ∧ (∀ op, unit (.red c op o) o.tier true true false (4 * o.ty.words))
  ∧ AccessPost c (.cas c o) { tier := o.tier, n := o.width.bytes, reads := true, writes := true, go := o.go, mayTravel := wide } cas
      (fun e => e.act.map fun k => { slot := k, a := (e.opnd cas k 0).toNat + o.off.toInt, v := e.opnd cas k 2, v2 := e.opnd cas k 1 })
      (fun _ => [])
  ∧ run (.cstore c o) false true (fun e => dstWrites o.dst 1 (e.act.map fun k => (k, BitVec.ofNat 64 e.act.length)))
  ∧ run (.xload c o) true false (fun _ => [])

/-- R242, R245, R246: FENCE, CCTL, SEAL and UNSEAL are posted with what they act on. -/
def Obligations.FencesAndLineControlArePosted : Prop := ∀ (c : Ctl) (o : MemOps) (s : State) (e : Iss), e.canPost c = true →
  let posts (i : Instr) (f : Op → Prop) : Prop := i.wf = true → s.goes c i 1 = some e →
    ∃ t x, exec i s = .next t ∧ e.Posts s t c i x ∧ e.PostFrame s t ∧ f x
  let os : List (RdAs × Src) := [(.w64z, o.base), (.w32, o.data)]
  let address (n : Nat) : Int := (e.opnd os n 0).toNat + o.off.toInt
  let ranged (i : Instr) : Prop := (0 ≤ address e.lowest ∧ address e.lowest < 2 ^ 57) →
    posts i fun x => x.args = [(address e.lowest).toNat, (e.opnd os e.lowest 1).toNat]
  let lines (i : Instr) : Prop := o.tier = .glob → (∀ n ∈ e.act, 0 ≤ address n ∧ address n + 1 ≤ 2 ^ 57) →
    posts i fun x => x.lanes.map (fun l => (l.slot, l.va)) = e.act.map fun n => (n, (address n).toNat / 128 * 128)
  posts (.fence c o) (fun x => x.lanes = []) ∧ ranged (.seal c o) ∧ ranged (.unseal c o)
  ∧ lines (.cctlWb c o) ∧ lines (.cctlInv c o) ∧ lines (.cctlWbinv c o)

/-- R239, R240: the value that a read-modify-write leaves in a unit of its type's width. -/
def Obligations.ReadModifyWriteValues : Prop := ∀ (ty : Ty) (old b cmp : Nat), let w := tyWidth ty
  old < 2 ^ w → b < 2 ^ w →
  let int (v : Nat) : Int := intOf ty (BitVec.ofNat 64 v)
  let bv (v : Nat) : BitVec w := BitVec.ofNat w v
  rmwNew .add ty old b cmp = (bv old + bv b).toNat
  ∧ int (rmwNew .min ty old b cmp) = min (int old) (int b) ∧ int (rmwNew .max ty old b cmp) = max (int old) (int b)
  ∧ rmwNew .and ty old b cmp = (bv old &&& bv b).toNat ∧ rmwNew .or ty old b cmp = (bv old ||| bv b).toNat
  ∧ rmwNew .xor ty old b cmp = (bv old ^^^ bv b).toNat ∧ rmwNew .exch ty old b cmp = b
  ∧ rmwNew .inc ty old b cmp = (if old ≥ b then 0 else old + 1)
  ∧ rmwNew .dec ty old b cmp = (if old = 0 ∨ old > b then b else old - 1)
  ∧ rmwNew .fadd ty old b cmp = fAdd .f32 .rne false false old b
  ∧ rmwNew .fmin ty old b cmp = fMinMax .f32 false old b ∧ rmwNew .fmax ty old b cmp = fMinMax .f32 true old b
  ∧ rmwNew .cas ty old b cmp = (if old = cmp then b else old)

/-- R195, R197, R198, R210, R232, R233, R239, R240: what one lane's access does when the order of its thread's accesses lets it go: a load
brings the bytes at its place, extended, or those of its core's stores or L1 copy where it may take them from there; a store puts exactly its
bytes there, or first enters the L1 that may cache its line; a read-modify-write does both, but a CAS that fails writes nothing. A near-memory
command does the same. -/
def Obligations.LaneEffects : Prop := ∀ (s t : State) (p gi : Nat) (o o' : Op) (l : LaneOp) (k : AccKind) (a : Nat),
  ((s.core p).group? gi).isSome = true → o.i.accKind = some k → o.twin = none → s.open p gi o l a → s.performLane p gi o l = (t, o') →
  let g := s.group p gi
  let cached : Bool := l.tier == .glob && cacheable l.leaf
  let finished := o.setLane { l with done := true }
  let behind (q : Option Nat) : Prop := l.tier = .glob → (s.core p).l1Pending q a l.size = false
  let old := s.read a l.size
  let same : Prop := ∀ slot code, (t.group p gi).reg slot code = g.reg slot code
  (k.writes = true → k.reads = false → (cached = false ∨ l.l1 ≠ none) → s.waits p gi o l.slot (some l) = false → o.lowerFirst l 6 = false →
    behind l.l1 → o' = finished ∧ t.read a l.size = l.v.toNat % 256 ^ l.size ∧ BytesBut s t a l.size ∧ same)
  ∧ (k.writes = true → k.reads = false → cached = true → l.l1 = none → g.blocked gi o l.slot (some l) false = false → o.lowerFirst l 1 = false →
    o' = o.setLane { l with l1 := some s.draws } ∧ SameBytes s t ∧ same)
  ∧ (k.reads = true → k.writes = false → s.nearLoad p gi o l = false → s.waits p gi o l.slot (some l) = false → behind none → (s.core p).tbuf = [] →
    g.awaits o.id (o.laneWrites l.slot 0) →
    o' = finished ∧ SameBytes s t ∧ Landed s t p gi (o.laneWrites l.slot (extendLoad o.i.loadWidth old)))
  ∧ (k.reads = true → k.writes = false → s.nearLoad p gi o l = true → g.blocked gi o l.slot (some l) false = false →
    (s.core p).forward a l.size ≠ some none → (s.core p).tbuf = [] → g.awaits o.id (o.laneWrites l.slot 0) →
    o' = finished ∧ SameBytes s t ∧ ∃ v, Landed s t p gi (o.laneWrites l.slot (extendLoad o.i.loadWidth v))
      ∧ (∀ x, (s.core p).forward a l.size = some x → x = some v)
      ∧ ((s.core p).forward a l.size = none → v = old ∨ ∃ x ∈ (s.core p).l1, x.key = a / 128 * 128 ∧ v = lineValue x.data (a % 128) l.size))
  ∧ (k.reads = true → k.writes = true → (o.i.rmw.1 = .cas → old = l.v2.toNat) → s.waitsAs p gi k o l.slot (some l) = false → behind none →
    g.awaits o.id (o.laneWrites l.slot 0) →
    o' = finished ∧ BytesBut s t a l.size ∧ Landed s t p gi (o.laneWrites l.slot (BitVec.ofNat 64 old))
      ∧ t.read a l.size = rmwNew o.i.rmw.1 o.i.rmw.2 old (l.v.toNat % 256 ^ l.size) (l.v2.toNat % 256 ^ l.size) % 256 ^ l.size)
  ∧ (k.reads = true → k.writes = true → o.i.rmw.1 = .cas → old ≠ l.v2.toNat →
    s.waitsAs p gi { k with order := match k.order with | .rel => .rlx | .ar => .acq | x => x } o l.slot (some l) = false → behind none →
    g.awaits o.id (o.laneWrites l.slot 0) →
    o' = finished ∧ SameBytes s t ∧ Landed s t p gi (o.laneWrites l.slot (BitVec.ofNat 64 old)))

/-- R46, R232, R233: TOKEN_COUNTDOWN of an operation whose results are known, and of a load or store of one lane: the results reach their
registers, the bytes their place, and the token counts down. -/
def Obligations.OperationsComplete : Prop := ∀ (s : State) (p gi id : Nat) (o : Op), Pending s p gi id o →
  let g := s.group p gi
  (∀ (c : Ctl) (u : Alu) (tag : Nat), o.i ∈ [Instr.frcp c u, .frsq c u, .fsqrt c u, .fexp2 c u, .flog2 c u, .fsin c u, .fcos c u, .ftanh c u,
      .fsigm c u, .mxpack c tag u, .mxunpk c u] → g.awaits id o.writes →
    ∃ t, exec (.tokenCountdown p gi id) s = .next t ∧ Completes s t p gi o o.writes ∧ SameBytes s t)
  ∧ (∀ (c : Ctl) (m : MemOps) (l : LaneOp) (a : Nat), o.lanes = [l] → o.writes = [] → o.ue = none → s.open p gi o l a → m.order = .rlx →
    (l.tier ≠ .glob ∨ cacheable l.leaf = false) → g.blocked gi o l.slot (some l) true = false →
    (l.tier = .glob → (s.core p).l1Pending none a l.size = false ∧ (s.core p).l1Pending l.l1 a l.size = false) →
    (o.i ∈ [Instr.ldp c m, .lds c m, .ldc c m, .ldd c m, .ldg c m, .xload c m] → (s.core p).tbuf = [] → g.awaits id (o.laneWrites l.slot 0) →
      ∃ t, exec (.tokenCountdown p gi id) s = .next t ∧ SameBytes s t
        ∧ Completes s t p gi o (o.laneWrites l.slot (extendLoad m.width (s.read a l.size))))
    ∧ (o.i ∈ [Instr.stp c m, .sts c m, .stc c m, .std c m, .stg c m, .cstore c m] →
      ∃ t, exec (.tokenCountdown p gi id) s = .next t ∧ t.read a l.size = l.v.toNat % 256 ^ l.size ∧ BytesBut s t a l.size
        ∧ Completes s t p gi o []))
  ∧ (∀ (c : Ctl) (m : MemOps), o.i = .fence c m → m.order ≠ .sc → m.remote = false → s.waitsAny p gi o = false →
    ∃ t, exec (.tokenCountdown p gi id) s = .next t ∧ Completes s t p gi o [] ∧ SameBytes s t
      ∧ (m.order.acquires = true → 2 ≤ levelFor gi m.scope.level → ∀ x ∈ (t.core p).l1,
        ∃ y ∈ s.seals, y.die = pdie p ∧ y.ctx = x.ctx ∧ rangesMeet y.start y.len x.va 128 = true))
  ∧ (∀ (c : Ctl) (m : MemOps), (o.i = .seal c m ∨ o.i = .unseal c m) → ∀ a n, o.args = [a, n] →
    let status (v : Nat) (seals : List Seal) : Prop := let ws := dstWrites m.dst 1 (o.act.map fun j => (j, BitVec.ofNat 64 v))
      g.awaits id ws → ∃ t, exec (.tokenCountdown p gi id) s = .next t ∧ Completes s t p gi o ws ∧ SameBytes s t ∧ t.seals = seals
    let bad : Prop := a % 128 ≠ 0 ∨ n % 128 ≠ 0 ∨ n = 0 ∨ 2 ^ 30 < n ∨ 2 ^ 57 < a + n
    let entry : Seal := ⟨pdie p, o.ctx, a, n⟩
    let mine := s.seals.filter fun x => x.die == pdie p && x.ctx == o.ctx
    let meets : Prop := ∃ x ∈ mine, rangesMeet x.start x.len a n = true
    (bad → status 3 s.seals)
    ∧ (¬bad → o.i = .seal c m → meets → status 2 s.seals)
    ∧ (¬bad → o.i = .seal c m → ¬meets → 64 ≤ mine.length → status 1 s.seals)
    ∧ (¬bad → o.i = .seal c m → ¬meets → mine.length < 64 → s.storeOutstanding o.ctx a n = false → status 0 (s.seals ++ [entry]))
    ∧ (¬bad → o.i = .unseal c m → entry ∉ s.seals → status 1 s.seals)
    ∧ (¬bad → o.i = .unseal c m → entry ∈ s.seals → s.sourceLocked o.ctx a n = false → status 0 (s.seals.erase entry)))

/-! Class 6, traps and the step (spec/17_traps.md, spec/02_instruction_word.md R30 to R37). -/

/-- R418, R421 to R424: a trap of a workgroup's group enters the handler: s60 to s63 hold the cause word, INFO and the resume PC, the threads
of H have the handler's PC, and the record area holds the record where TRECBASE enables it and its bytes may be written; with no handler, or
within one, the partition halts and nothing else happens. -/
def Obligations.TrapEntry : Prop := ∀ (s : State) (p gi : Nat) (H : List Nat) (pc : DWord) (x : Trap) (w : Workgroup) (g : Group),
  (s.core p).wg = some w → w.groups[gi]? = some g → gi < 64 → s.halted (pdie p) = false → (x.cause = 0x17 → s.consumable w.launch = false) →
  x.cause < 256 → x.reason < 256 →
  let d := s.ctx w.ctx
  let tvec : DWord := BitVec.ofNat 64 (d.tveclo.toNat / 2 * 2 + d.tvechi.toNat % 2 ^ 25 * 2 ^ 32)
  let enabled := bit d.trecbase.toNat 0
  let off := bits d.trecbase.toNat 21 7 * 128 + 128 * gi
  let clear : Prop := off + 128 ≤ carveBytes (s.core p).carve ∧ (s.core p).mirrorHit off 128 = none
    ∧ ∀ l ∈ (s.core p).locks, ∀ r ∈ l.2.dsts, ¬((r.1 = 1 ∧ rangesMeet r.2.1 r.2.2 off 128 = true)
      ∨ (r.1 = 2 ∧ r.2.1 / 2 ^ 22 = s.logical p % 16 ∧ rangesMeet (r.2.1 % 2 ^ 22) r.2.2 off 128 = true))
  let resume := x.pc.getD pc
  let t := takeTrap s p gi H pc x
  let reg (n : Nat) : Nat := ((t.group p gi).reg 0 (0x80 + n)).toNat
  (bit d.tveclo.toNat 0 = true → pcAligned tvec = true → g.handler = false →
    (bits (reg 60) 7 0 = x.cause ∧ bits (reg 60) 15 8 = x.reason ∧ bits (reg 60) 21 16 = x.lane.getD 0 % 64 ∧ bit (reg 60) 22 = x.lane.isSome
      ∧ bit (reg 60) 23 = x.defer ∧ bit (reg 60) 24 = x.guest.isSome ∧ (bit (reg 60) 25 = true ↔ enabled = true ∧ ¬clear)
      ∧ bits (reg 60) 31 26 = 0)
    ∧ reg 61 = x.info % 2 ^ 32 ∧ reg 62 + 2 ^ 32 * reg 63 = resume.toNat
    ∧ (∀ slot code, regCode code → ¬(0xBC ≤ code ∧ code < 0xC0) → (t.group p gi).reg slot code = g.reg slot code)
    ∧ (t.group p gi).handler = true ∧ (t.group p gi).run = none
    ∧ (∀ n, ((t.group p gi).thread? n).map (fun u => (u.pc, u.inH))
        = (g.thread? n).map fun u => if n ∈ H then (tvec, true) else (u.pc, u.inH))
    ∧ (enabled = true → clear → BytesBut s t (windowKey p off) 128 ∧ (x.xpc < 2 ^ 64 → x.addr < 2 ^ 64 → x.info < 2 ^ 32 →
        t.read (windowKey p off) 8 = resume.toNat ∧ t.read (windowKey p (off + 8)) 8 = x.xpc ∧ t.read (windowKey p (off + 16)) 8 = x.addr
        ∧ t.read (windowKey p (off + 24)) 8 = (x.unperf.getD (maskOf H)).toNat ∧ t.read (windowKey p (off + 32)) 4 = reg 60
        ∧ t.read (windowKey p (off + 36)) 4 = x.info ∧ t.read (windowKey p (off + 40)) 8 = (maskOf H).toNat
        ∧ t.read (windowKey p (off + 48)) 8 = s.ticks % 2 ^ 64))
    ∧ ((enabled = false ∨ ¬clear) → SameBytes s t))
  ∧ ((bit d.tveclo.toNat 0 = false ∨ pcAligned tvec = false ∨ g.handler = true) → ∀ k q, s.partOf (pdie p) = some (k, q) → q.halt = none →
    (∃ q' h, t.partOf (pdie p) = some (k, q') ∧ q'.halt = some h ∧ h.cause = (if g.handler = true then 0x81 else 0x80) ∧ h.tick = s.ticks
      ∧ h.trapCause = x.cause ∧ h.trapGroup = gi ∧ h.trapPc = pc.toNat ∧ h.core = p)
    ∧ SameBytes s t ∧ ∀ slot code, (t.group p gi).reg slot code = g.reg slot code)

/-- R427, R428: TRAP and BRK take their exception; TRET returns the active threads of a handler, outside which it is ILLEGAL_OP. -/
def Obligations.SoftwareTrapsAndReturn : Prop := ∀ (c : Ctl) (s : State) (e : Iss), e.act ≠ [] →
  (∀ code, (Instr.trap c code).wf = true → s.goes c (.trap c code) 1 = some e → Traps s e (.trap c code) { cause := 0x1C, info := code })
  ∧ (∀ code, (Instr.brk c code).wf = true → s.goes c (.brk c code) 1 = some e → Traps s e (.brk c code) { cause := 0x1D, info := code })
  ∧ ∀ next, (Instr.tret c next).wf = true → s.goes c (.tret c next) 1 = some e →
    let pair := pairOf (e.reg e.lowest 0xBE 0) (e.reg e.lowest 0xBF 0)
    let target := if next then nextPC pair else pair
    ((s.group e.p e.gi).handler = false → Traps s e (.tret c next) { cause := 0x01 })
    ∧ ((s.group e.p e.gi).handler = true → (pcAligned target = false ∨ 2 ^ 57 ≤ target.toNat) →
      Traps s e (.tret c next) { cause := 0x03, addr := target.toNat })
    ∧ ((s.group e.p e.gi).handler = true → pcAligned target = true → target.toNat < 2 ^ 57 →
      ∃ t, exec (.tret c next) s = .next t ∧ e.SameRegs s t ∧ SameBytes s t ∧ (t.group e.p e.gi).run = none
        ∧ e.Falls s t (e.head.filter fun n => !e.act.contains n)
        ∧ (∀ n ∈ e.act, ((t.group e.p e.gi).thread? n).map (fun u => (u.pc, u.inH, u.exempt))
            = ((s.group e.p e.gi).thread? n).map fun _ => (target, false, true))
        ∧ ((t.group e.p e.gi).handler = true ↔ ∃ u ∈ (t.group e.p e.gi).threads, u.inH = true))

/-- R429, R430, R434: what SYSR reads. -/
def Obligations.SystemRegisterReads : Prop :=
  (∀ (c : Ctl) (d : Dst) (idx : Nat), PostResult c (.sysr c d idx) d 1 fun e _ => BitVec.ofNat 64 (e.s.readSys e.p e.ctx idx))
  ∧ (∀ (c : Ctl) (d : Dst) (n : Nat), n < 32 → PostResult c (.cntr c d n) d 2 fun e _ =>
      BitVec.ofNat 64 (if n < 28 then mget 0 (e.s.ctx e.ctx).counters n else 0))
  ∧ ∀ (s : State) (p k : Nat), let x := s.ctx k
    s.readSys p k 0x100 = x.tveclo.toNat ∧ s.readSys p k 0x101 = x.tvechi.toNat ∧ s.readSys p k 0x102 = x.trecbase.toNat
    ∧ (∀ i, (0x110 ≤ i ∧ i ≤ 0x11D ∨ i = 0x11F) → s.readSys p k i = if x.watch then (mget 0 x.debug i).toNat else 0)
    ∧ (∀ n < 6, s.readSys p k (0x200 + n) = (mget 0x00100000#32 x.cktol n).toNat)
    ∧ s.readSys p k 0x207 = (if x.inj then (s.core p).arr.ckinj.toNat else 0)
    ∧ s.readSys p k 0x300 = (if x.ticket then 1 else 0)
    ∧ s.readSys p k 0x310 = (if x.migOff then 2 ^ 31 else 0) + (if x.noFall then 2 ^ 30 else 0) + 2 ^ 23 * (s.core p).guests.threads.length + x.falls
    ∧ (∀ q, s.part x.desc.part = some q → s.readSys p k 0x311 = (if q.relthOff then 2 ^ 31 else 0) + 2 ^ 16 * q.cool + q.level)
    ∧ s.readSys p k 0x320 = (if x.job.isSome then 2 ^ 31 else 0) + (if x.dbgSeen then 2 ^ 30 else 0) + x.period ∧ s.readSys p k 0x321 = x.acsat
    ∧ s.readSys p k 0x334 = bits x.accept 31 0 ∧ s.readSys p k 0x335 = bits x.accept 63 32 ∧ s.readSys p k 0x336 = bits x.accept 95 64
    ∧ s.readSys p k 0x337 = bits x.accept 127 96 ∧ s.readSys p k 0x400 = s.pkgid % 1024 + 2 ^ 16 * (s.domain % 1024)
    ∧ (x.desc.sys = false → ∀ i, 0x500 ≤ i → i ≤ 0x549 → s.readSys p k i = 0)
    ∧ (∀ b < 0x4000, (∃ q, s.partOf (b / 2048) = some (x.desc.part, q)) → s.readSys p k (0x4000 + b) = (mget 0 s.berr b).toNat)
    ∧ (∀ i, 0x8000 ≤ i ∨ (0x401 ≤ i ∧ i < 0x500) ∨ (0x54A ≤ i ∧ i < 0x4000) → s.readSys p k i = 0)

/-- R174, R429, R430, R434: a SYSW takes effect at its issue, on the writable fields of the register it names and on nothing else; one of a
debug register without the rights traps PRIVILEGE; the writes of CKINJ and DBGCTL that are steps of their own do the same. -/
def Obligations.SystemRegisterWrites : Prop :=
  let mask (i : Nat) : Word := BitVec.ofNat 32 ([0xFFFFFFFF, 0x01FFFFFF, 0xFFFFFFFF, 0x01FFFFFF, 0xFFFFFFFF, 0x01FFFFFF, 0xFFFFFFFF, 0x01FFFFFF,
    0xFFFFFFFF, 0x01FFFFFF, 0xE000001F, 0xFFFFFFFF, 0x01FFFFFF, 0xE000001F, 0, 0xC000003F].getD (i - 0x110) 0)
  let debug (i : Nat) : Prop := 0x110 ≤ i ∧ i ≤ 0x11D ∨ i = 0x11F
  let denied (x : Ctx) (i : Nat) (v : Word) : Prop := debug i ∧ (x.watch = false ∨ (i = 0x11F ∧ bit v.toNat 31 = true ∧ x.step = false))
  let written (s t : State) (p k i : Nat) (v : Word) : Prop :=
    let x := s.ctx k; let y := t.ctx k
    y.tveclo = (if i = 0x100 then v else x.tveclo) ∧ y.tvechi = (if i = 0x101 then v &&& 0x01FFFFFF else x.tvechi)
    ∧ y.trecbase = (if i = 0x102 then v &&& 0x003FFF81 else x.trecbase)
    ∧ (∀ j, mget 0 y.debug j = if j = i ∧ debug i then v &&& mask i else mget 0 x.debug j)
    ∧ (∀ n, mget 0x00100000#32 y.cktol n = if i = 0x200 + n ∧ n < 6 then v &&& 0x00FFFFFF else mget 0x00100000#32 x.cktol n)
    ∧ y.migOff = (if i = 0x310 then bit v.toNat 31 else x.migOff) ∧ y.noFall = (if i = 0x310 then bit v.toNat 30 else x.noFall)
    ∧ y.falls = (if i = 0x310 then bits v.toNat 15 0 else x.falls) ∧ y.desc = x.desc ∧ y.job = x.job ∧ y.accept = x.accept
    ∧ y.ticket = x.ticket ∧ y.counters = x.counters
    ∧ (t.core p).arr.ckinj = (if i = 0x207 ∧ x.inj = true then v &&& 0xFFFFC0FF else (s.core p).arr.ckinj)
    ∧ (∀ j, j ≠ k → t.ctx j = s.ctx j) ∧ t.parts = s.parts ∧ t.berr = s.berr ∧ t.ports = s.ports ∧ SameBytes s t
  (∀ (c : Ctl) (a : Src) (i : Nat) (s : State) (e : Iss), (Instr.sysw c a i).wf = true → s.goes c (.sysw c a i) 1 = some e → e.act ≠ [] →
    let v : Word := BitVec.ofNat 32 (e.low32 a)
    (denied (s.ctx e.ctx) i v → Traps s e (.sysw c a i) { cause := 0x1B })
    ∧ (¬denied (s.ctx e.ctx) i v → e.canPost c = true →
      ∃ t x, exec (.sysw c a i) s = .next t ∧ e.Posts s t c (.sysw c a i) x ∧ e.SameRegs s t ∧ written s t e.p e.ctx i v))
  ∧ (∀ (p : Nat) (v : Word) (s : State) (w : Workgroup), (s.core p).wg = some w →
    ∃ t, exec (.ckinjWrite p v) s = .next t ∧ written s t p w.ctx 0x207 v)
  ∧ (∀ (p gi : Nat) (v : Word) (s : State) (w : Workgroup), (s.core p).wg = some w → ¬denied (s.ctx w.ctx) 0x11F v →
    ∃ t, exec (.dbgctlWrite p gi v) s = .next t ∧ written s t p w.ctx 0x11F v)
  ∧ (∀ (p gi : Nat) (v : Word) (s : State) (w : Workgroup), (s.core p).wg = some w → denied (s.ctx w.ctx) 0x11F v → gi ≠ 64 →
    (s.group p gi).headSet false ≠ [] →
    ∃ pc, exec (.dbgctlWrite p gi v) s = .next (takeTrap s p gi ((s.group p gi).headSet false) pc { cause := 0x1B }))

/-- R432, R433, R392: HALT in a system context raises the halt line with the instruction's code; TLBI drops the entries of its ASID that
are device-only, all or those of one page, everywhere, and no others; elsewhere both trap PRIVILEGE. -/
def Obligations.HaltAndInvalidation : Prop := ∀ (c : Ctl) (s : State) (e : Iss), e.act ≠ [] →
  let d := (s.ctx e.ctx).desc
  let may (asid : Nat) : Prop := if d.sys then ∃ x ∈ s.ctxs, x.2.desc.valid = true ∧ x.2.desc.asid = asid ∧ x.2.desc.part = d.part else d.asid = asid
  let drops (i : Instr) (asid : Nat) (f : TlbEntry → Bool) : Prop :=
    i.wf = true → s.goes c i 1 = some e → (¬may asid → Traps s e i { cause := 0x1B })
      ∧ (may asid → e.canPost c = true → ∃ t, exec i s = .next t ∧ e.SameRegs s t ∧ SameBytes s t ∧ e.Falls s t e.head
        ∧ (∀ q, (t.core q).tlb = (s.core q).tlb.filter fun x => !(x.asid == asid && pteDO x.leaf && f x))
        ∧ ∀ n, mget 0 (t.group e.p e.gi).tok n = mget 0 (s.group e.p e.gi).tok n + (if n = c.t then 1 else 0))
  (∀ code, (Instr.halt c code).wf = true → s.goes c (.halt c code) 1 = some e →
    (d.sys = false → Traps s e (.halt c code) { cause := 0x1B })
    ∧ (d.sys = true → ∀ k q, s.partOf (pdie e.p) = some (k, q) → ∃ t q', exec (.halt c code) s = .next t ∧ t.partOf (pdie e.p) = some (k, q')
      ∧ e.SameRegs s t ∧ SameBytes s t ∧ e.Falls s t e.head
      ∧ (q.halt = none → ∃ h, q'.halt = some h ∧ h.cause = 0x86 ∧ h.tick = s.ticks ∧ h.trapPc = code ∧ h.trapGroup = e.gi ∧ h.core = e.p)
      ∧ (∀ h, q.halt = some h → q'.halt = some { h with later := h.later + 1 })))
  ∧ (∀ a b, let v := e.opnd [(.w64z, a), (.w32, b)] e.lowest
    drops (.tlbiVa c a b) ((v 1).toNat % 2 ^ 16) fun x => decide (x.base ≤ (v 0).toNat) && decide ((v 0).toNat < x.base + x.size))
  ∧ (∀ b, drops (.tlbiAsid c b) (e.low32 b % 2 ^ 16) fun _ => true)

/-- R437: DBGR and DBGW reach a debug-stopped group of the workgroup or a held thread of the issuing group, and tell by a status where they
do not; without WATCH rights they trap PRIVILEGE. -/
def Obligations.DebugAccess : Prop := ∀ (c : Ctl) (o : SysOps) (s : State) (e : Iss) (w : Workgroup), e.act ≠ [] → e.w = some w →
  let sel := e.low32 o.a
  let num := bits sel 23 16; let kind := bits sel 15 12; let lane := bits sel 11 6; let group := bits sel 5 0
  let g : Group := if group = e.gi then e.g else e.s.group e.p group
  let u : Thread := (g.thread? lane).getD { slot := 0, lane := 0, pc := 0 }
  let invalid : Prop := bits sel 31 24 ≠ 0 ∨ 6 ≤ kind ∨ w.groups.length ≤ group ∨ (kind = 0 ∧ w.regs ≤ num) ∨ (kind = 1 ∧ 64 ≤ num)
    ∨ (kind = 5 ∧ 16 ≤ num) ∨ w.threads ≤ lane
  let reached : Prop := (group ≠ e.gi ∧ (w.groups.getD group {}).dbgStop ≠ none ∧ (w.groups.getD group {}).run = none)
    ∨ (group = e.gi ∧ e.g.handler = true ∧ ∃ v, e.g.thread? lane = some v ∧ v.inH = false)
  let value : Nat := match kind with
    | 0 => (g.reg lane num).toNat
    | 1 => (g.reg lane (0x80 + num)).toNat
    | 2 => u.p.toNat
    | 3 => u.pc.toNat % 2 ^ 32
    | 4 => bits u.pc.toNat 56 32
    | _ => mget 0 g.tok num
  let answers (i : Instr) (d : Dst) (words v : Nat) : Prop := ∃ t x, exec i s = .next t ∧ e.Posts s t c i x ∧ e.PostFrame s t
    ∧ x.writes = dstWrites d words (e.act.map fun n => (n, BitVec.ofNat 64 v))
  ((Instr.dbgr c o).wf = true → s.goes c (.dbgr c o) 1 = some e →
    ((s.ctx e.ctx).watch = false → Traps s e (.dbgr c o) { cause := 0x1B })
    ∧ ((s.ctx e.ctx).watch = true → e.canPost c = true →
      (invalid → answers (.dbgr c o) o.dst 2 (2 ^ 33)) ∧ (¬invalid → ¬reached → answers (.dbgr c o) o.dst 2 (2 ^ 32))
      ∧ (¬invalid → reached → answers (.dbgr c o) o.dst 2 value)))
  ∧ ((Instr.dbgw c o).wf = true → s.goes c (.dbgw c o) 1 = some e →
    let v : Word := BitVec.ofNat 32 (e.low32 o.b)
    ((s.ctx e.ctx).watch = false → Traps s e (.dbgw c o) { cause := 0x1B })
    ∧ ((s.ctx e.ctx).watch = true → e.canPost c = true →
      (invalid ∨ (3 ≤ kind ∧ kind ≤ 5) → answers (.dbgw c o) o.dst 1 2) ∧ (¬invalid → kind ≤ 2 → ¬reached → answers (.dbgw c o) o.dst 1 1)
      ∧ (¬invalid → kind ≤ 1 → reached → (kind = 0 → num < 0x80 ∧ (g.thread? lane).isSome = true) →
        ∃ t, exec (.dbgw c o) s = .next t ∧ (t.group e.p group).reg lane (num + 0x80 * kind) = v ∧ SameBytes s t
          ∧ ∀ slot code, regCode code → code ≠ num + 0x80 * kind ∨ (kind = 0 ∧ slot ≠ lane) →
            (t.group e.p group).reg slot code = (s.group e.p group).reg slot code)))

/-- R35: a step runs the instruction that the group in focus fetches, and a step that is due from outside comes first. The inbox and the
focus, which say what happens next, are the model's (log entry 1). -/
def Obligations.StepRunsDecodedInstruction : Prop := ∀ (s : State), let u := s.tick
  (∀ i is, u.inbox = i :: is → step s = exec i { u with inbox := is })
  ∧ (u.inbox = [] → u.canIssue u.focus.1 u.focus.2 = true → ∀ t w, u.fetch u.focus.1 u.focus.2 = .word t w →
    (∀ i, decode w = .ok i → step s = exec i t)
    ∧ (∀ x, decode w = .error x → step s = .next (t.illegalWord u.focus.1 u.focus.2)))
  ∧ (u.inbox = [] → u.canIssue u.focus.1 u.focus.2 = true → ∀ t, u.fetch u.focus.1 u.focus.2 = .stop t → step s = .next t)

/-- R29 to R35: in a run that is not over, with the line of the PC translated, executable and sound, checks 1 to 4 are made in order, and the
word fetched is the 12 bytes of the PC's slot. -/
def Obligations.InstructionFetch : Prop := ∀ (s : State) (p gi n : Nat) (ns : List Nat) (g : Group) (u : Thread) (x : TlbEntry),
  (s.core p).group? gi = some g → g.headSet (gi == 64) = n :: ns → g.headGone (gi == 64) = false → g.thread? n = some u → (g.handler = true ∨ g.deferred = []) →
  g.trapDue = none →
  u.pc.toNat < 2 ^ 57 →
  let va := u.pc.toNat / 64 * 64
  let k := leafKey x.leaf x.size va
  (s.core p).tlbFind (s.ctx (s.ctxAt p gi u.slot)).desc.asid va = some x → s.leafRefuse x.leaf x.size .fetch = none →
  s.reaches (pdie p) k = true → s.leaseWaits k 64 false = false → s.poisonAt k 64 = none →
  (gi ≠ 64 → ∀ w, (s.core p).wg = some w → w.tandem = none) →
  let lw := s.read (k + 60) 4
  let slot := u.pc.toNat % 64 / 12
  let w := s.read (k + 12 * slot) 12
  let ones (v m : Nat) : Nat := (List.range m).countP v.testBit
  let sound : Prop := bits lw 16 0 = 0 ∧ ones lw 32 % 2 = 0
  let target : Prop := u.target = none ∨ bit lw (27 + slot) = true
  let parity : Prop := (bit lw (22 + slot) = true ↔ ones w 96 % 2 = 1)
  let traps (y : Trap) : Prop := s.fetch p gi = .stop (takeTrap (s.leaveCommit p) p gi (n :: ns) u.pc y)
  (u.pc.toNat % 64 ∉ [0, 12, 24, 36, 48] → traps { cause := 0x03, pc := u.target, addr := u.pc.toNat })
  ∧ (u.pc.toNat % 64 ∈ [0, 12, 24, 36, 48] →
    (¬sound → traps { cause := 0x04 })
    ∧ (sound → ¬target → traps { cause := 0x05, pc := u.target, addr := u.pc.toNat })
    ∧ (sound → target → ¬parity → traps { cause := 0x06, info := slot })
    ∧ (sound → target → parity → s.fetch p gi = .word s (BitVec.ofNat 96 w)))

/-- R35 checks 5 and 6, R36, R292: for every instruction word, what its kernel or context does not allow traps ILLEGAL_OP, where an away
thread's kernel is its origin's (log entry 79), then in checked mode an under-waited register traps HAZARD; the 24th instruction of a run without E traps RUN_LENGTH. -/
def Obligations.ChecksBeforeEffects : Prop := ∀ (i : Instr) (f : Fields) (c : Ctl) (s : State) (b : Iss),
  i.wf = true → encodeFields i = some f → f.ctl = some c → s.begin c (match i with | .dly _ n => n | _ => 1) = some b →
  let e := b.drawn s.draws
  let x := e.s.ctx e.ctx
  let regs := if e.guest then (e.head.map fun n => ((e.thread n).origin.bind e.s.originWg).elim 128 (·.regs)).foldl min 128 else e.w.elim 128 (·.regs)
  let legal := legalFor regs x.accept i
  let hazard := hazardBreak e.g c i e.head e.act
  let traps (t : Trap) : Prop := exec i s = .next (e.trapAt { s with draws := s.draws + 1 } t)
  (legal = false → traps { cause := 0x01 })
  ∧ (legal = true → x.checked = true → ∀ k n, hazard = some (k, n) → traps { cause := 0x02, info := k, lane := some (e.thread n).lane })
  ∧ (legal = true → (x.checked = true → hazard = none) → ueBreak e.g c i e.head e.act = none → (e.watched = true → debugBreak x e.gi e.pc = none) →
    e.g.run.elim 0 (·.count) = 24 → c.e = false → traps { cause := 0x07 })

/-- R380 to R388, R393: what a walk finds at each entry, what an access needs, and what a translation answers and leaves in the TLB. -/
def Obligations.TranslationAnswers : Prop :=
  (∀ (s : State) (va level st base : Nat), level ≤ 4 →
    let place := stackKey st (base + 8 * vaIndex va level)
    let e := s.read place 8
    let size := leafSize level
    let leaf : Prop := leafBad s.pkgid level e = false
    let frame : Prop := pteLoc e = 0 ∧ s.protectedPage (pteStack e) (pteFrame e) size = true
    let found := s.walkFrom va level st base
    (s.leaseWaits place 8 false = true → found = .wait)
    ∧ (s.leaseWaits place 8 false = false → (s.poisonAt place 8).isSome = true → found = .refused ⟨0x10, 3⟩)
    ∧ (s.leaseWaits place 8 false = false → s.poisonAt place 8 = none →
      (bit e 0 = true → bit e 1 = true → leaf → bits e 3 2 = 0 → ¬frame → found = .leaf size e)
      ∧ (bit e 0 = true → bit e 1 = true → leaf → bits e 3 2 = 0 → frame → found = .refused ⟨0x11, 4⟩)
      ∧ (bit e 0 = true → bit e 1 = true → (¬leaf ∨ bits e 3 2 ≠ 0) → found = .refused ⟨0x10, 2⟩)
      ∧ (bit e 0 = true → bit e 1 = false → tableBad level e = true → found = .refused ⟨0x10, 2⟩)
      ∧ (∀ n, level = n + 1 → bit e 0 = true → bit e 1 = false → tableBad level e = false →
        found = s.walkFrom va n (bits e 51 48) (bits e 47 8 * 256))
      ∧ (bit e 0 = false → bits e 3 2 = 3 → found = .refused ⟨0x10, 1⟩)
      ∧ (bit e 0 = false → bits e 3 2 = 2 → bit e 1 = true → leaf → level ≠ 2 → bits e 53 52 = 0 → ¬frame →
        found = if s.anyRetired (stackKey (pteStack e) (pteFrame e)) size = true then .refused ⟨0x10, 3⟩ else .short size e place)
      ∧ (bit e 0 = false → bits e 3 2 < 2 → found = .long)))
  ∧ (∀ e, (permRefuse e .fetch = none ↔ bit e 6 = true) ∧ (permRefuse e .read = none ↔ bit e 4 = true)
    ∧ (permRefuse e .write = none ↔ bit e 5 = true) ∧ (permRefuse e .rmw = none ↔ bit e 4 = true ∧ bit e 5 = true))
  ∧ (∀ (s : State) (p c va : Nat) (a : Acc), let asid := (s.ctx c).desc.asid
    let hit := (s.core p).tlbFind asid va
    (∀ x, hit = some x → ∀ r, s.leafRefuse x.leaf x.size a = some r → s.xlate p c va a = (s, .refusedNow r))
    ∧ (∀ x, hit = some x → ((pteLoc x.leaf = 0 ∧ s.protectedPage (pteStack x.leaf) (pteFrame x.leaf) x.size = true → s.leafRefuse x.leaf x.size a = some ⟨0x11, 4⟩)
      ∧ (¬(pteLoc x.leaf = 0 ∧ s.protectedPage (pteStack x.leaf) (pteFrame x.leaf) x.size = true) → s.leafRefuse x.leaf x.size a = permRefuse x.leaf a)))
    ∧ (∀ x, hit = some x → s.leafRefuse x.leaf x.size a = none → bit x.leaf 13 = false → s.xlate p c va a = (s, .hit (leafKey x.leaf x.size va) x.leaf x.size))
    ∧ (hit = none → ∀ size e, s.walk c va = .leaf size e → permRefuse e a = none → bit e 13 = false →
      ∃ t, s.xlate p c va a = (t, .hit (leafKey e size va) e size) ∧ (t.core p).tlbFind asid va = some ⟨asid, va / size * size, size, e⟩
        ∧ SameBytes s t ∧ (∀ q, q ≠ p → t.core q = s.core q) ∧ { t.core p with tlb := [] } = { s.core p with tlb := [] })
    ∧ (hit = none → ∀ size e, s.walk c va = .leaf size e → ∀ r, permRefuse e a = some r →
      ∃ t, s.xlate p c va a = (t, .missRefused r) ∧ SameBytes s t ∧ t.cores = s.cores)
    ∧ (hit = none → ∀ size e k, s.walk c va = .short size e k →
      ∃ t, s.xlate p c va a = (t, .short (va / size * size) size) ∧ SameBytes s t ∧ t.cores = s.cores)
    ∧ (hit = none → s.walk c va = .long →
      ∃ t, s.xlate p c va a = (t, .long (va / 2 ^ 16 * 2 ^ 16)) ∧ SameBytes s t ∧ t.cores = s.cores)
    ∧ (hit = none → s.walk c va = .wait → s.xlate p c va a = (s, .short (va / 2 ^ 16 * 2 ^ 16) (2 ^ 16)))
    ∧ (hit = none → ∀ r, s.walk c va = .refused r → ∃ t, s.xlate p c va a = (t, .missRefused r) ∧ SameBytes s t ∧ t.cores = s.cores))

/-! Class 4 (spec/06_matrix_instructions.md, spec/05_array_engine.md). -/

/-- R142 to R144, R149, R151, R161: AMODE and ACAL take their place in array order, are held where eight operations wait there, and trap
CHECKSUM where a sub-array has an unresolved failure; an ACAL in storage mode is held for the change of mode. -/
def Obligations.ArrayModeIssues : Prop := ∀ (c : Ctl) (mask : Nat) (s : State) (e : Iss), e.act ≠ [] →
  let a := s.arr e.p
  let all (f : Nat → Prop) : Prop := ∀ q < 4, mask.testBit q = true → f q
  let posts (i : Instr) (f : State → Op → Prop) : Prop := e.canPost c = true →
    ∃ t x, exec i s = .next t ∧ e.Posts s t c i x ∧ e.Beside s t ∧ e.Falls s t e.head ∧ f t x
  let judged (i : Instr) (rest : Prop) : Prop := i.wf = true → s.goes c i 1 = some e →
    (∀ f, (qsOf mask).findSome? a.failOn = some f → Traps s e i { cause := 0x0A, reason := 2, info := f.job.rcd.qmask + 16 * f.job.rcd.acc })
    ∧ (all (a.failOn · = none) → rest)
  let mode (i : Instr) (mul : Bool) : Prop := judged i
    ((¬all (fun q => (a.opsOn q).length < 8) → Holds s e i (.array (qsOf mask) false))
    ∧ (all (fun q => (a.opsOn q).length < 8) →
      posts i fun t x => (t.arr e.p).ops = a.ops ++ [{ kind := .mode mul, qmask := mask, group := e.gi, op := x.id }]))
  mode (.amodeSto c mask) false ∧ mode (.amodeMul c mask) true
  ∧ judged (.acal c mask) ((¬all (fun q => a.orderedMul q = true → (a.opsOn q).length < 8) →
        Holds s e (.acal c mask) (.array ((qsOf mask).filter a.orderedMul) false))
      ∧ (all (fun q => a.orderedMul q = true → (a.opsOn q).length < 8) → a.subs.length = 4 →
        posts (.acal c mask) fun t x =>
          (∀ q < 4, ((t.arr e.p).sub q).calDue = ((a.sub q).calDue || (mask.testBit q && !a.orderedMul q)))
          ∧ (t.arr e.p).ops = a.ops ++ (if (qsOf mask).any a.orderedMul
              then [{ kind := .cal, qmask := (((qsOf mask).filter a.orderedMul).map (2 ^ ·)).sum, group := e.gi, op := x.id }] else [])))

/-- R146, R152 to R154, R272: AWR, ALD and WPRE take their place in array order and enter their tile, marked writing, in place of the tiles it
meets, a WPRE with its source registered; ARD reads the block that each thread's index names from a complete and sound tile. When the record of an
ALD or WPRE is read is the model's (log entry 85). -/
def Obligations.TileWritesAndReads : Prop := ∀ (c : Ctl) (s : State) (e : Iss), e.act ≠ [] →
  let a := s.arr e.p
  let posts (i : Instr) (f : State → Op → Prop) : Prop := e.canPost c = true →
    ∃ t x, exec i s = .next t ∧ e.Posts s t c i x ∧ e.Beside s t ∧ e.Falls s t e.head ∧ f t x
  let enters (t : State) (x : Op) (o : TileOps) : Prop :=
    (t.arr e.p).ops = a.ops ++ [{ kind := .write o.q o.slotBase (widthOf o.tw), qmask := 2 ^ o.q, group := e.gi, op := x.id }]
      ∧ ((t.arr e.p).sub o.q).tiles = ((a.sub o.q).tiles.filter fun y => !rangesMeet y.base y.width o.slotBase (widthOf o.tw))
          ++ [{ base := o.slotBase, width := widthOf o.tw, dense := o.dense, writing := true }]
  let writes (i : Instr) (o : TileOps) (os : List (RdAs × Src)) (q : AccReq) (reads : State → List LaneOp → List Nat → Prop) : Prop :=
    (256 < o.slotBase + widthOf o.tw → i.wf = true → ∀ b, s.begin c 1 = some b →
      exec i s = .next ((b.drawn s.draws).trapAt { s with draws := s.draws + 1 } { cause := 0x01 }))
    ∧ (i.wf = true → s.goes c i 1 = some e → a.failOn o.q = none → a.orderedMul o.q = true → (a.opsOn o.q).length < 8 → o.q < a.subs.length →
    (o.slotBase + widthOf o.tw ≤ 256 → ∀ u los as,
      (e.latched os).locate q [{ slot := e.lowest, a := (e.opnd os e.lowest 0).toNat + o.off.toInt }] = .ok (u, los) → reads u los as →
      posts i fun t x => x.lanes = los ∧ x.args = as ∧ enters t x o))
  (∀ o, writes (.awr c o) o [(.w32, o.addr)] { tier := .smem, n := 512 * slotBytes o.slot, reads := true, writes := false, align := some 16 }
    fun _ _ as => as = [slotBytes o.slot])
  ∧ (∀ o, let os := [(RdAs.w64z, o.addr), (.w32, o.origin)]
    let k0 := (e.opnd os e.lowest 1).toNat % 2 ^ 16
    let n0 := (e.opnd os e.lowest 1).toNat / 2 ^ 16 % 2 ^ 16
    writes (.ald c o) o os { tier := .glob, n := 64, reads := true, writes := false, walker := true } fun u los as =>
      ∃ v rcd, (e.latched os).recordAtIssue { i := .ald c o, lanes := los, args := [k0, n0] }
        ((e.opnd os e.lowest 0).toNat + o.off.toInt).toNat k0 n0 u = .ok (v, rcd) ∧ as = [k0, n0] ++ rcd)
  ∧ (∀ (o : TileOps) (n : Nat) (w : Workgroup), (Instr.wpre c o).wf = true → s.goes c (.wpre c o) 1 = some e → e.w = some w →
    o.slotBase + widthOf o.tw ≤ 256 →
    let r (j : Nat) : Nat := ((e.regBlock o.addr 4).getD j 0).toNat
    let va := r 0 + r 1 * 2 ^ 32
    va + 64 ≤ 2 ^ 57 → va % 64 = 0 → a.failOn o.q = none → a.orderedMul o.q = true → (a.opsOn o.q).length < 8 → o.q < a.subs.length →
    (∀ l ∈ (s.core e.p).locks, l.2.dsts = []) → (s.core e.p).freeLock = some n →
    posts (.wpre c o) fun t x => x.args.take 4 = [va, r 2 % 2 ^ 16, r 2 / 2 ^ 16 % 2 ^ 16, r 3] ∧ enters t x o
      ∧ ∃ l, mfind (t.core e.p).locks n = some l ∧ l.dsts = [] ∧ ∃ g ∈ l.srcs, g.1 = 0 ∧ g.2.1 ≤ va ∧ va + 64 ≤ g.2.1 + g.2.2)
  ∧ (∀ o : AccOps, (Instr.ard c o).wf = true → s.goes c (.ard c o) 1 = some e → a.failOn o.q = none → a.orderedMul o.q = true →
    let tile := (a.sub o.q).tile? o.slotBase
    (tile = none → Traps s e (.ard c o) { cause := 0x01 })
    ∧ (∀ y, tile = some y → y.writing = true → Holds s e (.ard c o) (.tile [o.q] o.slotBase))
    ∧ (∀ y, tile = some y → y.writing = false → y.fault = some .format →
      Traps s e (.ard c o) { cause := 0x09, reason := 0, info := o.q + 256 * o.slotBase })
    ∧ (∀ y, tile = some y → y.writing = false → y.fault = some .refused →
      Traps s e (.ard c o) { cause := 0x09, reason := 1, info := o.q + 256 * o.slotBase })
    ∧ (∀ y k, tile = some y → y.writing = false → y.fault = some (.ue k) → Traps s e (.ard c o) { cause := 0x17, info := k })
    ∧ (∀ y, tile = some y → y.writing = false → y.fault = none → (a.opsOn o.q).length < 8 →
      posts (.ard c o) fun t x =>
        x.writes = (e.act.flatMap fun n => (ardWords y (e.opnd [(.w32, o.a)] n 0).toNat).mapIdx fun j w => ⟨n, o.dst.code + j, w⟩)
        ∧ (t.arr e.p).ops = a.ops ++ [{ kind := .ard o.q o.slotBase, qmask := 2 ^ o.q, group := e.gi, op := x.id }]))
  ∧ (∀ (y : Tile) (v : Nat), let b := y.blocks.getD (4 * bits v 6 0 + bits v 9 8) {}
    (ardWords y v).length = 9 ∧ ∀ j < 8, ∀ k < 4, bits ((ardWords y v).getD j 0).toNat (8 * k + 7) (8 * k) = (b.a.getD (4 * j + k) 0 % 256).toNat)

/-- R155 to R158: MCONV declares the threads of the four quarters; an MMA's signature is recorded with what it captures, and the last one
issues the MMA, which enters array order and readies the threads that wait for it. -/
def Obligations.MatrixSigning : Prop := ∀ (c : Ctl) (s : State) (e : Iss) (w : Workgroup), e.w = some w →
  let a := s.arr e.p
  let reg (k : Nat) : KReg := mget {} a.kregs k
  (∀ k g3 g2 g1 g0, (Instr.mconv c k g3 g2 g1 g0).wf = true → s.goes c (.mconv c k g3 g2 g1 g0) 1 = some e → e.act ≠ [] →
    let named := [g0, g1, g2, g3].filter (· ≠ 0x40)
    ((∃ g ∈ named, w.groups.length ≤ g) ∨ (reg k).signed ≠ [] → Traps s e (.mconv c k g3 g2 g1 g0) { cause := 0x01 })
    ∧ ((∀ g ∈ named, g < w.groups.length) → (reg k).signed = [] →
      ∃ t r, exec (.mconv c k g3 g2 g1 g0) s = .next t ∧ e.Beside s t ∧ e.Falls s t e.head ∧ mfind (t.arr e.p).kregs k = some r ∧ r.signed = []
        ∧ r.record = none ∧ r.caps = [] ∧ (∀ j, j ≠ k → mfind (t.arr e.p).kregs j = mfind a.kregs j)
        ∧ ∀ g l, (g, l) ∈ r.declared ↔ g ∈ named ∧ ∃ u ∈ (w.groups.getD g {}).threads, u.st ≠ .exited ∧ u.lane = l))
  ∧ ∀ o : MmaOps, (Instr.mma c o).wf = true → s.goes c (.mma c o) 1 = some e → e.canPost c = true →
    let r := reg o.kreg
    let rcd : MmaRec := { shape := o.shape, rep := o.rep, dense := o.dense, sw := o.sw, qmask := o.qmask, kreg := o.kreg, acc := o.acc, base := o.slotBase,
                          instr := .mma c o, pc := e.pc }
    let os := (List.range (2 * o.shape.groups)).map (fun j => (RdAs.w32, match o.elems with | .x n => Src.x (n + j) | x => x)) ++ [(RdAs.w32, o.hdrs)]
    let header (n : Nat) : Nat := (e.opnd os n (2 * o.shape.groups)).toNat % 2 ^ 16
    let caps := e.act.map fun n => { group := e.gi, lane := n, hdr := header n
                                     words := (List.range (2 * o.shape.groups)).map fun j => BitVec.ofNat 32 (e.opnd os n j).toNat : Capture }
    (∀ n ∈ e.head, (e.gi, n) ∉ r.signed ∧ (e.gi, n) ∈ r.declared) →
    (∀ x, r.record = some x → { x with pc := 0, instr := rcd.instr } = { rcd with pc := 0 }) →
    (∀ q < 4, o.qmask.testBit q = true → a.failOn q = none ∧ a.orderedMul q = true ∧
      ∃ y, (a.sub q).tile? o.slotBase = some y ∧ y.writing = false ∧ y.fault = none) →
    (∀ n ∈ e.act, n % 4 < o.shape.groups → headerOk o.sw (header n) = true) →
    let signed := r.signed ++ e.head.map fun n => (e.gi, n)
    ((∃ d ∈ r.declared, d ∉ signed) →
      ∃ t r' x, exec (.mma c o) s = .next t ∧ e.Posts s t c (.mma c o) x ∧ e.Beside s t ∧ e.Falls s t e.head
        ∧ mfind (t.arr e.p).kregs o.kreg = some r' ∧ r'.signed = signed ∧ r'.declared = r.declared ∧ r'.record = some (r.record.getD rcd)
        ∧ r'.caps = r.caps ++ caps ∧ r'.refs = r.refs ++ [(e.gi, x.id)] ∧ (t.arr e.p).ops = a.ops)
    ∧ ((∀ d ∈ r.declared, d ∈ signed) → (∀ q < 4, o.qmask.testBit q = true → (a.opsOn q).length < 8 ∧ a.mmasOn q < 3) → e.gi < 64 →
      ∃ t r' x j, exec (.mma c o) s = .next t ∧ e.Posts s t c (.mma c o) x ∧ e.SameRegs s t ∧ SameBytes s t ∧ e.Falls s t e.head
        ∧ mfind (t.arr e.p).kregs o.kreg = some r' ∧ r'.signed = [] ∧ r'.record = none ∧ r'.caps = []
        ∧ (t.arr e.p).ops = a.ops ++ [{ kind := .mma j, qmask := (r.record.getD rcd).qmask }] ∧ j.rcd = r.record.getD rcd
        ∧ j.b = captureB (r.record.getD rcd).shape (r.caps ++ caps) ∧ j.refs = r.refs ++ [(e.gi, x.id)]
        ∧ ∀ x, (t.core e.p).wg = some x → ∀ g ∈ x.groups, ∀ u ∈ g.threads, u.st ≠ .signwait o.kreg)

/-- R143, R144, R161, R163 to R165: MZERO takes its place in array order, ahead of what is held behind a failure that it discards, and sets its tiles to +0 when
its turn has come; MDRAIN and MACC read the tile of
which no verdict is due, take their place, and trap CHECKSUM where a failure writes it. -/
def Obligations.AccumulatorInstructions : Prop :=
  (∀ (c : Ctl) (s : State) (e : Iss), e.act ≠ [] →
    let a := s.arr e.p
    let posts (i : Instr) (f : State → Op → Prop) : Prop := e.canPost c = true →
      ∃ t x, exec i s = .next t ∧ e.Posts s t c i x ∧ e.Beside s t ∧ e.Falls s t e.head ∧ f t x
    let settled (q acc : Nat) : Prop := a.failOfTile q acc = none ∧ a.behind.find? (·.1.addsTo q acc) = none ∧ ∀ x ∈ a.ops, x.addsTo q acc = false
    let seen (q acc j : Nat) : Nat := if a.ops.any (·.clears q acc) then 0 else a.elem q acc j
    let fails (i : Instr) (q acc : Nat) : Prop :=
      ∀ f, (a.failOfTile q acc = some f ∨ (a.failOfTile q acc = none ∧ ∃ x, a.behind.find? (·.1.addsTo q acc) = some (x, f))) →
        Traps s e i { cause := 0x0A, reason := 1, info := f.job.rcd.qmask + 16 * f.job.rcd.acc }
    (∀ mask acc, (Instr.mzero c mask acc).wf = true → s.goes c (.mzero c mask acc) 1 = some e →
      (∀ q < 4, mask.testBit q = true → a.failOn q = none ∧ a.orderedMul q = true ∧ (a.opsOn q).length < 8) →
      posts (.mzero c mask acc) fun t x =>
        (t.arr e.p).ops = a.ops ++ [{ kind := .mzero acc, qmask := mask, group := e.gi, op := x.id }] ∧ (t.arr e.p).acc = a.acc)
    ∧ (∀ mask acc f, (Instr.mzero c mask acc).wf = true → s.goes c (.mzero c mask acc) 1 = some e → a.fails = [f] →
      (∃ q < 4, mask.testBit q = true ∧ a.failOn q = some f) →
      let hits (x : List (Nat × Nat)) : Prop := ∃ q < 4, mask.testBit q = true ∧ (q, acc) ∈ x
      (¬hits f.job.rcd.tiles → Traps s e (.mzero c mask acc) { cause := 0x0A, reason := 2, info := f.job.rcd.qmask + 16 * f.job.rcd.acc })
      ∧ (hits f.job.rcd.tiles → f.retry = none → e.canPost c = true →
        (∀ q < 4, mask.testBit q = true → a.orderedMul q = true ∧ (a.failOn q = some f ∨ (a.opsOn q).length < 8)) →
        ∃ t ahead behind, exec (.mzero c mask acc) s = .next t ∧ e.SameRegs s t ∧ SameBytes s t ∧ e.Falls s t e.head ∧ (t.arr e.p).fails = []
          ∧ (t.arr e.p).ops = ahead ++ [{ kind := .mzero acc, qmask := mask, group := e.gi, op := (s.group e.p e.gi).nextOp }] ++ behind
          ∧ (∀ x, x ∈ behind ↔ ((∃ y, (x, y) ∈ a.behind) ∧ ∀ j, x.kind = .mma j → ¬hits j.rcd.tiles)) ∧ ∀ x ∈ ahead, ∀ y, (x, y) ∉ a.behind))
    ∧ (∀ o : AccOps, (Instr.mdrain c o).wf = true → s.goes c (.mdrain c o) 1 = some e → a.orderedMul o.q = true →
      fails (.mdrain c o) o.q o.acc
      ∧ (settled o.q o.acc →
        let os := [(RdAs.w32, o.a), (.w32, o.b)]
        let at_ : Int := (e.opnd os e.lowest 0).toNat + o.off.toInt
        let pitch := if o.b = .zero then 512 else (e.opnd os e.lowest 1).toNat
        (at_ % 16 ≠ 0 ∨ pitch % 16 ≠ 0 ∨ pitch < 512 → Traps s e (.mdrain c o) { cause := 0x01 })
        ∧ (at_ % 16 = 0 → pitch % 16 = 0 → 512 ≤ pitch → ∀ f : Nat → LaneOp,
          (∀ m < 16, (e.latched os).locate { tier := .smem, n := 512, reads := false, writes := true, align := some 16 }
            [{ slot := e.lowest, a := at_ + ((m * pitch : Nat) : Int) }] = .ok ((e.latched os).s, [f m])) →
          (a.failOn o.q = none → (a.opsOn o.q).length < 8) →
          posts (.mdrain c o) fun t x => x.lanes = (List.range 16).map f ∧ x.args.take 2048 = (List.range 2048).map (seen o.q o.acc)
            ∧ (t.arr e.p).ops = a.ops ++ [{ kind := .drain, qmask := 2 ^ o.q, group := e.gi, op := x.id }]
            ∧ ∀ q acc j, j < 2048 → acc < 8 → o.acc < 8 →
              (t.arr e.p).elem q acc j = if o.clr = true ∧ q = o.q ∧ acc = o.acc then 0 else a.elem q acc j)))
    ∧ (∀ o : AccOps, (Instr.macc c o).wf = true → s.goes c (.macc c o) 1 = some e → a.orderedMul o.q = true →
      fails (.macc c o) o.q o.acc
      ∧ (settled o.q o.acc → a.failOn o.q = none → 8 ≤ (a.opsOn o.q).length → Holds s e (.macc c o) (.array [o.q] false))
      ∧ (settled o.q o.acc → (a.failOn o.q = none → (a.opsOn o.q).length < 8) → posts (.macc c o) fun t x =>
        (t.arr e.p) = { a with ops := a.ops ++ [{ kind := .drain, qmask := 2 ^ o.q, group := e.gi, op := x.id }] }
        ∧ x.writes = e.act.flatMap fun n => (List.range 4).map fun j =>
            ⟨n, o.dst.code + j, BitVec.ofNat 32 (seen o.q o.acc (4 * bits (e.opnd [(.w32, o.a)] n 0).toNat 10 2 + j))⟩)))
  ∧ (∀ (c : Ctl) (mask acc : Nat) (s : State) (p gi id : Nat) (o : Op) (x : AOp), Pending s p gi id o → o.i = .mzero c mask acc → acc < 8 →
    (s.arr p).ops.find? (fun y => y.group == gi && y.op == id) = some x → x.kind = .mzero acc → (s.arr p).canRun x = true →
    ∃ t, exec (.tokenCountdown p gi id) s = .next t ∧ Completes s t p gi o [] ∧ SameBytes s t ∧ (t.arr p).ops = (s.arr p).ops.erase x
      ∧ ∀ q k j, j < 2048 → k < 8 → q < 4 → (t.arr p).elem q k j = if k = acc ∧ x.qmask.testBit q = true then 0 else (s.arr p).elem q k j)

/-- R166 to R169, R175: MCKS, MLOC and AINFO report at their issue; MFIX and MRETRY are posted, a retry starting where a failure writes the
tile and none runs; MFIX accepts the located element's correction when it counts down. -/
def Obligations.InspectionAndRepair : Prop :=
  (∀ (c : Ctl) (s : State) (e : Iss), e.act ≠ [] → e.canPost c = true →
    let a := s.arr e.p
    let reports (i : Instr) (o : AccOps) (d : Dst) (words v : Nat) (mul : Bool) : Prop := i.wf = true → s.goes c i 1 = some e →
      (mul = true → a.orderedMul o.q = true) → ∃ t x, exec i s = .next t ∧ e.Posts s t c i x ∧ e.PostFrame s t
        ∧ x.writes = dstWrites d words (e.act.map fun n => (n, BitVec.ofNat 64 v))
    (∀ o, reports (.mcks c o) o o.dst 1 (match a.failOfTile o.q o.acc with
      | none => if a.ops.any (·.addsTo o.q o.acc) then 2 ^ 28 else 0
      | some f => 2 ^ 31 + (if f.single.isSome then 2 ^ 30 else 0) + (if f.retry.isSome then 2 ^ 29 else 0)
          + (if a.ops.any (·.addsTo o.q o.acc) then 2 ^ 28 else 0) + 2 ^ 26 * min 2 (a.heldOf f.job.rcd.qmask)
          + (if f.job.rcd.dense then 2 ^ 25 else 0) + 2 ^ 20 * f.job.rcd.qmask) true)
    ∧ (∀ o, reports (.mloc c o) o o.dst 2 (mlocWord a o.q o.acc) true)
    ∧ (∀ o sel, reports (.ainfo c sel o) o o.dst 1 (ainfoWord (s.core e.p) o.q sel o.slotBase) false)
    ∧ (∀ o, (Instr.mfix c o).wf = true → s.goes c (.mfix c o) 1 = some e → a.orderedMul o.q = true →
      ∃ t x, exec (.mfix c o) s = .next t ∧ e.Posts s t c (.mfix c o) x ∧ e.PostFrame s t)
    ∧ (∀ rep o, (Instr.mretry c rep o).wf = true → s.goes c (.mretry c rep o) 1 = some e → a.orderedMul o.q = true →
      ∃ t x, exec (.mretry c rep o) s = .next t ∧ e.Posts s t c (.mretry c rep o) x ∧ e.Beside s t
        ∧ (a.failOfTile o.q o.acc = none → x.args = [2] ∧ t.arr e.p = a)
        ∧ (∀ f, a.failOfTile o.q o.acc = some f → f.retry ≠ none → x.args = [3] ∧ t.arr e.p = a)
        ∧ (∀ f, a.failOfTile o.q o.acc = some f → f.retry = none → x.args = []
          ∧ (t.arr e.p).fails = a.fails.map fun y => if y = f then { y with retry := some (rep, e.gi, x.id) } else y)))
  ∧ (∀ (c : Ctl) (m : AccOps) (s : State) (p gi id : Nat) (o : Op), Pending s p gi id o → o.i = .mfix c m →
    let status (v : Nat) (f : State → Prop) : Prop := let ws := dstWrites m.dst 1 (o.act.map fun j => (j, BitVec.ofNat 64 v))
      (s.group p gi).awaits id ws → ∃ t, exec (.tokenCountdown p gi id) s = .next t ∧ Completes s t p gi o ws ∧ SameBytes s t ∧ f t
    let a := s.arr p
    (a.failOfTile m.q m.acc = none → status 2 fun t => t.arr p = a)
    ∧ (∀ f, a.failOfTile m.q m.acc = some f → f.retry ≠ none → status 3 fun t => t.arr p = a)
    ∧ (∀ f, a.failOfTile m.q m.acc = some f → f.retry = none → f.single = none → status 1 fun t => t.arr p = a)
    ∧ (∀ f, a.failOfTile m.q m.acc = some f → f.retry = none → f.single ≠ none → status 0 fun t => (t.arr p).fails = a.fails.erase f))

/-- R124, R139, R140, R143, R149, R151 to R153, R160: the arrays' events. Sub-arrays whose turn has come, and that no failure holds, change
mode, with empty storage and a directory of the tiles that are still to be written; a due calibration is made; the tile write that is first in its order ends with its blocks, or faulted. -/
def Obligations.ArrayEvents : Prop := ∀ (s : State) (p : Nat), let a := s.arr p
  let calibrated (t : State) (q : Nat) : Prop := ((t.arr p).sub q).samples = 0 ∧ ((t.arr p).sub q).calTemp = (s.core p).temp
    ∧ ((t.arr p).sub q).calDue = false ∧ ((t.arr p).sub q).tiles = (a.sub q).tiles ∧ ((t.arr p).sub q).mul = (a.sub q).mul
    ∧ ((t.arr p).sub q).spares ≤ (a.sub q).spares
  (∀ o rest mul, a.ops = o :: rest → o.kind = .mode mul → a.subs.length = 4 →
    let ready (q : Nat) : Prop := q < 4 ∧ o.names q = true ∧ a.failOn q = none ∧ s.windowBusy p q = false
    (∃ q, ready q) → ∃ t qs, exec (.modeChangeComplete p) s = .next t ∧ qs ≠ [] ∧ (∀ q ∈ qs, ready q)
      ∧ (∀ q < 4, ((t.arr p).sub q).mul = if q ∈ qs then mul else (a.sub q).mul)
      ∧ (∀ q < 4, ((t.arr p).sub q).tiles = if q ∈ qs ∧ (a.sub q).mul ≠ mul then (a.sub q).tiles.filter (·.writing) else (a.sub q).tiles)
      ∧ (o.qmask < 16 → (∀ q, q < 4 → o.names q = true → q ∈ qs) → (t.arr p).ops = rest)
      ∧ (mul = false → ∀ k, memGet t.mem k
        = if ∃ q ∈ qs, (a.sub q).mul = true ∧ windowKey p (0x80000 * (q + 1)) ≤ k ∧ k < windowKey p (0x80000 * (q + 2)) then 0 else memGet s.mem k))
  ∧ (∀ q < a.subs.length, (s.core p).calDue q = true →
    ∃ t, exec (.calibrationTrigger p q) s = .next t ∧ ((t.arr p).sub q).calDue = true ∧ SameBytes s t ∧ (t.arr p).ops = a.ops)
  ∧ (∀ q < a.subs.length, (a.sub q).mul = true →
    (a.ops.find? (·.names q) = none → (s.core p).calDue q = true →
      ∃ t, exec (.calibrationComplete p q) s = .next t ∧ calibrated t q ∧ (t.arr p).ops = a.ops)
    ∧ (∀ o j, a.ops.find? (·.names q) = some o → o.kind = .mma j → a.failOn q = none → (s.core p).calDue q = true →
      ∃ t, exec (.calibrationComplete p q) s = .next t ∧ calibrated t q ∧ (t.arr p).ops = a.ops)
    ∧ (∀ o, a.ops.find? (·.names q) = some o → o.kind = .cal → a.failOn q = none →
      ∃ t, exec (.calibrationComplete p q) s = .next t ∧ calibrated t q ∧ (o.qmask = 2 ^ q → (t.arr p).ops = a.ops.erase o)))
  ∧ (∀ (c : Ctl) (m : TileOps) (q base width : Nat) (x : AOp) (o : Op) (l : LaneOp) (y : Tile), a.ops.find? (·.names q) = some x →
    x.kind = .write q base width → a.canRun x = true → Pending s p x.group x.op o → o.i = .awr c m → o.lanes = [l] →
    (s.group p x.group).blocked x.group o l.slot (some l) true = false → (a.sub q).tile? base = some y →
    (∀ b ∈ a.opsOn q, b ≠ x → ∀ q' b' w', b.kind = .write q' b' w' → rangesMeet b' w' base width = false) →
    (∀ b ∈ a.opsOn q, ∀ j, b.kind = .mma j → j.rcd.base = base → j.tiles.any (·.1 == q) = true) →
    let slot := o.args.headD 34
    let k := windowKey p l.va
    (∀ i < 512, s.poisonAt (k + i * slot) slot = none) →
    let raws := (List.range 512).map fun i => RawIn.block (memTake s.mem (k + i * slot) slot)
    (∀ bs, buildTile m.dense slot width (fun _ => 0) raws = .ok bs →
      ∃ t, exec (.tileWriteComplete p q) s = .next t ∧ Completes s t p x.group o [] ∧ SameBytes s t
        ∧ ((t.arr p).sub q).tile? base = some { y with writing := false, blocks := bs } ∧ (t.arr p).ops = a.ops.erase x)
    ∧ (buildTile m.dense slot width (fun _ => 0) raws = .error () →
      ∃ t, exec (.tileWriteComplete p q) s = .next t ∧ Completes s t p x.group o [] ∧ SameBytes s t
        ∧ ((t.arr p).sub q).tile? base = some { y with writing := false, fault := some .format } ∧ (t.arr p).ops = a.ops.erase x))

/-- R158 to R160, R169: a verdict. Where every check passes and no staging tile met an error, each element of the MMA's tiles has its combined value added, once, to
nearest, and its signers' operations are over; otherwise the failure is kept with what was converted and no element changes. A retry is judged
in the same way, at the greater repeat. No pass starts where a move or a save is honoured or waits for nothing more (R370). Every participating sub-array has its tile (log entry 86 says what a missing one gives). -/
def Obligations.MatrixVerdicts : Prop := ∀ (s : State) (p q : Nat), let a := s.arr p
  let whole (j : Job) : Prop := ∀ k < 4, j.rcd.qmask.testBit k = true → j.tiles.any (·.1 == k) = true
  let adds (t : State) (j : Job) (sts : List Stage) : Prop :=
    let part (m n k : Nat) : Nat := ((j.passes.zip sts).find? (·.1.q == k)).elim 0 fun e => e.1.partialSum e.2.d.toArray m n
    ∀ k acc i, k < 4 → acc < 8 → i < 2048 → (t.arr p).elem k acc i = if (k, acc) ∈ j.rcd.tiles
      then addRne (a.elem k acc i) (combineOf j.rcd.shape (part (i / 128) (i % 128)) k) else a.elem k acc i
  (∀ o j u sts cs rs, a.ops.find? (·.names q) = some o → o.kind = .mma j → j.rcd.acc < 8 → whole j → a.canRun o = true → (s.core p).mayPass = true →
    (∀ k < 4, o.names k = true → (s.core p).calDue k = false) → s.draw.runPass p j j.rcd.rep j.inj = (u, sts) → u.judge j j.rcd.rep sts = (cs, rs) →
    (accepted sts cs rs = true → ∃ t, exec (.mmaVerdict p q) s = .next t ∧ adds t j sts ∧ (t.arr p).fails = a.fails ∧ (t.arr p).ops = a.ops.erase o
      ∧ ∀ r ∈ j.refs, (t.group p r.1).op? r.2 = none)
    ∧ (accepted sts cs rs = false → ∃ t f, exec (.mmaVerdict p q) s = .next t ∧ (t.arr p).acc = a.acc ∧ (t.arr p).ops = a.ops.erase o
      ∧ (t.arr p).fails = a.fails ++ [f] ∧ f.job = j ∧ f.stages = sts ∧ f.retry = none ∧ (t.arr p).seen = a.seen ||| j.rcd.qmask))
  ∧ (∀ f rep gi id u sts cs rs, a.failOn q = some f → f.retry = some (rep, gi, id) → f.job.rcd.acc < 8 → whole f.job → (s.core p).mayPass = true →
    let n := max f.job.rcd.rep rep
    s.draw.runPass p f.job n none = (u, sts) →
    u.judge f.job n sts = (cs, rs) →
    (accepted sts cs rs = true → ∃ t, exec (.retryVerdict p q) s = .next t ∧ adds t f.job sts ∧ (t.arr p).fails = a.fails.erase f ∧ (t.arr p).ops = a.ops)
    ∧ (accepted sts cs rs = false → ∃ t f', exec (.retryVerdict p q) s = .next t ∧ (t.arr p).acc = a.acc ∧ (t.arr p).ops = a.ops
      ∧ f'.job = f.job ∧ f'.stages = sts ∧ f'.retry = none ∧ (t.arr p).fails = a.fails.map fun x => if x = f then f' else x))

/-- R117, R120, R134, R135, R172: a pass that suffers no conversion error passes every check, in exact mode and, at the tolerances of reset,
in dense mode whatever the free deviations of its conversions; each such deviation lies within R120's bound. -/
def Obligations.SoundPassesPassTheirChecks : Prop :=
  (∀ (j : Job) (q draws rep : Nat) (t : Tile), (∀ b ∈ t.blocks, b.zero = true ∨ b.a.length = 32) → (∀ b ∈ j.b, b.codes.length = 32) →
    let x := passIn j q t
    x.checks (x.convert draws rep j.rcd.sw []).1 (fun _ => 0x00100000) rep j.rcd.sw = ([], []))
  ∧ ∀ draws place rep, 4 * (denseOff draws place rep).natAbs ≤ 16 * boundQ rep

/-! Class 5 (spec/10_async_engines.md, spec/14_migration.md). -/

/-- R262 to R265, R271: BCOPY and BCOPYM are posted, and their group supplies its slice of its next copy with the registers of its block, where
their ranges lie in their windows, are aligned, and agree with what the other groups supplied; BROOM is posted with what it waits for. -/
def Obligations.EngineIssues : Prop := ∀ (c : Ctl) (s : State) (e : Iss), e.act ≠ [] → e.canPost c = true → e.tandem = false →
  let supplies (i : Instr) (o : CopyOps) (boxed : Bool) (block : List Word) (off : Nat) (ranges : Workgroup → Prop) (f : Slice → Prop) : Prop :=
    ∀ w : Workgroup, e.w = some w → i.wf = true → s.goes c i 1 = some e →
    let k := (s.group e.p e.gi).copyNo
    k < 2 ^ 32 → (∀ y ∈ (s.core e.p).past, 2 ^ 32 ≤ y.k) →
    (∀ y, w.copy? k = some y → y.bcopym = boxed ∧ y.scope = o.scope ∧ y.bar = o.bar ∧ (o.bar ≠ 0 → ∀ f, y.barOff = some f → f = off)) →
    (w.copy? k = none → (w.copies.filter fun y => !y.started && !y.slices.isEmpty).length < 8) →
    ranges w → (o.bar ≠ 0 → (e.s.windowOf w (if o.bar = 1 then .smem else .cmem) off 16).isSome = true ∧ off % 16 = 0) →
    ∃ t x w' y z, exec i s = .next t ∧ e.Posts s t c i x ∧ x.args = [k] ∧ e.SameRegs s t ∧ e.Falls s t e.head
      ∧ (t.group e.p e.gi).copyNo = k + 1 ∧ (t.core e.p).wg = some w' ∧ y ∈ w'.copies ∧ y.k = k ∧ z ∈ y.slices ∧ z.group = e.gi ∧ z.i = i
      ∧ z.act = e.act ∧ z.block = block ∧ f z
      ∧ (boxed = false → (∀ y, w.copy? k = some y → ∀ z ∈ y.slices, z.boxed = false) → SameBytes s t)
  (∀ o : CopyOps, let block := e.regBlock o.block 6
    let r (j : Nat) : Nat := (block.getD j 0).toNat
    let addr (tier j : Nat) : Nat := if tier = 0 then r j + r (j + 1) * 2 ^ 32 else r j
    supplies (.bcopy c o) o false block (r 5)
      (fun w => e.s.rangeOk w (o.st, addr o.st 0, r 4) = true ∧ e.s.rangeOk w (o.dt, addr o.dt 2, r 4) = true
        ∧ addr o.st 0 % 16 = 0 ∧ addr o.dt 2 % 16 = 0 ∧ r 4 % 16 = 0)
      fun z => z.src = addr o.st 0 ∧ z.dst = addr o.dt 2 ∧ z.len = r 4)
  ∧ (∀ o : CopyOps, let block := e.regBlock o.block 8
    let r (j : Nat) : Nat := (block.getD j 0).toNat
    let va := r 0 + r 1 * 2 ^ 32
    let box := (r 6 % 2 ^ 16) * (r 6 / 2 ^ 16 % 2 ^ 16) * (r 7 % 2 ^ 16) * (r 7 / 2 ^ 16 % 2 ^ 16)
    supplies (.bcopym c o) o true block (r 3)
      (fun w => va + 64 ≤ 2 ^ 57 ∧ va % 64 = 0 ∧ r 2 % 16 = 0 ∧ e.s.rangeOk w (o.st, r 2, box) = true
        ∧ ∃ unit, e.boxUnit w va = .ok unit ∧ e.s.rangeOk w (o.st, r 2, box * unit.getD 0) = true)
      fun z => z.src = r 2)
  ∧ ((Instr.broom c).wf = true → s.goes c (.broom c) 1 = some e →
    ∃ t x, exec (.broom c) s = .next t ∧ e.Posts s t c (.broom c) x ∧ e.PostFrame s t ∧ x.args = e.s.broomList e.p e.ctx)

/-- R249, R276, R277, R279: NMAR and GRED are posted with their lanes, as a global read-modify-write and a global load of 4 bytes; NMA is entered
with its lanes and counted on no token; BDOT is posted with its two addresses and its length, or traps where an address is outside, misaligned
or of a range that a copy writes. -/
def Obligations.NearMemoryAccesses : Prop := ∀ (c : Ctl) (o : NmuOps),
  let second : Src := match o.b with | .x n => .x (n + o.ty.words) | d => d
  let os := [(RdAs.w64z, o.base), (dataAs o.ty.words, o.b), (dataAs o.ty.words, second)]
  let lanes (e : Iss) : List LaneReq := e.act.map fun n => let v := e.opnd os n
    { slot := n, a := (v 0).toNat + o.off.toInt, v := if o.op = .cas then v 2 else v 1, v2 := if o.op = .cas then v 1 else 0 }
  let unit : AccReq := { tier := .glob, n := 4 * o.ty.words, reads := true, writes := true }
  AccessPost c (.nmar c o) unit os lanes (fun _ => [])
  ∧ AccessPost c (.gred c o) { tier := .glob, n := 4, reads := true, writes := false } [(.w64z, o.base)]
    (fun e => e.act.map fun n => { slot := n, a := (e.opnd [(.w64z, o.base)] n 0).toNat + o.off.toInt })
    (fun _ => [])
  ∧ (∀ (s u : State) (e : Iss) (los : List LaneOp), (Instr.nma c o).wf = true → s.goes c (.nma c o) 1 = some e → e.act ≠ [] → e.tandem = false →
    (e.latched os).locate unit (lanes e) = .ok (u, los) →
    ((∀ l ∈ los, l.miss = false) →
      ∃ t x, exec (.nma c o) s = .next t ∧ e.Enters s t (.nma c o) x ∧ x.tok = none ∧ x.lanes = los ∧ e.SameRegs s t ∧ e.Near s t ∧ e.Falls s t e.head)
    ∧ ((∃ l ∈ los, l.miss = true) →
      ∃ t x, exec (.nma c o) s = .next t ∧ e.Enters s t (.nma c o) x ∧ x.tok = none ∧ x.lanes = los ∧ e.SameRegs s t
        ∧ (t.group e.p e.gi).park = some .replay ∧ (t.group e.p e.gi).run = none))
  ∧ ∀ (s : State) (e : Iss), (Instr.bdot c o).wf = true → s.goes c (.bdot c o) 1 = some e → e.act ≠ [] →
    let v (j : Nat) : Nat := (e.opnd [(RdAs.w64z, o.base), (.w64z, o.b), (.w32, o.c)] e.lowest j).toNat
    let locked (a : Nat) : Prop := (e.s.core e.p).lockHit e.ctx 0 a (v 2 * (tyWidth o.ty / 8)) false (e.s.logical e.p % 16) ≠ none
    let traps (cause : Nat) : Prop := ∃ y : Trap, y.cause = cause ∧ Traps s e (.bdot c o) y
    ((2 ^ 57 ≤ v 0 ∨ 2 ^ 57 ≤ v 1) → traps 0x0C)
    ∧ (v 0 < 2 ^ 57 → v 1 < 2 ^ 57 → (v 0 % 32 ≠ 0 ∨ v 1 % 32 ≠ 0) → traps 0x03)
    ∧ (v 0 < 2 ^ 57 → v 1 < 2 ^ 57 → v 0 % 32 = 0 → v 1 % 32 = 0 → (locked (v 0) ∨ locked (v 1)) → traps 0x0F)
    ∧ (v 0 < 2 ^ 57 → v 1 < 2 ^ 57 → v 0 % 32 = 0 → v 1 % 32 = 0 → ¬locked (v 0) → ¬locked (v 1) → e.canPost c = true →
      ∃ t x, exec (.bdot c o) s = .next t ∧ e.Posts s t c (.bdot c o) x ∧ e.PostFrame s t ∧ x.args.take 3 = [v 0, v 1, v 2])

/-- R217, R219, R264, R267 to R269: a segment of a copy between scratchpads moves exactly its bytes, some of its 8-byte units left at a time and all in the end,
at its first try or at its replay; the end of
a copy leaves its slices' status pairs, removes the copy and releases its lock; a BROOM ends when nothing that it waits for is outstanding.
The order of a copy's reports is the model's reading (log entry 24). -/
def Obligations.CopiesProgress : Prop :=
  (∀ (s : State) (p k gi j : Nat) (c : Ctl) (o : CopyOps) (y : Copy) (x : Slice),
    s.sliceAt p k gi = some (y, x) → y.k = k → x.group = gi → x.i = .bcopy c o → o.st = 1 → o.dt = 1 → s.mayLand p y x j = true →
    (y.bar = 0 ∨ x.gone = true) →
    let n := min 128 (x.len - 128 * j)
    let a := x.src + 128 * j; let b := x.dst + 128 * j
    a + n ≤ 2 ^ 19 → b + n ≤ 2 ^ 19 → (s.core p).mirrorHit b n = none → (s.core p).l1Stores = [] →
    (∀ i < n, s.poisonAt (windowKey p (a + i)) 1 = none ∧ s.lostAt (windowKey p (b + i)) = false) → x.unitsLeft j ≠ [] →
    let lands (i : Instr) : Prop := ∃ t y' x' us, exec i s = .next t ∧ us ≠ [] ∧ (∀ u ∈ us, u ∈ x.unitsLeft j)
      ∧ (∀ i < n, i / 8 ∈ us → memGet t.mem (windowKey p (b + i)) = memGet s.mem (windowKey p (a + i)))
      ∧ (∀ m, (∀ i < n, i / 8 ∈ us → m ≠ windowKey p (b + i)) → memGet t.mem m = memGet s.mem m)
      ∧ t.sliceAt p k gi = some (y', x') ∧ x'.done = x.done + (List.range n).countP fun i => us.contains (i / 8)
      ∧ ((∀ u ∈ x.unitsLeft j, u ∈ us) → x'.written = x.written ++ [j] ∧ (gi, j) ∉ y'.fix)
      ∧ ((∃ u ∈ x.unitsLeft j, u ∉ us) → x'.written = x.written ∧ x'.unitsLeft j = (x.unitsLeft j).filter (!us.contains ·))
    ((gi, j) ∉ y.fix → j < y.high x + 32 → y.fix.length < 64 → lands (.copySegmentLand p k gi j))
    ∧ (∀ rest, y.fix = (gi, j) :: rest → lands (.fixupReplay p k)))
  ∧ (∀ (s : State) (p k : Nat) (y : Copy), (s.core p).copy? k = some y → y.over = true → s.barSaved y = false → (∀ w, (s.core p).wg = some w → w.tandem = none) →
    ∃ t, exec (.copyEnd p k) s = .next t ∧ (t.core p).copy? k = none
      ∧ (∀ n l, mfind (t.core p).locks n = some l → l.opc = 0xAB ∨ l.k ≠ k)
      ∧ (k < 2 ^ 32 → y.slices.Pairwise (fun a b => a.group ≠ b.group) → (∀ n, ∀ o ∈ (s.group p n).ops, o.twin = none) → ∀ x ∈ y.slices, x.act ≠ [] → ∀ o, s.sliceOp p y x = some (x.group, o) →
        x.group < 64 → Pending s p x.group o.id o →
        let ws := dstWrites x.copyOps.dst 2 (o.act.map fun n => (n, BitVec.ofNat 64 (y.status x)))
        (s.group p x.group).awaits o.id ws → Completes s t p x.group o ws))
  ∧ (∀ (s : State) (p gi id : Nat) (c : Ctl) (o : Op), Pending s p gi id o → o.i = .broom c →
    (∀ n ∈ o.args, (n % 2 = 0 → (∀ x ∈ s.everyOp, x.issued ≠ n / 2) ∧ ∀ e ∈ s.panniers, ∀ x, e.2.acc = some x → x.issued ≠ n / 2)
      ∧ (n % 2 = 1 → ∀ e ∈ s.cores, ∀ y ∈ e.2.past ++ e.2.wg.elim [] (·.copies), y.no ≠ n / 2)) →
    ∃ t, exec (.broomProbeReturn p gi id) s = .next t ∧ Completes s t p gi o [] ∧ SameBytes s t)

/-- R275 to R280: a near-memory command is performed: a read-modify-write of one lane at its place; a BDOT of no elements, of too many, or
with the sum of its columns; a GRED with its partials. NMU_REFRESH changes nothing. -/
def Obligations.NearMemoryCommands : Prop :=
  (∀ (s : State) (n : Nat), exec (.nmuRefresh n) s = .next s)
  ∧ ∀ (s : State) (p gi id : Nat) (c : Ctl) (m : NmuOps) (o : Op), Pending s p gi id o →
  let g := s.group p gi
  (∀ (l : LaneOp) (k : AccKind) (a : Nat), (o.i = .nma c m ∨ o.i = .nmar c m) → o.i.accKind = some k → o.lanes = [l] → o.ue = none → s.open p gi o l a →
    let old := s.read a l.size
    (m.op = .cas → old = l.v2.toNat) → s.waitsAs p gi k o l.slot (some l) = false → (s.core p).l1Pending none a l.size = false →
    let ws := o.laneWrites l.slot (BitVec.ofNat 64 old)
    g.awaits id ws → ∃ t, exec (.nmuCommandComplete p gi id) s = .next t ∧ Completes s t p gi o ws ∧ BytesBut s t a l.size
      ∧ t.read a l.size = rmwNew m.op m.ty old (l.v.toNat % 256 ^ l.size) (l.v2.toNat % 256 ^ l.size) % 256 ^ l.size)
  ∧ (∀ va vb n, o.i = .bdot c m → o.args = [va, vb, n, 0, 0] →
    let result (r status : Nat) : Prop := let ws := dstWrites m.dst 2 (o.act.map fun j => (j, BitVec.ofNat 64 (r + 2 ^ 32 * status)))
      g.awaits id ws → ∃ t, exec (.nmuCommandComplete p gi id) s = .next t ∧ Completes s t p gi o ws
    (2 ^ 24 < n → result 0x7FC00000 (2 ^ 31 + 2 ^ 27 * 8))
    ∧ (n = 0 → result 0 0)
    ∧ (0 < n → n ≤ 2 ^ 24 → s.waitsAny p gi o = false → (let b := n * (tyWidth m.ty / 8); g.readWaits gi o [(va, b), (vb, b)] = false) →
      ∀ u d, s.draw.dotGo p o.ctx o.host m.ty va vb n ((n * (tyWidth m.ty / 8) + 31) / 32) 0 {} = (u, .ok d) →
      (d.code = 0 → d.ue = none → result d.r 0) ∧ (d.code ≠ 0 → d.ue = none → result 0x7FC00000 (2 ^ 31 + 2 ^ 27 * d.code))))
  ∧ (o.i = .gred c m → o.ue = none → (∀ l ∈ o.lanes, l.refused = none ∧ s.waits p gi o l.slot (some l) = false
      ∧ ∃ k, l.key = some k ∧ k < 2 ^ 40 ∧ s.reaches (pdie p) k = true ∧ s.poisonAt k 4 = none ∧ (s.core p).l1Pending none k 4 = false
        ∧ s.leaseWaits k 4 false = false ∧ s.flagged.contains (k / 2 ^ 16) = false) →
    let parts := gredParts m.op m.ty (o.lanes.map fun l => ⟨some (bankKey (l.key.getD 0)), l.va, l.slot, .ok (s.read (l.key.getD 0) 4)⟩)
    let ws := dstWrites m.dst 2 (o.act.mapIdx fun r n => (n, BitVec.ofNat 64 ((parts.getD r (0, 0xFFFFFFFF)).1 + 2 ^ 32 * (parts.getD r (0, 0xFFFFFFFF)).2)))
    g.awaits id ws → ∃ t, exec (.nmuCommandComplete p gi id) s = .next t ∧ Completes s t p gi o ws ∧ SameBytes s t)

/-- R344, R346, R361 to R364: MIGSET sets the live set of the active lanes; MIGTO does nothing where no lane travels and otherwise departs;
MIGRET sends away threads home and does nothing for others; MIGQ is posted with its answer for each lane. -/
def Obligations.MigrationInstructions : Prop := ∀ (c : Ctl),
  (∀ (live : BitVec 48) (s : State) (e : Iss), (Instr.migset c live).wf = true → s.goes c (.migset c live) 1 = some e →
    ∃ t, exec (.migset c live) s = .next t ∧ e.SameRegs s t ∧ e.Local s t ∧ e.Falls s t e.head
      ∧ ∀ n, ((t.group e.p e.gi).thread? n).map (·.live) = ((s.group e.p e.gi).thread? n).map fun u => if n ∈ e.act then live else u.live)
  ∧ (∀ (o : MigOps) (s u : State) (e : Iss) (los : List LaneOp), (Instr.migto c o).wf = true → s.goes c (.migto c o) 1 = some e → e.act ≠ [] →
    e.tandem = false → (e.latched (e.migReqs o).2.2).locate (e.migReqs o).1 (e.migReqs o).2.1 = .ok (u, los) → (∀ l ∈ los, l.miss = false) →
    ((∀ l ∈ los, l.trav ≠ .due) → ∃ t, exec (.migto c o) s = .next t ∧ e.SameRegs s t ∧ e.Near s t ∧ e.Falls s t e.head
      ∧ (t.group e.p e.gi).ops = (s.group e.p e.gi).ops)
    ∧ ((∃ l ∈ los, l.trav = .due) → ∃ t x, exec (.migto c o) s = .next t ∧ e.Enters s t (.migto c o) x ∧ x.tok = none
      ∧ x.lanes = (los.map fun l => { l with done := decide (l.trav ≠ .due) }) ∧ e.SameRegs s t ∧ e.Near s t
      ∧ (t.group e.p e.gi).park = some (.travel x.id) ∧ (t.group e.p e.gi).run = none))
  ∧ (∀ (s : State) (e : Iss), (Instr.migret c).wf = true → s.goes c (.migret c) 1 = some e →
    (e.guest = false → ∃ t, exec (.migret c) s = .next t ∧ e.Quiet s t ∧ e.Falls s t e.head)
    ∧ (e.guest = true → e.act ≠ [] → ∃ t x, exec (.migret c) s = .next t ∧ e.Enters s t (.migret c) x ∧ x.tok = none ∧ e.SameRegs s t ∧ e.Local s t
      ∧ (∀ n ∈ e.act, ∃ l ∈ x.lanes, l.slot = n ∧ l.trav = .due) ∧ (t.group e.p e.gi).park = some (.travel x.id) ∧ (t.group e.p e.gi).run = none))
  ∧ (∀ o : MigOps, PostResult c (.migq c o) o.dst 1 fun e n =>
      BitVec.ofNat 64 (e.migQuery (e.migReqs o).1 { slot := n, a := (e.opnd (e.migReqs o).2.2 n 0).toNat + o.off.toInt }))
  ∧ (∀ (e : Iss) (q : AccReq) (l : LaneReq), (e.place q l = none → e.migQuery q l = 0)
    ∧ (∀ x, e.place q l = some x → q.tier = .cmem → x.lc = e.s.logical e.p →
      e.migQuery q l = 2 ^ 31 + 2 ^ 30 + 2 ^ 16 * (e.s.freeSlots x.lc).length + x.lc)
    ∧ (∀ x r, e.place q l = some x → q.tier = .cmem → x.lc ≠ e.s.logical e.p → (e.thread l.slot).returns x.lc = false → (e.thread l.slot).hop < 4 →
      e.s.refuses (e.s.logical e.p) x.lc (e.s.ctxAt e.p e.gi l.slot) = r →
      e.migQuery q l = 2 ^ 31 + 2 ^ 26 * (match r with | some k => k | none => if e.s.freeSlots x.lc = [] then 4 else 0)
        + 2 ^ 16 * (e.s.freeSlots x.lc).length + x.lc))

/-- R346, R348 to R352, R358, R370, R371: the steps of a journey and of a relocation: a drained departure asks for its slots; an answer reserves
a slot and the thread leaves with its registers, or it waits and asks again 256 ticks later; an arriving thread is installed in its slot or in
its origin entry; an honoured move takes the workgroup with its window to the target, and leaves the old core's window clear. The lowest free
slot is taken, a move is honoured at once, and what stays at the old core is chosen (the model's: log entries 64, 73, 89). -/
def Obligations.TravelEvents : Prop := ∀ (s : State) (p gi : Nat), ((s.core p).group? gi).isSome = true →
  let g := s.group p gi
  (∀ o : Op, g.travelling (· == .due) = some o → s.departReady p gi o = true → (gi = guestIx → ∀ u ∈ g.threads, u.bound = none) → (∀ l ∈ o.lanes, l.refused = none) →
    (∀ l ∈ o.lanes, l.trav = .due → ∃ u d, g.thread? l.slot = some u ∧ s.dest p gi o l = some d ∧ refusedAtDrain o.i u d = none) →
    ∃ t x, exec (.travelDrainEnd p gi) s = .next t ∧ (t.group p gi).op? o.id = some x ∧ SameBytes s t
      ∧ x.lanes = o.lanes.map fun l => if l.trav = .due then { l with trav := .asked 1 } else l)
  ∧ (∀ (lane n d : Nat) (o : Op) (l : LaneOp) (u : Thread),
    (g.ops.findSome? fun o => (o.lanes.find? fun l => l.slot == lane && (match l.trav with | .asked _ => true | _ => false)).map fun l => (o, l)) = some (o, l) →
    l.trav = .asked n → g.thread? lane = some u → s.dest p gi o l = some d → s.moving d = false → u.returns d = false →
    s.refuses (s.logical p) d (s.ctxAt p gi lane) = none → gi ≠ guestIx → o.ue = none →
    (∀ m rest, s.freeSlots d = m :: rest → ∃ t a, exec (.slotRequestAnswer p gi lane) s = .next t ∧ mfind t.panniers s.nextPannier = some a
      ∧ a.dest = d ∧ a.slot = m ∧ a.hop = u.hop + 1 ∧ a.live = u.live ∧ a.p = u.p
      ∧ a.regs = (carriedSet o.i u).map (fun r => (r, mget 0 u.x r)) ∧ a.pc = (if o.i.moves = true then nextPC o.pc else o.pc)
      ∧ a.fromCore = s.logical p ∧ a.fromGroup = gi ∧ SameBytes s t
      ∧ (u.origin = none → ((t.group p gi).thread? lane).map (fun x => (x.st, x.cur)) = some (.away, d)))
    ∧ (s.freeSlots d = [] → n < 17 → ∃ t x, exec (.slotRequestAnswer p gi lane) s = .next t ∧ (t.group p gi).op? o.id = some x
      ∧ x = o.setLane { l with trav := .again n s.ticks } ∧ SameBytes s t ∧ t.panniers = s.panniers))
  ∧ (∀ (lane n tick : Nat) (o : Op) (l : LaneOp),
    (g.ops.findSome? fun o => (o.lanes.find? fun l => l.slot == lane && (match l.trav with | .again _ _ => true | _ => false)).map fun l => (o, l)) = some (o, l) →
    l.trav = .again n tick → tick + 256 ≤ s.ticks →
    ∃ t, exec (.slotRequestRetry p gi lane) s = .next t ∧ (t.group p gi).op? o.id = some (o.setLane { l with trav := .asked (n + 1) }) ∧ SameBytes s t)
  ∧ (∀ (i : Nat) (a : Pannier), mfind s.panniers i = some a → a.acc = none → a.kind = 0 → s.moving a.dest = false →
    (∀ l, mfind s.launches a.origin.launch = some l → l.rolling = false) → a.regs.Pairwise (fun x y => x.1 ≠ y.1) →
    let lands (q qi slot : Nat) : Prop := ∃ t u, exec (.pannierArrival i) s = .next t ∧ mfind t.panniers i = none ∧ SameBytes s t
      ∧ (t.group q qi).thread? slot = some u ∧ u.st = .ready ∧ u.pc = a.pc ∧ u.p = a.p ∧ u.live = a.live ∧ u.hop = a.hop
      ∧ (∀ r ∈ a.regs, mget 0 u.x r.1 = r.2)
    let q := s.phys a.dest
    (a.dest ≠ a.origin.core → (s.core q).guests.thread? a.slot = none → (s.core q).guests.masks = [] → lands q guestIx a.slot)
    ∧ (a.dest = a.origin.core → a.origin.group < 64 → s.originPlaced a = true →
      lands q a.origin.group a.origin.lane))
  ∧ (∀ w, (s.core p).wg = some w → w.reloc = true → w.target ≠ none → w.honoured = false → (s.core p).atBoundary = true → s.halted (pdie p) = false →
    ∃ t, exec (.relocationHonour p) s = .next t ∧ (t.core p).wg = some { w with honoured := true } ∧ SameBytes s t)
  ∧ (∀ w k, (s.core p).wg = some w → w.target = some k → w.honoured = true → (s.core p).drainedForMove = true → s.halted (pdie p) = false → p ≠ k → p < 1088 → k < 1088 →
    s.logical p ≠ s.logical k → Memory.wf s.mem = true →
    ∃ t x, exec (.relocationRemap p) s = .next t ∧ t.phys (s.logical p) = k ∧ t.phys (s.logical k) = p
      ∧ (t.core k).wg = some x ∧ x.ctx = w.ctx ∧ x.launch = w.launch ∧ x.wg = w.wg ∧ x.lcore = w.lcore ∧ x.target = none ∧ x.honoured = false
      ∧ (∀ n slot code, n < 64 → (t.group k n).reg slot code = (s.group p n).reg slot code)
      ∧ ∀ j < windowSpan, memGet t.mem (windowKey k j) = memGet s.mem (windowKey p j) ∧ memGet t.mem (windowKey p j) = 0)

/-! The device (spec/15_translation.md, spec/01_machine.md, spec/07_memory_tiers.md, spec/08_consistency.md, spec/18_containment.md). -/

/-- R389 to R391, R394, R395: a short miss fills its page with zeros, and then makes its entry valid if it is as it was read, and walks again if
not; a nonzero answer frees its entry and ends what waited for the page; an invalidation removes the entries that it names; a SYNC is answered
in order once nothing older is left. -/
def Obligations.MissesAndInvalidation : Prop := ∀ (s : State),
  (∀ (i : Nat) (m : Miss) (size pte entry : Nat), mfind s.misses i = some m → m.swap = none → s.walk m.ctx m.page = .short size pte entry →
    let home := stackKey (pteStack pte) (pteFrame pte)
    ∃ t, exec (.shortMissResolved i) s = .next t ∧ mfind t.misses i = some { m with swap := some (entry, pte) }
      ∧ (s.lostAt home = false → ∀ j < size, memGet t.mem (home + j) = 0) ∧ ∀ a, ¬(home ≤ a ∧ a < home + size) → memGet t.mem a = memGet s.mem a)
  ∧ (∀ (i : Nat) (m : Miss) (entry e : Nat), mfind s.misses i = some m → m.swap = some (entry, e) → s.leaseWaits entry 8 true = false →
    (s.read entry 8 = e → s.poisonAt entry 8 = none → 7 ≤ e →
      (∀ c ∈ s.cores, ∀ gi, ∀ o ∈ (c.2.group gi).ops, ∀ l ∈ o.lanes, o.heldOn m.ctx m.page m.size l = false) →
      ∃ t, exec (.shortMissResolved i) s = .next t ∧ mfind t.misses i = none ∧ t.read entry 8 = e - 7 ∧ BytesBut s t entry 8)
    ∧ (s.read entry 8 ≠ e ∨ (s.poisonAt entry 8).isSome → ∃ t, exec (.shortMissResolved i) s = .next t ∧ mfind t.misses i = some { m with swap := none } ∧ SameBytes s t))
  ∧ (∀ (n k ctx page kind : Nat) (q : Part), s.part n = some q → q.fqBusy.find? (·.1 == k) = some (k, ctx, page, kind) →
    s.read (ctlKey (q.fqBase + 32 * k + 12)) 4 ≠ 0 →
    ∃ t, exec (.faultQueueResponse n k) s = .next t ∧ (∀ u ∈ t.saved, u.ctx = ctx → page ∉ u.waits)
      ∧ (q.fqWait = [] → (∀ c ∈ s.cores, ∀ gi, (c.2.group gi).ops = []) →
        (t.part n).map (·.fqBusy) = some (q.fqBusy.filter (·.1 != k)) ∧ SameBytes s t))
  ∧ (∀ asid range, let named (x : TlbEntry) : Prop := x.asid = asid ∧ ∀ a n, range = some (a, n) → rangesMeet x.base x.size a (n * 2 ^ 16) = true
    ∃ t, exec (.invalidateBroadcast asid range) s = .next t ∧ t.invals = s.invals + 1 ∧ SameBytes s t
      ∧ (∀ p x, x ∈ (t.core p).tlb ↔ x ∈ (s.core p).tlb ∧ ¬named x)
      ∧ ∀ k x, x ∈ mget [] t.walkers k ↔ x ∈ mget [] s.walkers k ∧ ¬named x)
  ∧ (∀ n, exec (.sync n) s = .next { s with syncs := s.syncs ++ [⟨n % 2 ^ 16, s.invals⟩] })
  ∧ (∀ y ys, s.syncs = y :: ys → (s.staleUpTo y.upto = false → exec (.syncAck y.n) s = .next { s with syncs := ys, outbox := s.outbox ++ [.syncAck y.n] })
    ∧ (s.staleUpTo y.upto = true → exec (.syncAck y.n) s = .next s))

/-- R23, R26, R139, R213: the arbiter's interval raises a clock by at most 100 MHz, within 1.2 and 2.5 GHz outside an emergency; a throttle
begins an emergency at 1.2 GHz; a trip halts the partition, and powers the island down at once where its stop records are written; a sample is the core's reading and makes a calibration due after a drift of 10
degrees; the cadence ticks every 128 ns, when a lost region whose home cleared its flag has no lease in force any more. The arbiter's target
clocks are an input (log entry 74), and which flag is cleared is free (log entry 83). -/
def Obligations.PowerAndTime : Prop := ∀ (s : State),
  (∀ targets, s.power + 10000 ≤ s.ticks → ∃ t, exec (.powerArbiterInterval targets) s = .next t ∧ t.power = s.ticks ∧ SameBytes s t
    ∧ t.islands.length = s.islands.length ∧ ∀ i x, s.islands[i]? = some x → ∃ y, t.islands[i]? = some y ∧ y.cycles = x.cycles
      ∧ (x.off = true → y.clock = x.clock)
      ∧ (x.off = false → (x.emergency = false ∨ s.hottest i ≤ 400) →
        y.emergency = false ∧ y.clock = min (x.clock + 4) (min 100 (max 48 (targets.getD i x.clock))))
      ∧ (x.off = false → x.emergency = true → 400 < s.hottest i → y.emergency = true
        ∧ y.clock = if 420 ≤ s.hottest i ∧ x.stepped + 10000 ≤ s.ticks then max 24 (x.clock - 1) else x.clock))
  ∧ (∀ p x, 420 ≤ (s.core p).temp → s.islands[s.islandOf p]? = some x → x.off = false → x.emergency = false →
    ∃ t, exec (.hardThrottle p) s = .next t ∧ t.islands[s.islandOf p]? = some { x with clock := 48, emergency := true, stepped := s.ticks }
      ∧ t.cores = s.cores ∧ SameBytes s t)
  ∧ (∀ p x, 460 ≤ (s.core p).temp → s.islands[s.islandOf p]? = some x → x.tripped = false →
    ∃ t y, exec (.thermalTrip p) s = .next t ∧ t.islands[s.islandOf p]? = some y ∧ y.tripped = true ∧ SameBytes s t
      ∧ ((∀ k q, s.partOf (pdie p) = some (k, q) → q.halt.any (·.skidOver) = true) → y.off = true)
      ∧ ∀ k q, s.partOf (pdie p) = some (k, q) → mfind s.parts k = some q → q.halt = none → ∃ q' h, mfind t.parts k = some q' ∧ q'.halt = some h
        ∧ h.cause = 0x84 ∧ h.tick = s.ticks ∧ h.core = p)
  ∧ (∀ (p : Nat) (r : Word),
    (s.enabled p = true → ∃ t, exec (.sensorSample p r) s = .next t ∧ (t.core p).temp = r.toInt ∧ SameBytes s t
      ∧ ∀ q < 4, q < (s.arr p).subs.length → 40 ≤ (r.toInt - ((s.arr p).sub q).calTemp).natAbs → ((t.arr p).sub q).calDue = true)
    ∧ (s.enabled p = false → exec (.sensorSample p r) s = .next s))
  ∧ (128 * (s.cadence + 1) ≤ s.ticks → ∃ t, exec .cadenceTick s = .next t ∧ t.cadence = s.cadence + 1
    ∧ (∀ r ∈ t.flagged, r ∈ s.flagged) ∧ (∀ r ∈ s.flagged, r ∉ t.flagged → 2 ^ 24 ≤ r ∧ ∀ e ∈ t.leases, e.2.line / 512 ≠ r)
    ∧ (∀ e ∈ s.leases, (e.2.line / 512 ∉ s.flagged → e ∈ t.leases))
    ∧ ((∀ e ∈ s.leases, e.2.line / 512 ∈ s.flagged → e.2.dirty = false) → SameBytes s t))
  ∧ (s.ticks < 128 * (s.cadence + 1) → exec .cadenceTick s = .next s)

/-- R191 to R194, R204: a dirty line is written back 18 µs into its lease; a recalled read lease ends at once; a lease that ends with its holder
writes the line back first, where it can; a dirty one that expires at its home reverts the line and flags its region, and one with nothing unwritten
neither (log entry 55), the data of another package's lease being what the home has; a collapse removes every copy outside the home die, and the
writes that waited for it are next, in the order in which they came; a probe's answer brings a store that the probed cache holds to its home
(log entry 56) and lets the acquire go on. -/
def Obligations.LeasesAndReplicas : Prop := ∀ (s : State),
  (∀ n l, mfind s.leases n = some l → l.line = n → l.holder = none →
    let held := memTake s.mem (n * 128) 128
    let ended : Prop := l.since + (if l.write = true then 20000 else 100000) ≤ s.ticks
    (l.write = true → l.dirty = true → s.leaseSends l = true → l.since + 18000 ≤ s.ticks → ∃ t, exec (.leaseWritebackDeadline n) s = .next t ∧ SameBytes s t
      ∧ mfind t.leases n = some { l with dirty := false, home := held })
    ∧ (l.write = false → ∃ t, exec (.leaseRecall n) s = .next t ∧ mfind t.leases n = none ∧ SameBytes s t
      ∧ ∀ p, ∀ x ∈ (t.core p).l1, x.key ≠ n * 128)
    ∧ (ended → l.dirty = false ∨ s.leaseSends l = true → ∃ t, exec (.leaseTermEnd n) s = .next t ∧ mfind t.leases n = none ∧ SameBytes s t
      ∧ t.flagged = s.flagged ∧ ∀ p, ∀ x ∈ (t.core p).l1, x.key ≠ n * 128)
    ∧ (ended → l.dirty = true → s.leaseSends l = false → exec (.leaseTermEnd n) s = .next s.draw)
    ∧ (ended → l.home.length = 128 → ∃ t, exec (.leaseExpiry n) s = .next t ∧ mfind t.leases n = none
      ∧ (l.write = true → l.dirty = true → memTake t.mem (n * 128) 128 = l.home ∧ BytesBut s t (n * 128) 128 ∧ n * 128 / 2 ^ 16 ∈ t.flagged)
      ∧ (l.write = false ∨ l.dirty = false → SameBytes s t ∧ t.flagged = s.flagged)))
  ∧ (∀ n l, mfind s.leases n = some l → l.holder ≠ none → l.since + (if l.write = true then 20000 else 100000) ≤ s.ticks →
    ∃ t, exec (.leaseExpiry n) s = .next t ∧ mfind t.leases n = none ∧ SameBytes s t
      ∧ (l.write = true → l.dirty = true → l.line * 128 / 2 ^ 16 ∈ t.flagged) ∧ (l.write = false ∨ l.dirty = false → t.flagged = s.flagged))
  ∧ (∀ n, mfind s.leases n = none → n * 128 < 2 ^ 40 → ∃ t, exec (.leaseExpiry n) s = .next t ∧ n * 128 / 2 ^ 16 ∈ t.flagged ∧ SameBytes s t)
  ∧ (∀ k ∈ s.collapsing, ∃ t, exec (.collapseComplete k) s = .next t ∧ k ∉ t.collapsing ∧ (∀ r ∈ t.replicas, r.1 / 512 ≠ k) ∧ SameBytes s t
    ∧ (∀ p, pdie p ≠ k * 2 ^ 16 / 2 ^ 36 / 2 → ∀ x ∈ (t.core p).l1, x.key / 2 ^ 16 ≠ k)
    ∧ t.inbox = ((s.stalls.filter fun e => e.1 == k && s.stalled e.2).map fun e => e.2.retry) ++ s.inbox)
  ∧ (∀ p gi id o, Pending s p gi id o → o.stage = 1 → o.probes ≠ [] → (o.level gi < 5 ∨ s.incrementWaits = false) →
    let passes (t : State) : Prop := exec (.promotionProbeAnswer p gi id) s = .next t ∧ (t.group p gi).op? id = some { o with stage := 3, probes := [] }
    ((∀ q ∈ o.probes, ∀ n, ∀ x ∈ ((s.core q).group n).ops, ∀ l ∈ x.lanes, l.l1 = none) → ∃ t, passes t ∧ SameBytes s t)
    ∧ ∀ q n x l k, o.probes = [q] → n < 66 → Pending s q n x.id x → (q, n, x.id) ≠ (p, gi, id) → x.lanes = [l] → l.l1 ≠ none → l.done = false → l.key = some k →
      (∀ m, ∀ y ∈ ((s.core q).group m).ops, (m, y) ≠ (n, x) → ∀ z ∈ y.lanes, z.l1 = none) →
      s.mustCollapse l.leaf k = false → s.reaches (pdie q) k = true → s.leaseWaits k l.size true = false → k / 2 ^ 16 ∉ s.flagged →
      s.poisonAt k l.size = none → ∃ t, passes t ∧ t.read k l.size = l.v.toNat % 256 ^ l.size ∧ BytesBut s t k l.size)

/-- R411, R415, R417, R474 to R476: replays are counted (whether a flit was received or sent is free: log entry 54); with more
than 16 within 1 ms a retraining takes the port to the next lower rate, a port at 100 Gbit/s goes down, and a die-to-die link (numbered from 64
on: log entry 121) trains at its rate; a second without one raises the rate; a downed control port trains again every millisecond; training
succeeds with two lanes or more, and what waited for the control port is written; a periodic report is written into the ring; debug rights end
after their last tick. -/
def Obligations.LinksReportsAndRights : Prop := ∀ (s : State) (n : Nat), let p : Port := s.link n
  (p.up = true → n < 64 → ∃ t q, exec (.linkReplay n) s = .next t ∧ mfind t.ports n = some q ∧ s.ticks ∈ q.recent ∧ q.quiet = s.ticks ∧ q.up = true
    ∧ ((q.crc = min 0xFFF (p.crc + 1) ∧ q.replay = p.replay) ∨ (q.crc = p.crc ∧ q.replay = min 0xFFF (p.replay + 1))))
  ∧ (p.up = true → 64 ≤ n → ∃ t q, exec (.linkReplay n) s = .next t ∧ mfind t.ports n = some q ∧ s.ticks ∈ q.recent ∧ q.up = true
    ∧ q.crc = p.crc ∧ q.replay = p.replay)
  ∧ (p.up = true → 16 < p.recent.length → ∃ t q, exec (.linkRetrain n) s = .next t ∧ mfind t.ports n = some q ∧ q.up = false
    ∧ (n < 64 → p.rate = 2 → q.rate = 3 ∧ q.training = none ∧ q.retrain = p.retrain)
    ∧ (n < 64 → p.rate ≠ 2 → q.training = some (p.rate + 1) ∧ q.retrain = min 0xFF (p.retrain + 1))
    ∧ (64 ≤ n → q.training = some p.rate ∧ q.rate = p.rate))
  ∧ (n < 64 → p.up = true → p.rate ≠ 0 → p.quiet + 1000000000 ≤ s.ticks → ∃ t q, exec (.linkRateUp n) s = .next t ∧ mfind t.ports n = some q ∧ q.up = false
    ∧ q.training = some (p.rate - 1))
  ∧ (n ≤ 36 → p.up = false → (p.training ≠ none ∨ p.rate ≠ 3) → ∀ lanes, let m := ((List.range 4).filter lanes.testBit).length
    ∃ t q, exec (.retrainingComplete n lanes) s = .next t ∧ mfind t.ports n = some q
      ∧ (2 ≤ m → q.up = true ∧ q.rate = p.training.getD 0 ∧ q.lanes = lanes % 16 ∧ q.training = none)
      ∧ (m < 2 → q.up = false ∧ q.rate = 3)
      ∧ (n = 0 → 2 ≤ m → s.parts = [] → t.ctlWaits = [] ∧ ∀ k v, s.ctlWaits = [(k, 8, v)] → t.read k 8 = v % 2 ^ 64 ∧ BytesBut s t k 8))
  ∧ (64 ≤ n → p.up = false → p.training ≠ none → ∀ lanes, 2 ≤ ((List.range 4).filter lanes.testBit).length →
    ∃ t q, exec (.retrainingComplete n lanes) s = .next t ∧ mfind t.ports n = some q ∧ q.up = true ∧ q.rate = p.rate ∧ q.training = none)
  ∧ (∃ t, exec (.flitAcknowledged n) s = .next t ∧ SameBytes s t ∧ ∀ k, mfind t.ports k
    = if k = n then (mfind s.ports k).map (fun q => { q with sent := q.sent - 1 }) else mfind s.ports k)
  ∧ (let q : Port := mget {} s.ports 0
    q.up = false → q.rate = 3 → q.training = none → q.quiet + 1000000 ≤ s.ticks →
    ∃ t q', exec .controlPortRetry s = .next t ∧ mfind t.ports 0 = some q' ∧ q'.training = some 2 ∧ SameBytes s t)
  ∧ (let x := s.ctx n
    x.period ≠ 0 → x.nextReport ≤ s.ticks → let k := ctlKey (x.ringBase + 512 * ((x.ringCount + 1) % 2 ^ x.ringLog))
    ∃ t, exec (.periodicReport n) s = .next t
      ∧ (s.ctlLost = false → t.read k 416 = (s.accountReport n false).2 % 256 ^ 416 ∧ BytesBut s t k 416)
      ∧ (s.ctlLost = true → t.ctlWaits = s.ctlWaits ++ [(k, 416, (s.accountReport n false).2)] ∧ SameBytes s t)
      ∧ (t.ctx n).ringCount = x.ringCount + 1 ∧ (t.ctx n).nextReport = x.nextReport + 1000000 * x.period ∧ (t.ctx n).counters = x.counters)
  ∧ (let x := s.ctx n
    x.hasRights = true → x.untilTick < s.ticks → ∃ t, exec (.debugRightsExpiry n) s = .next t ∧ (t.ctx n).hasRights = false ∧ (t.ctx n).debug = []
      ∧ SameBytes s t ∧ (∀ p w, (s.core p).wg = some w → w.ctx = n → (t.arr p).ckinj = 0)
      ∧ ∀ u ∈ t.saved, u.ctx = n → ∀ c ∈ u.cores, c.arr.ckinj = 0)

/-! The command processor (spec/13_scheduling.md, spec/12_control_instructions.md). -/

/-- R331 to R334, R339: a posted entry is taken, with its STATUS, HEAD and launch, its record being read once; waits are judged; a launch at its end increments its
counter, with what it has written under leases brought home, and is forgotten once no GO-ACK is owed; the messages of a launch across packages; a withdrawn launch and its holds are gone. -/
def Obligations.LaunchesAndTheirEnds : Prop := ∀ (s : State),
  (∀ q d k leaf, mfind s.queues q = some d → d.served = true → s.queueBlocked q = false → (s.ctx d.ctx).desc.valid = true → s.ctxHalted d.ctx = false →
    s.posted d = true → d.rcd = none → (s.cmdAt d.ctx d.host (d.entryVa d.head) 3 .read).2 = .at k leaf →
    let v := s.cmdRead k 128; let r := recordOf v
    let takes (code : Nat) (f : Launch → Prop) : Prop := ∃ t l, exec (.queueTake q) s = .next t
      ∧ (r.waits = [] ∨ code ≠ 0 ∨ k + 128 ≤ 2 ^ 40 → t.read (k + 120) 4 = 2 ^ 31 + code)
      ∧ (mfind t.queues q).map (·.head) = some ((d.head + 1) % 2 ^ 32) ∧ mfind t.launches s.nextLaunch = some l ∧ t.nextLaunch = s.nextLaunch + 1
      ∧ l.rcd = r ∧ l.queue = q ∧ l.entry = d.head ∧ l.ctx = d.ctx ∧ l.next = 0 ∧ f l
    let kernel := ((s.draw.readUe k 128).kernelOk d.ctx d.host r.kaddr).2
    (recordBad v (s.partCores d.ctx) = true → takes 3 fun l => l.failed = true ∧ l.ready = false)
    ∧ (recordBad v (s.partCores d.ctx) = false → kernel = some false → takes 4 fun l => l.failed = true ∧ l.ready = false)
    ∧ (recordBad v (s.partCores d.ctx) = false → kernel = some true → (r.restartable = false ∨ s.restartTaken d.ctx = false) →
      takes 0 fun l => r.waits = [] → l.ready = true ∧ l.failed = false)
    ∧ (recordBad v (s.partCores d.ctx) = false → kernel = none → ∃ t, exec (.queueTake q) s = .next t ∧ t.launches = s.launches
      ∧ mfind t.queues q = some { d with rcd := some (k, v) }))
  ∧ (∀ id l, mfind s.launches id = some l →
    (l.ready = false → l.failed = false →
      let at_ (w : Nat × Nat) (f : Nat → Prop) : Prop := ∃ k leaf,
        (s.cmdAt l.ctx ((mfind s.queues l.queue).elim [] (·.host)) w.1 3 .read).2 = .at k leaf ∧ s.poisonAt k 8 = none ∧ f (s.read k 8)
      ((∀ w ∈ l.rcd.waits, at_ w fun x => w.2 ≤ x ∧ x.testBit 63 = false) →
        ∃ t, exec (.waitReevaluation id) s = .next t ∧ mfind t.launches id = some { l with ready := true } ∧ SameBytes s t)
      ∧ ((∃ w ∈ l.rcd.waits, at_ w fun x => x.testBit 63 = true) →
        ∃ t, exec (.waitReevaluation id) s = .next t ∧ mfind t.launches id = some { l with failed := true }
          ∧ ((∀ w ∈ l.rcd.waits, at_ w fun _ => True) → SameBytes s t)))
    ∧ (s.launchOver id l = false → exec (.completionIncrement id) s = .next s.draw)
    ∧ (s.launchOver id l = true →
      let ends (t : State) : Prop := exec (.completionIncrement id) s = .next t
        ∧ mfind t.launches id = if l.ackWait = true then some { l with ownOver := true, ended := true, snaps := [] } else none
      (l.rcd.done = 0 → ∃ t, ends t ∧ SameBytes s t)
      ∧ (∀ k leaf, l.rcd.done ≠ 0 → l.ended = false → s.incrementWaits = false →
        (s.draw.cmdAt l.ctx ((mfind s.queues l.queue).elim [] (·.host)) l.rcd.done 4 .rmw) = (s.draw, .at k leaf) →
        s.mustStall leaf k (.counter id) = false → s.poisonAt k 8 = none → let v := s.read k 8
        ∃ t, ends t ∧ BytesBut s t k 8 ∧ (∀ e ∈ t.leases, e.2.holder = none → s.halted e.2.die = false → e.2.dirty = false)
          ∧ t.read k 8 = (if l.failed = true ∨ v.testBit 63 = true then 2 ^ 63 else 0) + (v % 2 ^ 63 + 1) % 2 ^ 63)))
  ∧ (∀ (x : Word) id l, s.launchX x = some (id, l) → mfind s.launches id = some l →
    let part := (s.ctx l.ctx).desc.part
    let halts (t : State) : Prop := ∀ k q, s.partOf part = some (k, q) → mfind s.parts k = some q → q.halt = none →
      ∃ q' h, mfind t.parts k = some q' ∧ q'.halt = some h ∧ h.cause = 0x85
    (∀ pkg, l.rcd.coord = s.pkgid → l.went = false → let heard := if l.heard.contains pkg then l.heard else pkg :: l.heard
      (heard.length < l.rcd.npkg + 1 → ∃ t, exec (.reservedMessage x pkg) s = .next t ∧ mfind t.launches id = some { l with heard := heard } ∧ t.outbox = s.outbox)
      ∧ (l.rcd.npkg + 1 ≤ heard.length → l.reserved = true → ∃ t l', exec (.reservedMessage x pkg) s = .next t ∧ mfind t.launches id = some l'
        ∧ l'.goTick = some s.ticks ∧ t.outbox = s.outbox ++ (heard.filter (· != s.pkgid)).map fun n => Out.go x.toNat n))
    ∧ (l.reserved = true → l.went = false → l.rcd.coord ≠ s.pkgid →
      ∃ t, exec (.goMessage x) s = .next t ∧ t.outbox = s.outbox ++ [.goAck x.toNat l.rcd.coord])
    ∧ (∀ pkg, l.goTick ≠ none → pkg ∉ l.acks → ∃ t, exec (.goAck x pkg) s = .next t ∧ SameBytes s t
      ∧ mfind t.launches id = if l.ownOver = true ∧ l.rcd.npkg ≤ l.acks.length + 1 then none else some { l with acks := pkg :: l.acks })
    ∧ (∀ n, l.goTick = some n → n + 1000 * (l.rcd.gotmo + 1) ≤ s.ticks → l.acks.length < l.rcd.npkg →
      ∃ t, exec (.goTimeout x) s = .next t ∧ t.outbox = s.outbox ++ [.abort x.toNat] ∧ halts t
        ∧ mfind t.launches id = if l.ownOver = true then none else some { l with goTick := none })
    ∧ (∃ t, exec (.abortMessage x) s = .next t ∧ halts t ∧ SameBytes s t))
  ∧ (∀ q id l, s.launches.find? (fun e => e.2.queue == q && e.2.rcd.npkg != 0 && !e.2.went && e.2.next == 0 && !e.2.failed) = some (id, l) →
    ∃ t, exec (.withdrawEntry q) s = .next t ∧ mfind t.launches id = none ∧ SameBytes s t ∧ ∀ p, (t.core p).held ≠ some (l.ctx, id))

/-- R282, R285, R291, R314, R336 to R338, R341 to R343, R251: a chosen unit's workgroups are placed with their initial state; a grant goes to a
group of the highest ready class or to a starved one; a sleep ends; a slice goes to the next context with work; a pre-emption begins, and ends
in a saved unit; a saved unit is placed again; a workgroup with a long miss is saved by itself, a tandem copy with its twin. Which of several allowed grants and places
is taken, and when, is the model's reading (log entries 35, 36, 37, 40). -/
def Obligations.SchedulingSteps : Prop := ∀ (s : State),
  (∀ part q ctx c id l ws, s.part part = some q → q.halt = none → q.cur = some ctx → ctx ∈ s.workOf part → q.chosen = [] →
    let u := (s.draw.modPart part fun q => { q with ending := q.ending && s.draw.foreign part q }).handOver part q
    u.chooseClass ((u.part part).getD q) ctx = some (c, (0, id)) → mfind u.launches id = some l → l.rolling = false → l.rcd.npkg = 0 →
    u.assign id l (s.partPhys part q) = .fits ws → (ws.map (·.2.1)).Nodup →
    ∃ t, exec (.dispatch part) s = .next t
      ∧ mfind t.launches id = some { l with next := l.next + l.unit.length, live := l.live + ws.length }
      ∧ ∀ x ∈ ws, (t.core x.2.1).wg = some (l.newWg id x.1 (s.logical x.2.1) x.2.2))
  ∧ (∀ (l : Launch) (id n lc : Nat) (td : Option (Bool × Nat)), let w := l.newWg id n lc td
    w.groups.length = l.rcd.groups ∧ w.wx + l.rcd.gx * (w.wy + l.rcd.gy * w.wz) = n
    ∧ ∀ g ∈ w.groups, g.threads.length = l.rcd.threads ∧ mget 0 g.s 0 = BitVec.ofNat 32 l.rcd.args ∧ mget 0 g.s 1 = BitVec.ofNat 32 (l.rcd.args / 2 ^ 32 % 2 ^ 32)
      ∧ ∀ u ∈ g.threads, u.st = .ready ∧ u.pc = BitVec.ofNat 64 l.rcd.kaddr ∧ u.x = [] ∧ u.p = 0 ∧ u.live = 0)
  ∧ (∀ p q, q < 4 → let c := s.core p
    (c.quad q).holder = none → (c.quad q).sleep = none → (∃ gi ∈ c.inQuad q, s.grantable p q gi = true) →
    ∃ t gi, exec (.runGrant p q) s = .next t ∧ gi ∈ c.inQuad q ∧ s.grantable p q gi = true ∧ t.focus = (p, gi) ∧ ((t.core p).quad q).holder = some gi
      ∧ (∃ r, (t.group p gi).run = some r ∧ r.held = false) ∧ SameBytes s t
      ∧ ((∀ gj ∈ c.inQuad q, s.grantable p q gj = true → s.classOf p q gi ≤ s.classOf p q gj) ∨ 16 ≤ (c.group gi).passed))
  ∧ (∀ p q n gi, q < 4 → ((s.core p).quad q).sleep = some (n, gi) → (n ≤ s.ticks ∨ s.maySleep p q gi = false) →
    ∃ t, exec (.sleepEnd p q) s = .next t ∧ ((t.core p).quad q).sleep = none ∧ SameBytes s t
      ∧ ((s.group p gi).headSet (gi == guestIx) ≠ [] → ((t.core p).quad q).holder = ((s.core p).quad q).holder)
      ∧ ((s.group p gi).headSet (gi == guestIx) = [] → ((t.core p).quad q).holder ≠ some gi ∧ (((s.core p).group? gi).isSome → (t.group p gi).run = none)))
  ∧ (∀ part q c, s.part part = some q → q.cur = some c → q.halt = none → q.sliceEnd ≤ s.ticks →
    ∃ t q', exec (.sliceEnd part) s = .next t ∧ t.part part = some q' ∧ q'.sliceEnd = q.sliceEnd + q.slice ∧ SameBytes s t
      ∧ q'.cur = some ((nextCtx (some c) ((s.workOf part).filter (· != c))).getD c))
  ∧ (∀ p w, (s.cores.map (·.1)).Nodup → (s.core p).wg = some w → s.halted (pdie p) = false → let ps := s.unitCores w
    (w.leaving = false → s.mustLeave p w = true → (∀ r ∈ ps, s.preemptible r = true) → s.slotsFor ps = true →
      ∃ t, exec (.preemption p) s = .next t ∧ SameBytes s t ∧ ∀ r ∈ ps, ∀ x, (t.core r).wg = some x → ∀ g ∈ x.groups, g.leaving = true)
    ∧ (w.leaving = true → ps ≠ [] → (∀ r ∈ ps, ∀ v, (s.core r).wg = some v → (s.core r).quiet v = true) → s.slotsFor ps = true →
      ∃ t u, exec (.preemption p) s = .next t ∧ t.saved = s.saved ++ [u] ∧ u.ctx = w.ctx ∧ u.waits = [] ∧ u.units.length = ps.length
        ∧ ∀ r ∈ ps, (t.core r).wg = none))
  ∧ (∀ ctx n u q w slot c p, (s.saved.filter (·.ctx == ctx))[n]? = some u → u.units = [(w, slot)] → u.cores = [c] → s.part (s.ctx ctx).desc.part = some q →
    q.halt = none → q.cur = some ctx → q.chosen.contains (u.cls, 1, u.name) = true →
    s.savedNamed q u.name = some u → s.restorable u = true → s.assignSaved u [(w, c)] [] = some [p] →
    (∀ k ∈ s.slotPoison w.ctx slot, k ∈ u.bad) →
    ∃ t x, exec (.restore ctx n) s = .next t ∧ t.saved = s.saved.erase u ∧ (t.core p).wg = some x ∧ x.ctx = w.ctx ∧ x.launch = w.launch ∧ x.wg = w.wg
      ∧ x.lcore = w.lcore)
  ∧ (∀ p w, (s.core p).wg = some w → s.halted (pdie p) = false → w.frozen = true → w.longWaits ≠ [] → s.rollingWg w = false →
    let ps := p :: (s.twinCore w).toList
    ps.Nodup → (∀ r ∈ ps, ∃ v, (s.core r).wg = some v ∧ v.ctx = w.ctx ∧ (∀ g ∈ v.groups, g.run = none) ∧ (∀ y ∈ v.copies, y.started = false)
      ∧ (s.core r).preloading = false ∧ (s.core r).writingTile = false ∧ v.honoured = false
      ∧ ∀ g ∈ v.groups, ∀ o ∈ g.ops, ∀ l ∈ o.lanes, (l.l1 = none ∨ l.done = true) ∧ ((∃ m ∈ o.lanes, m.miss = true) → l.ahead = false)) →
    s.slotsFor ps = true →
    ∃ t u, exec (.workgroupSave p) s = .next t ∧ (∀ r ∈ ps, (t.core r).wg = none) ∧ t.saved = s.saved ++ [u] ∧ u.ctx = w.ctx
      ∧ u.units.length = ps.length ∧ u.longMiss = true ∧ (w.tandem = none → u.waits = w.longWaits.eraseDups))

/-! Halts, containment and tandem (spec/17_traps.md, spec/18_containment.md). -/

/-- R438, R439, R444, R445, R452, R456, R457, R461, R463, R467, R468, R472: a halt is raised with its cause; a quiet partition's skid ends with
its stop records; a recorded halt leaves no workgroup; errors mark registers, granules, elements and dies, and an entry whose containment is lost
keeps its copies as they are; two copies that agree go on, and
others halt; a stopped restartable launch is rolled back. What the rules leave to the engine and to timing is free or the model's reading
(log entries 49 to 53, 75). -/
def Obligations.HaltsErrorsAndTandem : Prop := ∀ (s : State),
  let halts (t : State) (die cause : Nat) : Prop := ∀ k q, s.partOf die = some (k, q) → mfind s.parts k = some q → q.halt = none →
    ∃ q' h, mfind t.parts k = some q' ∧ q'.halt = some h ∧ h.cause = cause ∧ h.tick = s.ticks ∧ q'.haltNo = q.haltNo + 1
  (∀ part cause, 0x80 ≤ cause → cause ≤ 0x88 → (cause = 0x87 → ∀ e ∈ s.panniers, (s.ctx e.2.origin.ctx).desc.part = part →
      s.partOf (pdie (s.phys e.2.origin.core)) = s.partOf part) → ∃ t, exec (.haltRaise part cause) s = .next t ∧ halts t part cause ∧ SameBytes s t)
  ∧ (∀ part q h, s.part part = some q → q.halt = some h → h.skidOver = false → (∀ p ∈ s.partPhys part q, s.skidPast p = true ∧ mfind s.cores p = none) →
    s.misses = [] → s.panniers = [] → s.lmap = [] → s.fuses = [] → part + q.size ≤ 8 → s.ctlWaits = [] →
    ∃ t q', exec (.skidEnd part) s = .next t ∧ t.part part = some q' ∧ q'.halt = some { h with skidOver := true }
      ∧ ∀ p ∈ s.partPhys part q, ¬(h.kind = 1 ∧ h.die = pdie p ∧ h.index = p % 136) → t.ctlRead (stopArea q.stopBase part p) 64
        = (stopHead 1 h.cause (pdie p) (p % 136) q.haltNo s.ticks + 2 ^ 128 * 0xFF + 2 ^ 144 * s.logical p + 2 ^ 160 * 0xFFFFFFFF) % 256 ^ 64)
  ∧ (∀ part q h, s.part part = some q → q.halt = some h → h.skidOver = true → h.recorded = false →
    ∃ t q', exec (.haltRecorded part) s = .next t ∧ t.part part = some q' ∧ q'.halt = some { h with recorded := true }
      ∧ (∀ p ∈ s.partPhys part q, (t.core p).wg = none)
      ∧ (∀ u ∈ t.saved, u ∈ s.saved ∧ (s.ctx u.ctx).desc.part ≠ part)
      ∧ ∀ p ∈ s.partPhys part q, ∀ w l, (s.core p).wg = some w → h.cause ≠ 0x83 → mfind t.launches w.launch = some l → l.failed = true)
  ∧ (∀ key, key < 2 ^ 40 → exec (.ueDetected key 0) s = .next { s with weak := s.weak ++ [key / 32] })
  ∧ (∀ p gi slot code, gi < 66 → slot < 64 → code < 256 → ((s.core p).group? gi).isSome = true →
    ∃ t, exec (.ueDetected (regKey p gi slot code) 7) s = .next t ∧ (slot, code) ∈ (t.group p gi).ueRegs ∧ SameBytes s t)
  ∧ (∀ key cls, cls ∈ [1, 2, 3, 4, 5, 6, 9, 10] → windowOfKey key = none → mfind s.poison (key / 32) = none →
    (key < 2 ^ 40 → (s.poison.filter fun e => e.2 != 0 && e.1 * 32 / 2 ^ 36 == key / 2 ^ 36).length < 4096) →
    (2 ^ 58 ≤ key → (s.poison.filter fun e => e.2 != 0 && e.1 * 32 / 2 ^ 28 == key / 2 ^ 28 && dieSlice (e.1 * 32 % 2 ^ 28) == dieSlice (key % 2 ^ 28)).length
      < 256) →
    ∃ t, exec (.ueDetected key cls) s = .next t ∧ mfind t.poison (key / 32) = some cls)
  ∧ (∀ p q a m n, q < 4 → a < 8 → m < 16 → n < 128 → ∃ t, exec (.accumulatorUe p q a m n) s = .next t ∧ 8 * q + a ∈ (t.arr p).poisoned ∧ SameBytes s t
    ∧ ∀ k c i, k < 4 → c < 8 → i < 2048 → (t.arr p).elem k c i = if k = q ∧ c = a ∧ i = 128 * m + n then 0x7FE00008 else (s.arr p).elem k c i)
  ∧ (∀ die, ∃ t, exec (.containmentLost die) s = .next t ∧ die ∈ t.lostHomes ∧ halts t die 0x82 ∧ SameBytes s t
    ∧ ∃ x c, t.kept = s.kept ++ [(x, c)] ∧ c.lost = true)
  ∧ (∀ stack c, stack < 16 → c < 2 ^ 31 → let key := stackKey stack (32 * c)
    mfind s.poison (key / 32) = none → (s.poison.filter fun e => e.2 != 0 && e.1 * 32 / 2 ^ 36 == stack).length < 4096 →
    ∃ t, exec (.patrolScrub stack [c]) s = .next t ∧ mfind t.poison (key / 32) = some 1)
  ∧ (∀ p w other x y, (s.core p).wg = some w → w.tandem = some (false, other) → let q := s.phys other
    p ≠ q → (s.core p).twait = some x → (s.core q).twait = some y →
    (sameCommit (s.core p) (s.core q) = false → ∃ t, exec (.tandemCommit p) s = .next t ∧ halts t (pdie p) 0x88 ∧ SameBytes s t)
    ∧ (sameCommit (s.core p) (s.core q) = true → 
      (∀ h ∈ (s.core p).tbuf, s.heldWaits p h = false ∧ (h.tier = 0 → s.mustStall h.leaf (h.key.getD 0) (.held p) = false)) →
      (∀ h ∈ (s.core q).tbuf, h.key ≠ none) → x.group < 64 → y.group < 64 →
      ∃ t, exec (.tandemCommit p) s = .next t ∧ (t.core p).tgo = some x ∧ (t.core q).tgo = some y ∧ (t.core p).twait = none ∧ (t.core q).twait = none
        ∧ (t.core p).tbuf = [] ∧ (t.core q).tbuf = []))
  ∧ (∀ p w k other x v, (s.core p).wg = some w → w.tandem = some (k, other) → (s.core p).twait = some x → 1000000 ≤ x.before + (s.ticks - x.since) →
    (s.core (s.phys other)).wg = some v → v.launch = w.launch → v.wg = w.wg → sameCommit (s.core p) (s.core (s.phys other)) = false →
    ∃ t, exec (.tandemTimeout p) s = .next t ∧ halts t (pdie p) 0x88 ∧ SameBytes s t)
  ∧ (∀ id l, mfind s.launches id = some l → l.rolling = true → l.afterHalt = false → s.ctxHalted l.ctx = false → s.stoppedFor id = true → l.snaps = [] →
    ∃ t, exec (.rollback id) s = .next t ∧ (∀ p ∈ s.coresOf id, (t.core p).wg = none)
      ∧ mfind t.launches id = some { l with next := 0, live := 0, rolling := false, rollbacks := l.rollbacks + 1 })

/-! The management path (spec/16_identity_accounting.md, spec/15_translation.md). -/

/-- R274, R330, R368, R375, R376, R379, R399 to R406, R410 to R417, R478: each mailbox command is read, which shows STATUS 0xFFFF, and served by the
next step (log entry 120), as here, where the control port is up and the package not in recovery: what a served one leaves and answers; a
refused one answers STATUS 1 and changes nothing else; in recovery only three codes are served; an unknown code answers 3. -/
def Obligations.MailboxCommands : Prop := ∀ (s : State) (m : Mail),
  let codes : List (Nat × (Mail → Instr)) := [(0x01, .getCert), (0x02, .getAttest), (0x10, .setPart), (0x11, .setCtx), (0x12, .setQueue), (0x13, .setRelth),
    (0x14, .setAccept), (0x15, .setAcctl), (0x20, .bindJob), (0x20, .unbindJob), (0x21, .report), (0x30, .clearBerr), (0x31, .clearFlag),
    (0x32, .clearLink), (0x40, .debugAuth), (0x41, .commitSvn), (0x42, .loadImage)]
  (s.mailbox ≠ { mail := m, status := 0xFFFF } →
    let read (i : Instr) : Prop := exec i s = .next { s with mailbox := { mail := m, status := 0xFFFF }, inbox := i :: s.inbox }
    (∀ x ∈ codes, (m.code = x.1 → read (x.2 m)) ∧ (m.code ≠ x.1 → exec (x.2 m) s = .next s))
    ∧ ((∀ x ∈ codes, m.code ≠ x.1) → read (.unknownCode m)))
  ∧ (s.mailbox = { mail := m, status := 0xFFFF } → s.ctlLost = false →
  let k := ctlKey m.buf
  let c := mailOp m 0 1
  let done (i : Instr) (f : State → Prop) : Prop := ∃ t, exec i s = .next t ∧ t.mailbox = { mail := m, status := 0 } ∧ f t
  let refused (i : Instr) : Prop := exec i s = .next (s.draw.answer m 1)
  let ok (code : Nat) : Prop := m.code = code ∧ s.recovery = 0
  let free (c : Nat) : Prop := s.placedCtx c = false ∧ s.savedCtx c = false ∧ (s.ctx c).pend = none
  (ok 0x01 → (bufOk m (68 + Config.certLength) = true → done (.getCert m) fun t => t.read (k + 4) 64 = keyBytes % 256 ^ 64
        ∧ t.read k 4 = (64 + Config.certLength) % 256 ^ 4 ∧ BytesBut s t k (68 + Config.certLength))
    ∧ (bufOk m (68 + Config.certLength) = false → refused (.getCert m)))
  ∧ (ok 0x02 → (bufOk m 400 = true → done (.getAttest m) fun t => t.read k 400 = (s.attest (mailOp m 0 32)).2 % 256 ^ 400 ∧ BytesBut s t k 400)
    ∧ (bufOk m 400 = false → refused (.getAttest m)))
  ∧ (ok 0x10 → let size := mailOp m 1 1; let stop := mailOp m 8 8; let fq := mailOp m 16 8; let log := mailOp m 24 1
    (size = 1 ∨ size = 2 ∨ size = 4 ∨ size = 8) → c % size = 0 → c + size ≤ 8 → stop % 2 ^ 16 = 0 → stop + 2 ^ 25 * size ≤ 2 ^ 48 → fq % 4096 = 0 →
    fq + 32 * 2 ^ log ≤ 2 ^ 48 → mailOp m 2 1 ≤ 3 → mailOp m 4 4 ≤ 4000 → 4 ≤ log → log ≤ 16 → bufOk m (128 * size) = true →
    (∀ e ∈ s.parts, rangesMeet e.1 e.2.size c size = false) → (∀ e ∈ s.launches, e.2.afterHalt = false) →
    done (.setPart m) fun t => ∃ q, mfind t.parts c = some q ∧ q.size = size ∧ q.rho = mailOp m 2 1 ∧ q.stopBase = stop ∧ q.fqBase = fq ∧ q.fqLog = log
      ∧ q.slice = (if mailOp m 4 4 = 0 then 4000000 else 250000 * mailOp m 4 4) ∧ q.cur = none ∧ q.halt = none ∧ BytesBut s t k (128 * size)
      ∧ ∀ j < 128 * size, t.read (k + j) 1 = s.fusePhys (128 * c + j) % 136 % 256)
  ∧ (ok 0x11 → let d := descOf (mailOp m 32 32)
    (c < 64 → s.descRefused c d = false → free c → done (.setCtx m) fun t => (t.ctx c).desc = d)
    ∧ ((64 ≤ c ∨ s.descRefused c d = true) → refused (.setCtx m)))
  ∧ (ok 0x12 → let v := mailOp m 16 16; let old := (mfind s.queues c).getD {}
    (c < 64 → old.en = false → done (.setQueue m) fun t => ∃ r n, (r = none ∨ r = old.rcd) ∧ (n = old.prod ∨ n = old.head) ∧ mfind t.queues c = some { old with
        en := bit v 127, devopen := bit v 126, logcap := bits v 125 122, ctx := bits v 121 116, base := bits v 56 7 * 128, prod := n, rcd := r })
    ∧ (64 ≤ c → refused (.setQueue m)))
  ∧ (ok 0x13 → let v := mailOp m 4 4
    (∀ q, s.part c = some q → 240 ≤ bits v 9 0 → bits v 9 0 ≤ 420 → bits v 25 16 + 40 ≤ bits v 9 0 →
      done (.setRelth m) fun t => t.part c = some { q with relthOff := bit v 31, cool := bits v 25 16, level := bits v 9 0 })
    ∧ ((s.part c = none ∨ bits v 9 0 < 240 ∨ 420 < bits v 9 0 ∨ bits v 9 0 < bits v 25 16 + 40) → refused (.setRelth m)))
  ∧ (ok 0x14 → let v := mailOp m 8 8 + 2 ^ 64 * mailOp m 16 8
    (c < 64 → bit v 0 = true → v &&& feat0 = v → free c → done (.setAccept m) fun t => (t.ctx c).accept = v)
    ∧ ((64 ≤ c ∨ bit v 0 = false ∨ v &&& feat0 ≠ v) → refused (.setAccept m)))
  ∧ (ok 0x15 → (c < 64 → mailOp m 8 1 ≤ 12 → bufOk m (512 * 2 ^ mailOp m 8 1) = true → done (.setAcctl m) fun t =>
      (t.ctx c).period = mailOp m 4 2 ∧ (t.ctx c).ringBase = m.buf ∧ (t.ctx c).ringLog = mailOp m 8 1 ∧ (t.ctx c).ringCount = 0))
  ∧ (ok 0x20 → c < 64 → (mailOp m 1 1 = 0 → (s.ctx c).desc.valid = true → (s.ctx c).job = none → bufOk m 176 = true → done (.bindJob m) fun t =>
        (t.ctx c).job = some (mailOp m 8 8) ∧ (t.ctx c).dbgSeen = (s.ctx c).hasRights ∧ BytesBut s t k 176)
    ∧ (mailOp m 1 1 = 1 → (s.ctx c).job ≠ none → bufOk m 688 = true → done (.unbindJob m) fun t => (t.ctx c).job = none
        ∧ t.read k 416 = (s.accountReport c true).2 % 256 ^ 416 ∧ ∀ a, ¬(k ≤ a ∧ a < k + 688) → memGet t.mem a = memGet s.mem a))
  ∧ (ok 0x21 → (c < 64 → bufOk m 416 = true → done (.report m) fun t => t.read k 416 = (s.accountReport c false).2 % 256 ^ 416 ∧ BytesBut s t k 416
        ∧ (t.ctx c).counters = (s.ctx c).counters)
    ∧ ((64 ≤ c ∨ bufOk m 416 = false) → refused (.report m)))
  ∧ (ok 0x30 → let n := mailOp m 0 4
    (n ≤ 16383 ∨ n = 0xFFFFFFFF → done (.clearBerr m) fun t => ∀ j, mget 0 t.berr j = if n = 0xFFFFFFFF ∨ j = n then 0 else mget 0 s.berr j)
    ∧ (16383 < n → n ≠ 0xFFFFFFFF → refused (.clearBerr m)))
  ∧ (ok 0x31 → let off := mailOp m 8 8
    (c < 16 → off % 2 ^ 16 = 0 → off < 2 ^ 36 → done (.clearFlag m) fun t => (∀ r, r ∈ t.flagged ↔ r ∈ s.flagged ∧ r ≠ stackKey c off / 2 ^ 16)
        ∧ ∀ e ∈ t.leases, e.2.line * 128 / 2 ^ 16 ≠ stackKey c off / 2 ^ 16)
    ∧ ((16 ≤ c ∨ off % 2 ^ 16 ≠ 0 ∨ 2 ^ 36 ≤ off) → refused (.clearFlag m)))
  ∧ (ok 0x32 → (c ≤ 36 → done (.clearLink m) fun t => mfind t.ports c = (mfind s.ports c).map fun p => { p with crc := 0, replay := 0, retrain := 0 })
    ∧ (36 < c → refused (.clearLink m)))
  ∧ (ok 0x40 → c < 64 → bufOk m 160 = true → s.poisonAt k 160 = none → let v := s.read k 160; let rights := bits v 287 272
    (s.ctx c).desc.valid = true → bits v 255 0 = deviceId → bits v 271 256 = (s.ctx c).desc.asid → rights < 8 → bits v 319 288 = 0 → bits v 767 448 = 0 →
    bits v 383 320 ≤ s.ticks → s.ticks ≤ bits v 447 384 → (tokenVerifies v = true → done (.debugAuth m) fun t => (t.ctx c).inj = bit rights 0
        ∧ (t.ctx c).watch = bit rights 1 ∧ (t.ctx c).step = bit rights 2 ∧ (t.ctx c).untilTick = bits v 447 384 ∧ (rights ≠ 0 → (t.ctx c).dbgSeen = true))
      ∧ (tokenVerifies v = false → refused (.debugAuth m)))
  ∧ (ok 0x41 → (s.anyValid = false → done (.commitSvn m) fun t => ∀ n, 1 ≤ n → n ≤ 6 →
        t.minSvn n = max (s.minSvn n) (Config.imageSvn (s.imageOf n).1 (s.imageOf n).2))
    ∧ (s.anyValid = true → refused (.commitSvn m)))
  ∧ (m.code = 0x42 → let i := (s.read k m.buflen, m.buflen)
    1 ≤ c → c ≤ 6 → (s.recovery ≠ 0 ∨ s.anyValid = false) → bufOk m 1 = true → s.poisonAt k m.buflen = none →
    (s.imageOk c i = true → done (.loadImage m) fun t => mfind t.images c = some i) ∧ (s.imageOk c i = false → refused (.loadImage m)))
  ∧ (s.recovery ≠ 0 → ∀ x ∈ codes, m.code = x.1 → x.1 ∉ [0x01, 0x02, 0x42] → refused (x.2 m))
  ∧ ((∀ x ∈ codes, m.code ≠ x.1) → exec (.unknownCode m) s = .next (s.answer m 3)))


/-! Reset (spec/16_identity_accounting.md R402, spec/15_translation.md R377). -/

/-- R24, R139, R172, R330, R366, R368, R375, R377, R402, R407, R410, R412, R417, R420, R434: what the rules give at reset; a package reset
examines the stored images and keeps, of the package, only what is fused, stored or outside it; a context that becomes valid, and a partition
that is configured, take their reset values. The canonical form of memory (the model's: log entry 5) holds at reset; what a reset keeps is
the model's reading (log entry 47). -/
def Obligations.ResetValues : Prop :=
  let fresh (x : Ctx) : Prop := x.tveclo = 0 ∧ x.tvechi = 0 ∧ x.trecbase = 0 ∧ x.debug = [] ∧ x.migOff = false ∧ x.noFall = false ∧ x.falls = 0
    ∧ x.counters = [] ∧ x.acsat = 0 ∧ x.job = none ∧ x.dbgSeen = false ∧ x.period = 0 ∧ x.accept = 1 ∧ x.slots = [] ∧ x.cktol = []
  let r := State.reset
  Memory.wf r.mem = true ∧ r.ticks = 0 ∧ r.recovery = 0 ∧ r.seq = 0
  ∧ (∀ k, (r.ctx k).desc = {} ∧ fresh (r.ctx k)) ∧ (∀ q, (mget {} r.queues q : Queue) = {}) ∧ (∀ b, mget 0 r.berr b = 0)
  ∧ (∀ n, let p : Port := mget {} r.ports n; p.crc = 0 ∧ p.replay = 0 ∧ p.retrain = 0)
  ∧ (∀ p, let a := r.arr p; a.ckinj = 0 ∧ a.seen = 0 ∧ a.fallback = 0 ∧ ∀ q, (a.sub q).calDue = true)
  ∧ (∀ k n, n < 6 → r.cktol k n = 0x00100000)
  ∧ (∀ (s : State) (k : Nat) (d : Desc), (s.ctx k).desc.valid = false → d.valid = true →
      fresh ((s.applyDesc k d).ctx k) ∧ ((s.applyDesc k d).ctx k).desc = d ∧ ∀ x ∈ (s.applyDesc k d).seals, x.ctx ≠ k)
  ∧ (∀ size : Nat, let q : Part := { size }; q.relthOff = false ∧ q.cool = 320 ∧ q.level = 380)
  ∧ ∀ s : State, ∃ t, exec .packageReset s = .next t ∧ t.ticks = 0 ∧ t.seq = 0 ∧ t.ctxs = [] ∧ t.queues = [] ∧ t.parts = [] ∧ t.cores = []
    ∧ t.launches = [] ∧ t.saved = [] ∧ t.berr = [] ∧ t.retired = [] ∧ t.lostHomes = [] ∧ t.ports = [] ∧ t.minSvns = s.minSvns ∧ t.images = s.images
    ∧ (∀ a < 2 ^ 56, memGet t.mem a = memGet s.mem a)
    ∧ (∀ k, 1 ≤ k → k ≤ 6 → t.imageOf k = s.storedImage k)
    ∧ ((∀ k, 1 ≤ k → k ≤ 6 → s.imageOk k (s.storedImage k) = true) → t.recovery = 0)
    ∧ ((∃ k, 1 ≤ k ∧ k ≤ 6 ∧ s.imageOk k (s.storedImage k) = false) → 1 ≤ t.recovery ∧ t.recovery ≤ 6
      ∧ s.imageOk t.recovery (s.storedImage t.recovery) = false)

/-! The special operands of R109. -/

/-- R108, R109: the table of special operands; a NaN operand is returned quiet; a subnormal under .ftz counts as zero; the logarithm of a power
of two and a power of two of an integer are exact. -/
def Obligations.SpecialOperands : Prop := ∀ (rnd : Rnd) (ftz : Bool),
  let rows : List (Spec × List Nat) :=
    [(.rcp, [0x80000000, 0xFF800000, 0x7F800000, 0]), (.sqrt, [0x7FC00000, 0x80000000, 0, 0x7F800000]), (.rsq, [0x7FC00000, 0xFF800000, 0x7F800000, 0]),
      (.exp2, [0, 0x3F800000, 0x3F800000, 0x7F800000]), (.log2, [0x7FC00000, 0xFF800000, 0xFF800000, 0x7F800000]),
      (.sin, [0x7FC00000, 0x80000000, 0, 0x7FC00000]), (.cos, [0x7FC00000, 0x3F800000, 0x3F800000, 0x7FC00000]),
      (.tanh, [0xBF800000, 0x80000000, 0, 0x3F800000]), (.sigm, [0, 0x3F000000, 0x3F000000, 0x3F800000])]
  (∀ r ∈ rows, [0xFF800000, 0x80000000, 0, 0x7F800000].map (fun a => specFn r.1 rnd ftz a) = r.2)
  ∧ (∀ f a, a % 2 ^ 31 > 0x7F800000 → a < 2 ^ 32 → specFn f rnd ftz a = a ||| 0x00400000)
  ∧ (∀ f ∈ [Spec.sqrt, .rsq, .log2], ∀ a, 0x80800000 ≤ a → a < 0xFF800000 → specFn f rnd ftz a = 0x7FC00000)
  ∧ (∀ f a, 0 < a → a < 0x00800000 → specFn f rnd true a = specFn f rnd true 0
      ∧ specFn f rnd true (0x80000000 + a) = specFn f rnd true 0x80000000)
  ∧ (∀ k < 254, specFn .log2 rnd ftz (2 ^ 23 * (k + 1)) = intToF .f32 .rne false ((k : Int) - 126)
      ∧ specFn .exp2 rnd ftz (intToF .f32 .rne false ((k : Int) - 126)) = 2 ^ 23 * (k + 1))

/-! Decoding (spec/02_instruction_word.md). -/

/-- R28, R29: words that the spec prints (spec/02_instruction_word.md, spec/04_vector_arithmetic.md, spec/06_matrix_instructions.md,
spec/09_memory_instructions.md, spec/10_async_engines.md, spec/12_control_instructions.md, spec/14_migration.md, spec/17_traps.md)
decode to the statements printed beside them. -/
def Obligations.DecodedWords : Prop :=
  let k : Ctl := ⟨none, false, false, 0⟩
  decodeTableWord 96 0x0103E00808FFFF8200000001 = some (.iadd k ⟨.i32, false, .rne, false, .x 8, .x 8, .imm 1, .zero⟩)
  ∧ decodeTableWord 96 0x2000700A0406FF1A00000000
    = some (.fadd ⟨some ⟨3, true⟩, false, false, 0⟩ ⟨.f32, false, .rz, false, .x 10, .x 4, .x 6, .zero⟩)
  ∧ decodeTableWord 96 0x1223E0E20809FF0200000000 = some (.icmp k .lt ⟨.i32, false, .rne, false, .p 2, .x 8, .x 9, .zero⟩)
  ∧ decodeTableWord 96 0x3403E3140C00FF4A00000000 = some (.mxpack { k with t := 3 } 0 ⟨.f32, true, .rne, false, .x 20, .x 12, .zero, .zero⟩)
  ∧ decodeTableWord 96 0x4103E0FFFFFFFF0000000003 = some (.dly k 3)
  ∧ decodeTableWord 96 0x4E03E00A09FFFF0000000000 = some (.ballot k (.x 10) (.x 9))
  ∧ decodeTableWord 96 0x6843E50802FF104200000010
    = some (.ldg { k with t := 5 } ⟨.b32, .i8, .glob, .dev, .acq, false, true, .x 8, .x 2, .zero, 16⟩)
  ∧ decodeTableWord 96 0x6F53E40C0310201600000008
    = some (.cas { k with t := 4 } ⟨.b64, .i8, .smem, .wg, .ar, false, false, .x 12, .x 3, .x 16, 8⟩)
  ∧ decodeTableWord 96 0x8603E2FF102840100000010B = some (.mma { k with t := 2 } ⟨.ind, 1, false, 0, 4, 1, 3, 64, .x 16, .x 40⟩)
  ∧ decodeTableWord 96 0xA003E61E10FFFF4100000001 = some (.bcopy { k with t := 6 } ⟨.dev, 0, 1, false, false, 1, .x 30, .x 16⟩)
  ∧ decodeTableWord 96 0xA703E0FFFF00000000108104 = some (.migset k 0x000000108104)
  ∧ decodeTableWord 96 0xC303E0FF88FFFF0000000100 = some (.sysw k (.s 8) 0x100)
  ∧ decodeTableWord 96 0xC10BE0FFFFFFFF0000000001 = some (.tret { k with e := true } true)

/-- R28, R36: every well-formed instruction that a word stands for has a word, and decoding that word, as a value or from its twelve bytes
before any others, gives the instruction back with every operand; an event has no word. -/
def Obligations.WordsDecodeToTheirInstructions : Prop := ∀ (i : Instr), i.wf = true →
  (i.isWord = true → ∃ w, encode i = some w ∧ decode w = .ok i ∧ ∀ rest, decodeBytes (bytesOfWord w ++ rest) = .ok (i, rest))
  ∧ (i.isWord = false → encode i = none)

/-! Memory (spec/07_memory_tiers.md). -/

/-- Every step that answers a next state keeps memory in its canonical form: addresses strictly rising, and no entry listed that an unlisted
address reads as (the model's form: log entry 5). -/
def Obligations.StepsKeepMemoryCanonical : Prop := ∀ (s t : State), Memory.wf s.mem = true → step s = .next t → Memory.wf t.mem = true
end

