-- ==== Sys2Proof/Laws/Maps.lean ====
section
/-! SUPPORT. Laws of the sparse maps: what a key reads as after each operation, and that the canonical form is kept. -/

namespace Sys2Proof.Machine

variable {α : Type}

@[simp] theorem mfind_nil (n : Nat) : mfind ([] : List (Nat × α)) n = none := rfl

theorem mfind_minsert (m : List (Nat × α)) (n k : Nat) (x : α) : mfind (minsert m n x) k = if n = k then some x else mfind m k := by
  induction m with
  | nil => simp [minsert, mfind]
  | cons e m ih =>
    obtain ⟨a, v⟩ := e
    simp only [minsert]
    split
    · subst_vars; simp only [mfind]; split <;> rfl
    · split
      · simp only [mfind]
      · simp only [mfind, ih]; split
        · rename_i h1 h2 h3; subst h3; simp [Ne.symm h1]
        · rfl

theorem mfind_merase (m : List (Nat × α)) (n k : Nat) : mfind (merase m n) k = if n = k then none else mfind m k := by
  induction m with
  | nil => simp [merase]
  | cons e m ih =>
    obtain ⟨a, v⟩ := e
    simp only [merase] at ih ⊢
    by_cases h : a = n
    · subst h; simp only [List.filter_cons, bne_self_eq_false, Bool.false_eq_true, if_false, ih, mfind]; split <;> rfl
    · have : (a != n) = true := by simpa using h
      simp only [List.filter_cons, this, if_true, mfind, ih]
      split
      · rename_i h2; subst h2; simp [Ne.symm h]
      · rfl

@[simp] theorem mget_minsert_self (d : α) (m : List (Nat × α)) (n : Nat) (x : α) : mget d (minsert m n x) n = x := by
  simp [mget, mfind_minsert]
theorem mget_minsert (d : α) (m : List (Nat × α)) (n k : Nat) (x : α) : mget d (minsert m n x) k = if n = k then x else mget d m k := by
  simp only [mget, mfind_minsert]; split <;> rfl
theorem mget_merase (d : α) (m : List (Nat × α)) (n k : Nat) : mget d (merase m n) k = if n = k then d else mget d m k := by
  simp only [mget, mfind_merase]; split <;> rfl
theorem mget_mset [DecidableEq α] (d : α) (m : List (Nat × α)) (n k : Nat) (x : α) :
    mget d (mset d m n x) k = if n = k then x else mget d m k := by
  unfold mset; split
  · subst_vars; rw [mget_merase]
  · rw [mget_minsert]
@[simp] theorem mget_mset_self [DecidableEq α] (d : α) (m : List (Nat × α)) (n : Nat) (x : α) : mget d (mset d m n x) n = x := by
  simp [mget_mset]

/-- A function of the value at one key. -/
theorem mfind_mmod (m : List (Nat × α)) (n k : Nat) (f : α → α) :
    mfind (mmod m n f) k = if n = k then (mfind m k).map f else mfind m k := by
  induction m with
  | nil => simp [mmod]
  | cons e m ih =>
    obtain ⟨a, v⟩ := e
    simp only [mmod, List.map_cons] at ih ⊢
    by_cases h : a = n
    · subst h; simp only [if_pos, mfind, ih]; split <;> simp_all
    · simp only [h, if_false, mfind, ih]; split
      · rename_i h2; subst h2; simp [Ne.symm h]
      · rfl

/-! The canonical form. -/

/-- The keys lie above a bound. -/
def above (b : Option Nat) (m : List (Nat × α)) : Prop := ∀ e ∈ m, ∀ x, b = some x → x < e.1

variable [DecidableEq α] {d : α}

theorem msortedFrom_cons {b : Option Nat} {k : Nat} {v : α} {m : List (Nat × α)} :
    msortedFrom d b ((k, v) :: m) = true ↔ (∀ x, b = some x → x < k) ∧ v ≠ d ∧ msortedFrom d (some k) m = true := by
  cases b <;> simp [msortedFrom, and_assoc]

theorem msortedFrom_weaken {k x : Nat} {m : List (Nat × α)} (h : msortedFrom d (some k) m = true) (hx : x ≤ k) :
    msortedFrom d (some x) m = true := by
  cases m with
  | nil => rfl
  | cons e m =>
    obtain ⟨a, v⟩ := e
    rw [msortedFrom_cons] at h ⊢
    refine ⟨?_, h.2⟩
    intro y hy; have := h.1 k rfl; cases hy; omega

theorem msortedFrom_none {b : Option Nat} {m : List (Nat × α)} (h : msortedFrom d b m = true) : msortedFrom d none m = true := by
  cases m with
  | nil => rfl
  | cons e m =>
    obtain ⟨a, v⟩ := e
    rw [msortedFrom_cons] at h ⊢
    exact ⟨by simp, h.2⟩

theorem msortedFrom_filter {b : Option Nat} {m : List (Nat × α)} (f : Nat × α → Bool) (h : msortedFrom d b m = true) :
    msortedFrom d b (m.filter f) = true := by
  induction m generalizing b with
  | nil => rfl
  | cons e m ih =>
    obtain ⟨a, v⟩ := e
    rw [msortedFrom_cons] at h
    rw [List.filter_cons]; split
    · rw [msortedFrom_cons]; exact ⟨h.1, h.2.1, ih h.2.2⟩
    · cases b with
      | none => exact msortedFrom_none (ih h.2.2)
      | some x => exact ih (msortedFrom_weaken h.2.2 (Nat.le_of_lt (h.1 x rfl)))

theorem msortedFrom_minsert {b : Option Nat} {m : List (Nat × α)} {n : Nat} {x : α} (hx : x ≠ d) (hb : ∀ y, b = some y → y < n)
    (h : msortedFrom d b m = true) : msortedFrom d b (minsert m n x) = true := by
  induction m generalizing b with
  | nil => rw [minsert, msortedFrom_cons]; exact ⟨hb, hx, rfl⟩
  | cons e m ih =>
    obtain ⟨a, v⟩ := e
    rw [msortedFrom_cons] at h
    simp only [minsert]
    split
    · subst_vars; rw [msortedFrom_cons]; exact ⟨hb, hx, h.2.2⟩
    · split
      · rw [msortedFrom_cons, msortedFrom_cons]
        refine ⟨hb, hx, ?_, h.2⟩
        intro y hy; cases hy; assumption
      · rw [msortedFrom_cons]
        refine ⟨h.1, h.2.1, ih ?_ h.2.2⟩
        intro y hy; cases hy; omega

/-- Setting a key keeps the canonical form. -/
theorem mwf_mset {m : List (Nat × α)} {n : Nat} {x : α} (h : mwf d m = true) : mwf d (mset d m n x) = true := by
  unfold mset; split
  · exact msortedFrom_filter _ h
  · exact msortedFrom_minsert (by assumption) (by simp) h
theorem mwf_filter {m : List (Nat × α)} (f : Nat × α → Bool) (h : mwf d m = true) : mwf d (m.filter f) = true := msortedFrom_filter f h

end Sys2Proof.Machine
end

