-- ==== Sys2Proof/Laws/Memory.lean ====
section
/-! SUPPORT. Laws of the memory: read after write, what a write leaves alone, and that every operation keeps the canonical form. -/

namespace Sys2Proof.Machine

/-! One byte. -/

theorem memGet_memSet (m : List Host.Cell) (k a : Nat) (b : Byte) : memGet (memSet m k b) a = if k = a then b else memGet m a := by
  simp only [memGet, memSet, mget_mset]
@[simp] theorem memGet_memSet_self (m : List Host.Cell) (k : Nat) (b : Byte) : memGet (memSet m k b) k = b := by
  simp [memGet_memSet]
theorem memGet_memSet_ne {m : List Host.Cell} {k a : Nat} {b : Byte} (h : k ≠ a) : memGet (memSet m k b) a = memGet m a := by
  simp [memGet_memSet, h]

/-! Words. -/

/-- A write leaves every byte outside it alone. -/
theorem memGet_memWrite_out (m : List Host.Cell) (k n v a : Nat) (h : a < k ∨ k + n ≤ a) : memGet (memWrite m k n v) a = memGet m a := by
  induction n generalizing m k v with
  | zero => rfl
  | succ n ih => rw [memWrite, ih _ _ _ (by omega), memGet_memSet_ne (by omega)]
/-- Byte i of a write is byte i of the value. -/
theorem memGet_memWrite_in (m : List Host.Cell) (k n v i : Nat) (h : i < n) :
    memGet (memWrite m k n v) (k + i) = BitVec.ofNat 8 (v / 256 ^ i) := by
  induction n generalizing m k v i with
  | zero => omega
  | succ n ih =>
    rw [memWrite]
    cases i with
    | zero => rw [memGet_memWrite_out _ _ _ _ _ (by omega)]; simp
    | succ i =>
      have := ih (memSet m k (BitVec.ofNat 8 v)) (k + 1) (v / 256) i (by omega)
      rw [show k + (i + 1) = k + 1 + i by omega, this, Nat.div_div_eq_div_mul, Nat.pow_succ, Nat.mul_comm]
/-- A read of bytes that agree. -/
theorem memRead_congr {m m' : List Host.Cell} {k n : Nat} (h : ∀ a, k ≤ a → a < k + n → memGet m a = memGet m' a) :
    memRead m k n = memRead m' k n := by
  induction n generalizing k with
  | zero => rfl
  | succ n ih =>
    rw [memRead, memRead, h k (by omega) (by omega), ih fun a h1 h2 => h a (by omega) (by omega)]
/-- A read after a write of the same bytes gives the value written. -/
theorem memRead_memWrite (m : List Host.Cell) (k n v : Nat) : memRead (memWrite m k n v) k n = v % 256 ^ n := by
  induction n generalizing m k v with
  | zero => simp [memRead, Nat.mod_one]
  | succ n ih =>
    have h0 : memGet (memWrite m k (n + 1) v) k = BitVec.ofNat 8 v := by
      have := memGet_memWrite_in m k (n + 1) v 0 (by omega); simpa using this
    rw [memRead, h0, memWrite, ih]
    rw [BitVec.toNat_ofNat, show 256 ^ (n + 1) = 256 * 256 ^ n by ring, Nat.mod_mul]
/-- A read of bytes outside a write gives what it gave before. -/
theorem memRead_memWrite_out (m : List Host.Cell) (k n v a l : Nat) (h : a + l ≤ k ∨ k + n ≤ a) :
    memRead (memWrite m k n v) a l = memRead m a l :=
  memRead_congr fun _ h1 h2 => memGet_memWrite_out m k n v _ (by omega)

/-- A cleared byte reads as the default, another as before. -/
theorem memGet_memClear (m : List Host.Cell) (k n a : Nat) :
    memGet (memClear m k n) a = if k ≤ a ∧ a < k + n then memDefault else memGet m a := by
  induction m with
  | nil => simp [memClear, memGet, mget]
  | cons c m ih =>
    obtain ⟨x, b⟩ := c
    simp only [memGet, mget, memClear] at ih ⊢
    rw [List.filter_cons]
    by_cases hx : k ≤ x ∧ x < k + n
    · simp only [hx, decide_true, Bool.and_self, Bool.not_true, Bool.false_eq_true, if_false, ih, mfind]
      split
      · rfl
      · rename_i h; split
        · subst_vars; exact absurd hx h
        · rfl
    · have : (!(decide (k ≤ x) && decide (x < k + n))) = true := by
        simp only [Bool.not_eq_true', Bool.and_eq_false_iff, decide_eq_false_iff_not]; omega
      simp only [this, if_true, mfind]
      by_cases hxa : x = a
      · subst hxa; simp [hx]
      · simpa [hxa] using ih

/-! The canonical form. -/

theorem memSet_wf {m : List Host.Cell} {k : Nat} {b : Byte} (h : Memory.wf m = true) : Memory.wf (memSet m k b) = true := mwf_mset h
theorem memWrite_wf {m : List Host.Cell} {k n v : Nat} (h : Memory.wf m = true) : Memory.wf (memWrite m k n v) = true := by
  induction n generalizing m k v with
  | zero => exact h
  | succ n ih => exact ih (memSet_wf h)
theorem memPut_wf {m : List Host.Cell} {k : Nat} {bs : List Byte} (h : Memory.wf m = true) : Memory.wf (memPut m k bs) = true := by
  induction bs generalizing m k with
  | nil => exact h
  | cons b bs ih => exact ih (memSet_wf h)
theorem memClear_wf {m : List Host.Cell} {k n : Nat} (h : Memory.wf m = true) : Memory.wf (memClear m k n) = true := mwf_filter _ h
theorem foldl_memSet_wf {α : Type} (f : α → Nat) (g : α → Byte) (cs : List α) {m : List Host.Cell} (h : Memory.wf m = true) :
    Memory.wf (cs.foldl (fun m' c => memSet m' (f c) (g c)) m) = true := by
  induction cs generalizing m with
  | nil => exact h
  | cons c cs ih => exact ih (memSet_wf h)
theorem memMove_wf {m : List Host.Cell} {a b n : Nat} (h : Memory.wf m = true) : Memory.wf (memMove m a b n) = true :=
  foldl_memSet_wf _ _ _ (memClear_wf (memClear_wf h))
theorem memSwap_wf {m : List Host.Cell} {a b n : Nat} (h : Memory.wf m = true) : Memory.wf (memSwap m a b n) = true :=
  foldl_memSet_wf _ _ _ (foldl_memSet_wf _ _ _ (memClear_wf (memClear_wf h)))
theorem reset_mem_wf : Memory.wf State.reset.mem = true := rfl

end Sys2Proof.Machine
end

