-- ==== Sys2Proof/Laws/Regs.lean ====
section
/-! SUPPORT. Registers of a group: what every update of a group does to them. -/

namespace Sys2Proof.Machine

/-! Threads. -/

theorem Group.thread?_modThread (g : Group) (a b : Nat) (f : Thread → Thread) (hf : ∀ t, (f t).slot = t.slot) :
    (g.modThread a f).thread? b = if a = b then (g.thread? b).map f else g.thread? b := by
  simp only [Group.modThread, Group.thread?]
  generalize g.threads = ts
  induction ts with
  | nil => simp
  | cons t ts ih =>
    simp only [List.map_cons, List.find?_cons] at ih ⊢
    by_cases h1 : t.slot = a
    · subst h1
      simp only [if_true, hf] at ih ⊢
      by_cases h2 : t.slot = b
      · subst h2; simp
      · have : (t.slot == b) = false := by simpa using h2
        simp only [this, h2, if_false] at ih ⊢; exact ih
    · simp only [h1, if_false]
      by_cases h2 : t.slot = b
      · subst h2; simp [Ne.symm h1]
      · have : (t.slot == b) = false := by simpa using h2
        simp only [this]; exact ih
theorem Group.thread?_modThreads (g : Group) (as : List Nat) (b : Nat) (f : Thread → Thread) (hf : ∀ t, (f t).slot = t.slot) :
    (g.modThreads as f).thread? b = if as.contains b then (g.thread? b).map f else g.thread? b := by
  simp only [Group.modThreads, Group.thread?]
  generalize g.threads = ts
  induction ts with
  | nil => simp
  | cons t ts ih =>
    simp only [List.map_cons, List.find?_cons] at ih ⊢
    by_cases h1 : t.slot = b
    · have h3 : ((if as.contains t.slot then f t else t).slot == b) = true := by split <;> simp [hf, h1]
      have h2 : (t.slot == b) = true := by simpa using h1
      rw [h3, h2, ← h1]; dsimp only; split <;> rfl
    · have h2 : (t.slot == b) = false := by simpa using h1
      have h3 : ((if as.contains t.slot then f t else t).slot == b) = false := by split <;> simp [hf, h1]
      simp only [h2, h3]; exact ih

/-! What does not touch threads or s registers does not touch a register. -/

theorem Group.reg_congr {g h : Group} (ht : g.threads = h.threads) (hs : g.s = h.s) (slot code : Nat) : g.reg slot code = h.reg slot code := by
  simp [Group.reg, Group.thread?, ht, hs]
/-- A change of threads that keeps their registers. -/
theorem Group.reg_map (g h : Group) (f : Thread → Thread) (hf : ∀ t, (f t).slot = t.slot ∧ (f t).x = t.x ∧ (f t).p = t.p)
    (ht : h.threads = g.threads.map f) (hs : h.s = g.s) (slot code : Nat) : h.reg slot code = g.reg slot code := by
  have : h.thread? slot = (g.thread? slot).map f := by
    simp only [Group.thread?, ht, List.find?_map]; congr 1
    congr 1; funext t; simp [(hf t).1]
  simp only [Group.reg, this, hs]
  cases g.thread? slot with
  | none => rfl
  | some t => simp only [Option.map_some, (hf t).2.1, (hf t).2.2]

/-! Writing one register. -/

/-- The value that a register of a code takes of a word: a predicate takes bit 0. -/
def regVal (code : Nat) (v : Word) : Word := if code < 0xC0 then v else BitVec.ofNat 32 (b2n (v.toNat.testBit 0))

theorem predBit_set (p : BitVec 24) (k j : Nat) (b : Bool) (hk : k < 24) :
    (if b then p ||| BitVec.ofNat 24 (1 <<< k) else p &&& ~~~ BitVec.ofNat 24 (1 <<< k)).toNat.testBit j
      = if k = j then b else p.toNat.testBit j := by
  have h1 : ∀ i, (BitVec.ofNat 24 (1 <<< k)).getLsbD i = decide (k = i) := by
    intro i
    rw [BitVec.getLsbD_ofNat, Nat.one_shiftLeft, Nat.testBit_two_pow]
    by_cases h : k = i
    · subst h; simp [hk]
    · simp [h]
  simp only [BitVec.testBit_toNat]
  by_cases hj : k = j
  · subst hj; cases b
    · simp [BitVec.getLsbD_and, BitVec.getLsbD_not, h1]
    · simp [BitVec.getLsbD_or, h1]
  · cases b
    · simp only [Bool.false_eq_true, if_false, BitVec.getLsbD_and, BitVec.getLsbD_not, h1, hj, decide_false, Bool.not_false, Bool.and_true]
      by_cases hlt : j < 24
      · simp [hlt]
      · simp [BitVec.getLsbD_of_ge _ _ (Nat.le_of_not_lt hlt)]
    · simp [BitVec.getLsbD_or, h1, hj]

@[simp] theorem Group.heal_threads (g : Group) (a b : Nat) : (g.heal a b).threads = g.threads := rfl
@[simp] theorem Group.heal_s (g : Group) (a b : Nat) : (g.heal a b).s = g.s := rfl
@[simp] theorem Group.heal_thread? (g : Group) (a b n : Nat) : (g.heal a b).thread? n = g.thread? n := rfl
@[simp] theorem Group.heal_reg (g : Group) (a b n k : Nat) : (g.heal a b).reg n k = g.reg n k := rfl
@[simp] theorem Group.modThread_s (g : Group) (n : Nat) (f : Thread → Thread) : (g.modThread n f).s = g.s := rfl

theorem Group.reg_setReg (g : Group) (slot code n k : Nat) (v : Word) (hc : regCode code) (hk : regCode k) :
    (g.setReg slot code v).reg n k =
      if code = k ∧ ((0x80 ≤ k ∧ k < 0xC0) ∨ (slot = n ∧ (g.thread? n).isSome)) then regVal code v else g.reg n k := by
  unfold Group.setReg
  rw [← Group.heal_reg g slot code n k, ← Group.heal_thread? g slot code n]
  generalize g.heal slot code = g
  by_cases h1 : code < 0x80
  · rw [if_pos h1]
    have hv : regVal code v = v := by simp [regVal, show code < 192 by omega]
    simp only [Group.reg, hv, Group.modThread_s]
    rw [Group.thread?_modThread (hf := by intro t; rfl)]
    by_cases hck : code = k
    · subst hck
      have hn : ¬ (128 ≤ code ∧ code < 192) := by omega
      simp only [h1, if_true, hn, false_or, true_and]
      by_cases hs : slot = n
      · subst hs; cases g.thread? slot <;> simp
      · simp [hs]
    · simp only [hck, false_and, if_false]
      split
      · cases g.thread? n <;> simp
        split <;> simp [mget_mset, hck]
      · split
        · rfl
        · cases g.thread? n <;> simp
          split <;> simp
  · rw [if_neg h1]
    by_cases h2 : code < 0xC0
    · rw [if_pos h2]
      have hv : regVal code v = v := by simp [regVal, h2]
      simp only [Group.reg, Group.thread?, hv]
      by_cases hck : code = k
      · subst hck; simp [h1, h2, Nat.le_of_not_lt h1]
      · simp only [hck, false_and, if_false]
        split
        · rfl
        · split
          · rw [mget_mset, if_neg]; omega
          · rfl
    · rw [if_neg h2]
      have hp : 0xE0 ≤ code ∧ code < 0xF8 := by rcases hc with h | h <;> omega
      simp only [Group.reg, Group.modThread_s]
      rw [Group.thread?_modThread (hf := by intro t; rfl)]
      by_cases hck : code = k
      · subst hck
        have hn : ¬ (128 ≤ code ∧ code < 192) := by omega
        simp only [h1, h2, if_false, true_and, regVal]
        by_cases hs : slot = n
        · subst hs
          cases g.thread? slot with
          | none => simp
          | some t =>
            simp only [if_true, Option.map_some, Option.getD_some, Option.isSome_some, and_self, or_true]
            rw [predBit_set _ _ _ _ (by omega), if_pos rfl]
        · simp [hs]
      · simp only [hck, false_and, if_false]
        split
        · cases g.thread? n <;> simp
          split <;> simp
        · split
          · rfl
          · cases g.thread? n with
            | none => simp
            | some t =>
              split
              · have hne : ¬ (code - 0xE0 = k - 0xE0) := by rcases hk with h | h <;> omega
                simp only [Option.map_some, Option.getD_some]
                rw [predBit_set _ _ _ _ (by omega), if_neg hne]
              · rfl

theorem Group.thread?_setReg (g : Group) (slot code n : Nat) (v : Word) : ((g.setReg slot code v).thread? n).isSome = (g.thread? n).isSome := by
  unfold Group.setReg
  rw [← Group.heal_thread? g slot code n]
  generalize g.heal slot code = g
  split
  · rw [Group.thread?_modThread]; split <;> simp; intro t; rfl
  · split
    · rfl
    · rw [Group.thread?_modThread]; split <;> simp; intro t; rfl

/-! Fixed-latency writes (R44, R48). -/

@[simp] theorem Group.reg_putFixed (g : Group) (lat slot code : Nat) (v : Word) (n k : Nat) :
    (g.putFixed lat slot code v).reg n k = (g.setReg slot code v).reg n k := Group.reg_congr rfl rfl _ _
theorem Group.thread?_putFixed (g : Group) (lat slot code n : Nat) (v : Word) :
    ((g.putFixed lat slot code v).thread? n).isSome = (g.thread? n).isSome := Group.thread?_setReg ..

/-- A write reaches the register of a thread: its own, or the group's s register. -/
def RegWrite.at_ (w : RegWrite) (g : Group) (n k : Nat) : Prop :=
  w.code = k ∧ ((0x80 ≤ k ∧ k < 0xC0) ∨ (w.slot = n ∧ (g.thread? n).isSome))

theorem Group.setReg_s_threads (g : Group) (slot code : Nat) (v : Word) (h : 0x80 ≤ code ∧ code < 0xC0) :
    (g.setReg slot code v).threads = g.threads := by
  unfold Group.setReg; rw [if_neg (by omega), if_pos h.2]; rfl
theorem Group.foldl_hazards (head : List Nat) (lat code : Nat) (old : Word) (h : 0x80 ≤ code ∧ code < 0xC0) (g : Group) :
    (head.foldl (fun g n => ({ g.putFixed lat n code old with s := g.s } : Group)) g).threads = g.threads
      ∧ (head.foldl (fun g n => ({ g.putFixed lat n code old with s := g.s } : Group)) g).s = g.s := by
  induction head generalizing g with
  | nil => exact ⟨rfl, rfl⟩
  | cons a as ih =>
    have := ih { g.putFixed lat a code old with s := g.s }
    refine ⟨this.1.trans ?_, this.2.trans rfl⟩
    exact Group.setReg_s_threads g a code old h

/-- One write of the list. -/
theorem Group.writeFixed_one (g : Group) (head : List Nat) (lat : Nat) (w : RegWrite) (hc : regCode w.code) (n k : Nat) (hk : regCode k) :
    (g.writeFixed head lat [w]).reg n k
        = (if w.code = k ∧ ((0x80 ≤ k ∧ k < 0xC0) ∨ (w.slot = n ∧ (g.thread? n).isSome)) then regVal w.code w.v else g.reg n k)
      ∧ ((g.writeFixed head lat [w]).thread? n).isSome = (g.thread? n).isSome := by
  simp only [Group.writeFixed, List.foldl_cons, List.foldl_nil]
  split
  · rename_i h
    simp only [Bool.and_eq_true, decide_eq_true_eq] at h
    have h0 := Group.foldl_hazards head lat w.code (g.reg w.slot w.code) h g
    generalize List.foldl _ g head = g' at h0 ⊢
    have hset := Group.reg_setReg g w.slot w.code n k w.v hc hk
    refine ⟨?_, by simp [Group.thread?, h0.1]⟩
    rw [← hset]
    refine Group.reg_congr ?_ ?_ n k
    · rw [Group.setReg_s_threads _ _ _ _ h]; exact h0.1
    · simp only [Group.setReg, if_neg (show ¬ w.code < 128 by omega), if_pos h.2, h0.2, Group.heal_s]
  · exact ⟨by rw [Group.reg_putFixed, Group.reg_setReg _ _ _ _ _ _ hc hk], Group.thread?_putFixed ..⟩

theorem Group.writeFixed_cons (g : Group) (head : List Nat) (lat : Nat) (w : RegWrite) (ws : List RegWrite) :
    g.writeFixed head lat (w :: ws) = (g.writeFixed head lat [w]).writeFixed head lat ws := rfl

/-- A register that no write names is as it was. -/
theorem Group.writeFixed_other (g : Group) (head : List Nat) (lat : Nat) (ws : List RegWrite) (hc : ∀ w ∈ ws, regCode w.code)
    (n k : Nat) (hk : regCode k) (h : ∀ w ∈ ws, ¬ (w.code = k ∧ ((0x80 ≤ k ∧ k < 0xC0) ∨ w.slot = n))) :
    (g.writeFixed head lat ws).reg n k = g.reg n k := by
  induction ws generalizing g with
  | nil => rfl
  | cons w ws ih =>
    rw [Group.writeFixed_cons, ih _ (fun v hv => hc v (by simp [hv])) (fun v hv => h v (by simp [hv])),
      (Group.writeFixed_one g head lat w (hc w (by simp)) n k hk).1, if_neg]
    intro ⟨h1, h2⟩
    exact h w (by simp) ⟨h1, h2.imp id (·.1)⟩
theorem Group.writeFixed_thread? (g : Group) (head : List Nat) (lat : Nat) (ws : List RegWrite) (hc : ∀ w ∈ ws, regCode w.code) (n : Nat) :
    ((g.writeFixed head lat ws).thread? n).isSome = (g.thread? n).isSome := by
  induction ws generalizing g with
  | nil => rfl
  | cons w ws ih =>
    rw [Group.writeFixed_cons, ih _ (fun v hv => hc v (by simp [hv])),
      (Group.writeFixed_one g head lat w (hc w (by simp)) n 0 (Or.inl (by omega))).2]
/-- A register that the writes name, all of them with one value, holds it. -/
theorem Group.writeFixed_value (g : Group) (head : List Nat) (lat : Nat) (ws : List RegWrite) (hc : ∀ w ∈ ws, regCode w.code)
    (n k : Nat) (hk : regCode k) (v : Word) (ht : (0x80 ≤ k ∧ k < 0xC0) ∨ (g.thread? n).isSome)
    (hv : ∀ w ∈ ws, w.code = k ∧ ((0x80 ≤ k ∧ k < 0xC0) ∨ w.slot = n) → regVal k w.v = v)
    (hw : (∃ w ∈ ws, w.code = k ∧ ((0x80 ≤ k ∧ k < 0xC0) ∨ w.slot = n)) ∨ g.reg n k = v) :
    (g.writeFixed head lat ws).reg n k = v := by
  induction ws generalizing g with
  | nil => rcases hw with ⟨w, hm, _⟩ | h
           · cases hm
           · exact h
  | cons w ws ih =>
    rw [Group.writeFixed_cons]
    have h1 := Group.writeFixed_one g head lat w (hc w (by simp)) n k hk
    refine ih _ (fun v hv => hc v (by simp [hv])) (ht.imp id fun h => by rw [h1.2]; exact h) (fun u hu => hv u (by simp [hu])) ?_
    by_cases hit : w.code = k ∧ ((0x80 ≤ k ∧ k < 0xC0) ∨ w.slot = n)
    · right
      rw [h1.1, if_pos]
      · rw [hit.1]; exact hv w (by simp) hit
      · refine ⟨hit.1, ?_⟩
        rcases ht with ht | ht
        · exact Or.inl ht
        · exact hit.2.imp id fun h => ⟨h, ht⟩
    · rcases hw with ⟨u, hu, hh⟩ | h
      · rcases List.mem_cons.1 hu with rfl | hu
        · exact absurd hh hit
        · exact Or.inl ⟨u, hu, hh⟩
      · right
        rw [h1.1, if_neg]
        · exact h
        · intro ⟨a, b⟩; exact hit ⟨a, b.imp id (·.1)⟩

end Sys2Proof.Machine
end

