-- ==== Sys2Proof/Laws/State.lean ====
section
/-! SUPPORT. Each named update of the state, field by field: what it changes and that every other field stays. -/

set_option Elab.async false

namespace Sys2Proof.Machine

variable (s : State)

/-! The field an update changes. -/

@[simp] theorem State.setCore_core (p : Nat) (c : Core) : (s.setCore p c).core p = c := by simp [State.core, State.setCore]
theorem State.setCore_core_ne {p q : Nat} (c : Core) (h : p ≠ q) : (s.setCore p c).core q = s.core q := by
  simp [State.core, State.setCore, mget_minsert, h]
@[simp] theorem State.modCore_core (p : Nat) (f : Core → Core) : (s.modCore p f).core p = f (s.core p) := State.setCore_core ..
theorem State.modCore_core_ne {p q : Nat} (f : Core → Core) (h : p ≠ q) : (s.modCore p f).core q = s.core q := State.setCore_core_ne _ _ h
@[simp] theorem State.setGroup_core (p gi : Nat) (g : Group) : (s.setGroup p gi g).core p = (s.core p).setGroup gi g := State.setCore_core ..
theorem State.setGroup_core_ne {p q : Nat} (gi : Nat) (g : Group) (h : p ≠ q) : (s.setGroup p gi g).core q = s.core q :=
  State.setCore_core_ne _ _ h
@[simp] theorem State.modGroup_core (p gi : Nat) (f : Group → Group) :
    (s.modGroup p gi f).core p = (s.core p).setGroup gi (f (s.group p gi)) := State.setCore_core ..
theorem State.modGroup_core_ne {p q : Nat} (gi : Nat) (f : Group → Group) (h : p ≠ q) : (s.modGroup p gi f).core q = s.core q :=
  State.setCore_core_ne _ _ h
@[simp] theorem State.modCtx_ctx (c : Nat) (f : Ctx → Ctx) : (s.modCtx c f).ctx c = f (s.ctx c) := by simp [State.ctx, State.modCtx]
theorem State.modCtx_ctx_ne {c k : Nat} (f : Ctx → Ctx) (h : c ≠ k) : (s.modCtx c f).ctx k = s.ctx k := by
  simp [State.ctx, State.modCtx, mget_minsert, h]
@[simp] theorem State.modPart_part (c : Nat) (f : Part → Part) : (s.modPart c f).part c = (s.part c).map f := by
  simp [State.part, State.modPart, mfind_mmod]
theorem State.modPart_part_ne {c k : Nat} (f : Part → Part) (h : c ≠ k) : (s.modPart c f).part k = s.part k := by
  simp [State.part, State.modPart, mfind_mmod, h]
@[simp] theorem State.write_mem (k n v : Nat) : (s.write k n v).mem = memWrite s.mem k n v := rfl

/-! The fields it leaves. -/

@[simp] theorem State.setCore_inbox (p : Nat) (c : Core) : (s.setCore p c).inbox = s.inbox := rfl
@[simp] theorem State.setCore_draws (p : Nat) (c : Core) : (s.setCore p c).draws = s.draws := rfl
@[simp] theorem State.setCore_pace (p : Nat) (c : Core) : (s.setCore p c).pace = s.pace := rfl
@[simp] theorem State.setCore_focus (p : Nat) (c : Core) : (s.setCore p c).focus = s.focus := rfl
@[simp] theorem State.setCore_ticks (p : Nat) (c : Core) : (s.setCore p c).ticks = s.ticks := rfl
@[simp] theorem State.setCore_cadence (p : Nat) (c : Core) : (s.setCore p c).cadence = s.cadence := rfl
@[simp] theorem State.setCore_islands (p : Nat) (c : Core) : (s.setCore p c).islands = s.islands := rfl
@[simp] theorem State.setCore_power (p : Nat) (c : Core) : (s.setCore p c).power = s.power := rfl
@[simp] theorem State.setCore_mem (p : Nat) (c : Core) : (s.setCore p c).mem = s.mem := rfl
@[simp] theorem State.setCore_fuses (p : Nat) (c : Core) : (s.setCore p c).fuses = s.fuses := rfl
@[simp] theorem State.setCore_lmap (p : Nat) (c : Core) : (s.setCore p c).lmap = s.lmap := rfl
@[simp] theorem State.setCore_walkers (p : Nat) (c : Core) : (s.setCore p c).walkers = s.walkers := rfl
@[simp] theorem State.setCore_ctxs (p : Nat) (c : Core) : (s.setCore p c).ctxs = s.ctxs := rfl
@[simp] theorem State.setCore_parts (p : Nat) (c : Core) : (s.setCore p c).parts = s.parts := rfl
@[simp] theorem State.setCore_queues (p : Nat) (c : Core) : (s.setCore p c).queues = s.queues := rfl
@[simp] theorem State.setCore_launches (p : Nat) (c : Core) : (s.setCore p c).launches = s.launches := rfl
@[simp] theorem State.setCore_nextLaunch (p : Nat) (c : Core) : (s.setCore p c).nextLaunch = s.nextLaunch := rfl
@[simp] theorem State.setCore_heardEarly (p : Nat) (c : Core) : (s.setCore p c).heardEarly = s.heardEarly := rfl
@[simp] theorem State.setCore_saved (p : Nat) (c : Core) : (s.setCore p c).saved = s.saved := rfl
@[simp] theorem State.setCore_panniers (p : Nat) (c : Core) : (s.setCore p c).panniers = s.panniers := rfl
@[simp] theorem State.setCore_nextPannier (p : Nat) (c : Core) : (s.setCore p c).nextPannier = s.nextPannier := rfl
@[simp] theorem State.setCore_misses (p : Nat) (c : Core) : (s.setCore p c).misses = s.misses := rfl
@[simp] theorem State.setCore_nextMiss (p : Nat) (c : Core) : (s.setCore p c).nextMiss = s.nextMiss := rfl
@[simp] theorem State.setCore_leases (p : Nat) (c : Core) : (s.setCore p c).leases = s.leases := rfl
@[simp] theorem State.setCore_flagged (p : Nat) (c : Core) : (s.setCore p c).flagged = s.flagged := rfl
@[simp] theorem State.setCore_seals (p : Nat) (c : Core) : (s.setCore p c).seals = s.seals := rfl
@[simp] theorem State.setCore_replicas (p : Nat) (c : Core) : (s.setCore p c).replicas = s.replicas := rfl
@[simp] theorem State.setCore_collapsing (p : Nat) (c : Core) : (s.setCore p c).collapsing = s.collapsing := rfl
@[simp] theorem State.setCore_stalls (p : Nat) (c : Core) : (s.setCore p c).stalls = s.stalls := rfl
@[simp] theorem State.setCore_syncs (p : Nat) (c : Core) : (s.setCore p c).syncs = s.syncs := rfl
@[simp] theorem State.setCore_invals (p : Nat) (c : Core) : (s.setCore p c).invals = s.invals := rfl
@[simp] theorem State.setCore_poison (p : Nat) (c : Core) : (s.setCore p c).poison = s.poison := rfl
@[simp] theorem State.setCore_remaps (p : Nat) (c : Core) : (s.setCore p c).remaps = s.remaps := rfl
@[simp] theorem State.setCore_kept (p : Nat) (c : Core) : (s.setCore p c).kept = s.kept := rfl
@[simp] theorem State.setCore_lostHomes (p : Nat) (c : Core) : (s.setCore p c).lostHomes = s.lostHomes := rfl
@[simp] theorem State.setCore_retired (p : Nat) (c : Core) : (s.setCore p c).retired = s.retired := rfl
@[simp] theorem State.setCore_ueFrames (p : Nat) (c : Core) : (s.setCore p c).ueFrames = s.ueFrames := rfl
@[simp] theorem State.setCore_berr (p : Nat) (c : Core) : (s.setCore p c).berr = s.berr := rfl
@[simp] theorem State.setCore_weak (p : Nat) (c : Core) : (s.setCore p c).weak = s.weak := rfl
@[simp] theorem State.setCore_ceDue (p : Nat) (c : Core) : (s.setCore p c).ceDue = s.ceDue := rfl
@[simp] theorem State.setCore_ports (p : Nat) (c : Core) : (s.setCore p c).ports = s.ports := rfl
@[simp] theorem State.setCore_ctlWaits (p : Nat) (c : Core) : (s.setCore p c).ctlWaits = s.ctlWaits := rfl
@[simp] theorem State.setCore_pkgid (p : Nat) (c : Core) : (s.setCore p c).pkgid = s.pkgid := rfl
@[simp] theorem State.setCore_domain (p : Nat) (c : Core) : (s.setCore p c).domain = s.domain := rfl
@[simp] theorem State.setCore_ticketNext (p : Nat) (c : Core) : (s.setCore p c).ticketNext = s.ticketNext := rfl
@[simp] theorem State.setCore_ticketDone (p : Nat) (c : Core) : (s.setCore p c).ticketDone = s.ticketDone := rfl
@[simp] theorem State.setCore_seq (p : Nat) (c : Core) : (s.setCore p c).seq = s.seq := rfl
@[simp] theorem State.setCore_recovery (p : Nat) (c : Core) : (s.setCore p c).recovery = s.recovery := rfl
@[simp] theorem State.setCore_minSvns (p : Nat) (c : Core) : (s.setCore p c).minSvns = s.minSvns := rfl
@[simp] theorem State.setCore_images (p : Nat) (c : Core) : (s.setCore p c).images = s.images := rfl
@[simp] theorem State.setCore_running (p : Nat) (c : Core) : (s.setCore p c).running = s.running := rfl
@[simp] theorem State.setCore_mailbox (p : Nat) (c : Core) : (s.setCore p c).mailbox = s.mailbox := rfl
@[simp] theorem State.setCore_outbox (p : Nat) (c : Core) : (s.setCore p c).outbox = s.outbox := rfl
@[simp] theorem State.setCore_convErrs (p : Nat) (c : Core) : (s.setCore p c).convErrs = s.convErrs := rfl

@[simp] theorem State.modCore_inbox (p : Nat) (f : Core → Core) : (s.modCore p f).inbox = s.inbox := rfl
@[simp] theorem State.modCore_draws (p : Nat) (f : Core → Core) : (s.modCore p f).draws = s.draws := rfl
@[simp] theorem State.modCore_pace (p : Nat) (f : Core → Core) : (s.modCore p f).pace = s.pace := rfl
@[simp] theorem State.modCore_focus (p : Nat) (f : Core → Core) : (s.modCore p f).focus = s.focus := rfl
@[simp] theorem State.modCore_ticks (p : Nat) (f : Core → Core) : (s.modCore p f).ticks = s.ticks := rfl
@[simp] theorem State.modCore_cadence (p : Nat) (f : Core → Core) : (s.modCore p f).cadence = s.cadence := rfl
@[simp] theorem State.modCore_islands (p : Nat) (f : Core → Core) : (s.modCore p f).islands = s.islands := rfl
@[simp] theorem State.modCore_power (p : Nat) (f : Core → Core) : (s.modCore p f).power = s.power := rfl
@[simp] theorem State.modCore_mem (p : Nat) (f : Core → Core) : (s.modCore p f).mem = s.mem := rfl
@[simp] theorem State.modCore_fuses (p : Nat) (f : Core → Core) : (s.modCore p f).fuses = s.fuses := rfl
@[simp] theorem State.modCore_lmap (p : Nat) (f : Core → Core) : (s.modCore p f).lmap = s.lmap := rfl
@[simp] theorem State.modCore_walkers (p : Nat) (f : Core → Core) : (s.modCore p f).walkers = s.walkers := rfl
@[simp] theorem State.modCore_ctxs (p : Nat) (f : Core → Core) : (s.modCore p f).ctxs = s.ctxs := rfl
@[simp] theorem State.modCore_parts (p : Nat) (f : Core → Core) : (s.modCore p f).parts = s.parts := rfl
@[simp] theorem State.modCore_queues (p : Nat) (f : Core → Core) : (s.modCore p f).queues = s.queues := rfl
@[simp] theorem State.modCore_launches (p : Nat) (f : Core → Core) : (s.modCore p f).launches = s.launches := rfl
@[simp] theorem State.modCore_nextLaunch (p : Nat) (f : Core → Core) : (s.modCore p f).nextLaunch = s.nextLaunch := rfl
@[simp] theorem State.modCore_heardEarly (p : Nat) (f : Core → Core) : (s.modCore p f).heardEarly = s.heardEarly := rfl
@[simp] theorem State.modCore_saved (p : Nat) (f : Core → Core) : (s.modCore p f).saved = s.saved := rfl
@[simp] theorem State.modCore_panniers (p : Nat) (f : Core → Core) : (s.modCore p f).panniers = s.panniers := rfl
@[simp] theorem State.modCore_nextPannier (p : Nat) (f : Core → Core) : (s.modCore p f).nextPannier = s.nextPannier := rfl
@[simp] theorem State.modCore_misses (p : Nat) (f : Core → Core) : (s.modCore p f).misses = s.misses := rfl
@[simp] theorem State.modCore_nextMiss (p : Nat) (f : Core → Core) : (s.modCore p f).nextMiss = s.nextMiss := rfl
@[simp] theorem State.modCore_leases (p : Nat) (f : Core → Core) : (s.modCore p f).leases = s.leases := rfl
@[simp] theorem State.modCore_flagged (p : Nat) (f : Core → Core) : (s.modCore p f).flagged = s.flagged := rfl
@[simp] theorem State.modCore_seals (p : Nat) (f : Core → Core) : (s.modCore p f).seals = s.seals := rfl
@[simp] theorem State.modCore_replicas (p : Nat) (f : Core → Core) : (s.modCore p f).replicas = s.replicas := rfl
@[simp] theorem State.modCore_collapsing (p : Nat) (f : Core → Core) : (s.modCore p f).collapsing = s.collapsing := rfl
@[simp] theorem State.modCore_stalls (p : Nat) (f : Core → Core) : (s.modCore p f).stalls = s.stalls := rfl
@[simp] theorem State.modCore_syncs (p : Nat) (f : Core → Core) : (s.modCore p f).syncs = s.syncs := rfl
@[simp] theorem State.modCore_invals (p : Nat) (f : Core → Core) : (s.modCore p f).invals = s.invals := rfl
@[simp] theorem State.modCore_poison (p : Nat) (f : Core → Core) : (s.modCore p f).poison = s.poison := rfl
@[simp] theorem State.modCore_remaps (p : Nat) (f : Core → Core) : (s.modCore p f).remaps = s.remaps := rfl
@[simp] theorem State.modCore_kept (p : Nat) (f : Core → Core) : (s.modCore p f).kept = s.kept := rfl
@[simp] theorem State.modCore_lostHomes (p : Nat) (f : Core → Core) : (s.modCore p f).lostHomes = s.lostHomes := rfl
@[simp] theorem State.modCore_retired (p : Nat) (f : Core → Core) : (s.modCore p f).retired = s.retired := rfl
@[simp] theorem State.modCore_ueFrames (p : Nat) (f : Core → Core) : (s.modCore p f).ueFrames = s.ueFrames := rfl
@[simp] theorem State.modCore_berr (p : Nat) (f : Core → Core) : (s.modCore p f).berr = s.berr := rfl
@[simp] theorem State.modCore_weak (p : Nat) (f : Core → Core) : (s.modCore p f).weak = s.weak := rfl
@[simp] theorem State.modCore_ceDue (p : Nat) (f : Core → Core) : (s.modCore p f).ceDue = s.ceDue := rfl
@[simp] theorem State.modCore_ports (p : Nat) (f : Core → Core) : (s.modCore p f).ports = s.ports := rfl
@[simp] theorem State.modCore_ctlWaits (p : Nat) (f : Core → Core) : (s.modCore p f).ctlWaits = s.ctlWaits := rfl
@[simp] theorem State.modCore_pkgid (p : Nat) (f : Core → Core) : (s.modCore p f).pkgid = s.pkgid := rfl
@[simp] theorem State.modCore_domain (p : Nat) (f : Core → Core) : (s.modCore p f).domain = s.domain := rfl
@[simp] theorem State.modCore_ticketNext (p : Nat) (f : Core → Core) : (s.modCore p f).ticketNext = s.ticketNext := rfl
@[simp] theorem State.modCore_ticketDone (p : Nat) (f : Core → Core) : (s.modCore p f).ticketDone = s.ticketDone := rfl
@[simp] theorem State.modCore_seq (p : Nat) (f : Core → Core) : (s.modCore p f).seq = s.seq := rfl
@[simp] theorem State.modCore_recovery (p : Nat) (f : Core → Core) : (s.modCore p f).recovery = s.recovery := rfl
@[simp] theorem State.modCore_minSvns (p : Nat) (f : Core → Core) : (s.modCore p f).minSvns = s.minSvns := rfl
@[simp] theorem State.modCore_images (p : Nat) (f : Core → Core) : (s.modCore p f).images = s.images := rfl
@[simp] theorem State.modCore_running (p : Nat) (f : Core → Core) : (s.modCore p f).running = s.running := rfl
@[simp] theorem State.modCore_mailbox (p : Nat) (f : Core → Core) : (s.modCore p f).mailbox = s.mailbox := rfl
@[simp] theorem State.modCore_outbox (p : Nat) (f : Core → Core) : (s.modCore p f).outbox = s.outbox := rfl
@[simp] theorem State.modCore_convErrs (p : Nat) (f : Core → Core) : (s.modCore p f).convErrs = s.convErrs := rfl

@[simp] theorem State.setGroup_inbox (p gi : Nat) (g : Group) : (s.setGroup p gi g).inbox = s.inbox := rfl
@[simp] theorem State.setGroup_draws (p gi : Nat) (g : Group) : (s.setGroup p gi g).draws = s.draws := rfl
@[simp] theorem State.setGroup_pace (p gi : Nat) (g : Group) : (s.setGroup p gi g).pace = s.pace := rfl
@[simp] theorem State.setGroup_focus (p gi : Nat) (g : Group) : (s.setGroup p gi g).focus = s.focus := rfl
@[simp] theorem State.setGroup_ticks (p gi : Nat) (g : Group) : (s.setGroup p gi g).ticks = s.ticks := rfl
@[simp] theorem State.setGroup_cadence (p gi : Nat) (g : Group) : (s.setGroup p gi g).cadence = s.cadence := rfl
@[simp] theorem State.setGroup_islands (p gi : Nat) (g : Group) : (s.setGroup p gi g).islands = s.islands := rfl
@[simp] theorem State.setGroup_power (p gi : Nat) (g : Group) : (s.setGroup p gi g).power = s.power := rfl
@[simp] theorem State.setGroup_mem (p gi : Nat) (g : Group) : (s.setGroup p gi g).mem = s.mem := rfl
@[simp] theorem State.setGroup_fuses (p gi : Nat) (g : Group) : (s.setGroup p gi g).fuses = s.fuses := rfl
@[simp] theorem State.setGroup_lmap (p gi : Nat) (g : Group) : (s.setGroup p gi g).lmap = s.lmap := rfl
@[simp] theorem State.setGroup_walkers (p gi : Nat) (g : Group) : (s.setGroup p gi g).walkers = s.walkers := rfl
@[simp] theorem State.setGroup_ctxs (p gi : Nat) (g : Group) : (s.setGroup p gi g).ctxs = s.ctxs := rfl
@[simp] theorem State.setGroup_parts (p gi : Nat) (g : Group) : (s.setGroup p gi g).parts = s.parts := rfl
@[simp] theorem State.setGroup_queues (p gi : Nat) (g : Group) : (s.setGroup p gi g).queues = s.queues := rfl
@[simp] theorem State.setGroup_launches (p gi : Nat) (g : Group) : (s.setGroup p gi g).launches = s.launches := rfl
@[simp] theorem State.setGroup_nextLaunch (p gi : Nat) (g : Group) : (s.setGroup p gi g).nextLaunch = s.nextLaunch := rfl
@[simp] theorem State.setGroup_heardEarly (p gi : Nat) (g : Group) : (s.setGroup p gi g).heardEarly = s.heardEarly := rfl
@[simp] theorem State.setGroup_saved (p gi : Nat) (g : Group) : (s.setGroup p gi g).saved = s.saved := rfl
@[simp] theorem State.setGroup_panniers (p gi : Nat) (g : Group) : (s.setGroup p gi g).panniers = s.panniers := rfl
@[simp] theorem State.setGroup_nextPannier (p gi : Nat) (g : Group) : (s.setGroup p gi g).nextPannier = s.nextPannier := rfl
@[simp] theorem State.setGroup_misses (p gi : Nat) (g : Group) : (s.setGroup p gi g).misses = s.misses := rfl
@[simp] theorem State.setGroup_nextMiss (p gi : Nat) (g : Group) : (s.setGroup p gi g).nextMiss = s.nextMiss := rfl
@[simp] theorem State.setGroup_leases (p gi : Nat) (g : Group) : (s.setGroup p gi g).leases = s.leases := rfl
@[simp] theorem State.setGroup_flagged (p gi : Nat) (g : Group) : (s.setGroup p gi g).flagged = s.flagged := rfl
@[simp] theorem State.setGroup_seals (p gi : Nat) (g : Group) : (s.setGroup p gi g).seals = s.seals := rfl
@[simp] theorem State.setGroup_replicas (p gi : Nat) (g : Group) : (s.setGroup p gi g).replicas = s.replicas := rfl
@[simp] theorem State.setGroup_collapsing (p gi : Nat) (g : Group) : (s.setGroup p gi g).collapsing = s.collapsing := rfl
@[simp] theorem State.setGroup_stalls (p gi : Nat) (g : Group) : (s.setGroup p gi g).stalls = s.stalls := rfl
@[simp] theorem State.setGroup_syncs (p gi : Nat) (g : Group) : (s.setGroup p gi g).syncs = s.syncs := rfl
@[simp] theorem State.setGroup_invals (p gi : Nat) (g : Group) : (s.setGroup p gi g).invals = s.invals := rfl
@[simp] theorem State.setGroup_poison (p gi : Nat) (g : Group) : (s.setGroup p gi g).poison = s.poison := rfl
@[simp] theorem State.setGroup_remaps (p gi : Nat) (g : Group) : (s.setGroup p gi g).remaps = s.remaps := rfl
@[simp] theorem State.setGroup_kept (p gi : Nat) (g : Group) : (s.setGroup p gi g).kept = s.kept := rfl
@[simp] theorem State.setGroup_lostHomes (p gi : Nat) (g : Group) : (s.setGroup p gi g).lostHomes = s.lostHomes := rfl
@[simp] theorem State.setGroup_retired (p gi : Nat) (g : Group) : (s.setGroup p gi g).retired = s.retired := rfl
@[simp] theorem State.setGroup_ueFrames (p gi : Nat) (g : Group) : (s.setGroup p gi g).ueFrames = s.ueFrames := rfl
@[simp] theorem State.setGroup_berr (p gi : Nat) (g : Group) : (s.setGroup p gi g).berr = s.berr := rfl
@[simp] theorem State.setGroup_weak (p gi : Nat) (g : Group) : (s.setGroup p gi g).weak = s.weak := rfl
@[simp] theorem State.setGroup_ceDue (p gi : Nat) (g : Group) : (s.setGroup p gi g).ceDue = s.ceDue := rfl
@[simp] theorem State.setGroup_ports (p gi : Nat) (g : Group) : (s.setGroup p gi g).ports = s.ports := rfl
@[simp] theorem State.setGroup_ctlWaits (p gi : Nat) (g : Group) : (s.setGroup p gi g).ctlWaits = s.ctlWaits := rfl
@[simp] theorem State.setGroup_pkgid (p gi : Nat) (g : Group) : (s.setGroup p gi g).pkgid = s.pkgid := rfl
@[simp] theorem State.setGroup_domain (p gi : Nat) (g : Group) : (s.setGroup p gi g).domain = s.domain := rfl
@[simp] theorem State.setGroup_ticketNext (p gi : Nat) (g : Group) : (s.setGroup p gi g).ticketNext = s.ticketNext := rfl
@[simp] theorem State.setGroup_ticketDone (p gi : Nat) (g : Group) : (s.setGroup p gi g).ticketDone = s.ticketDone := rfl
@[simp] theorem State.setGroup_seq (p gi : Nat) (g : Group) : (s.setGroup p gi g).seq = s.seq := rfl
@[simp] theorem State.setGroup_recovery (p gi : Nat) (g : Group) : (s.setGroup p gi g).recovery = s.recovery := rfl
@[simp] theorem State.setGroup_minSvns (p gi : Nat) (g : Group) : (s.setGroup p gi g).minSvns = s.minSvns := rfl
@[simp] theorem State.setGroup_images (p gi : Nat) (g : Group) : (s.setGroup p gi g).images = s.images := rfl
@[simp] theorem State.setGroup_running (p gi : Nat) (g : Group) : (s.setGroup p gi g).running = s.running := rfl
@[simp] theorem State.setGroup_mailbox (p gi : Nat) (g : Group) : (s.setGroup p gi g).mailbox = s.mailbox := rfl
@[simp] theorem State.setGroup_outbox (p gi : Nat) (g : Group) : (s.setGroup p gi g).outbox = s.outbox := rfl
@[simp] theorem State.setGroup_convErrs (p gi : Nat) (g : Group) : (s.setGroup p gi g).convErrs = s.convErrs := rfl

@[simp] theorem State.modGroup_inbox (p gi : Nat) (f : Group → Group) : (s.modGroup p gi f).inbox = s.inbox := rfl
@[simp] theorem State.modGroup_draws (p gi : Nat) (f : Group → Group) : (s.modGroup p gi f).draws = s.draws := rfl
@[simp] theorem State.modGroup_pace (p gi : Nat) (f : Group → Group) : (s.modGroup p gi f).pace = s.pace := rfl
@[simp] theorem State.modGroup_focus (p gi : Nat) (f : Group → Group) : (s.modGroup p gi f).focus = s.focus := rfl
@[simp] theorem State.modGroup_ticks (p gi : Nat) (f : Group → Group) : (s.modGroup p gi f).ticks = s.ticks := rfl
@[simp] theorem State.modGroup_cadence (p gi : Nat) (f : Group → Group) : (s.modGroup p gi f).cadence = s.cadence := rfl
@[simp] theorem State.modGroup_islands (p gi : Nat) (f : Group → Group) : (s.modGroup p gi f).islands = s.islands := rfl
@[simp] theorem State.modGroup_power (p gi : Nat) (f : Group → Group) : (s.modGroup p gi f).power = s.power := rfl
@[simp] theorem State.modGroup_mem (p gi : Nat) (f : Group → Group) : (s.modGroup p gi f).mem = s.mem := rfl
@[simp] theorem State.modGroup_fuses (p gi : Nat) (f : Group → Group) : (s.modGroup p gi f).fuses = s.fuses := rfl
@[simp] theorem State.modGroup_lmap (p gi : Nat) (f : Group → Group) : (s.modGroup p gi f).lmap = s.lmap := rfl
@[simp] theorem State.modGroup_walkers (p gi : Nat) (f : Group → Group) : (s.modGroup p gi f).walkers = s.walkers := rfl
@[simp] theorem State.modGroup_ctxs (p gi : Nat) (f : Group → Group) : (s.modGroup p gi f).ctxs = s.ctxs := rfl
@[simp] theorem State.modGroup_parts (p gi : Nat) (f : Group → Group) : (s.modGroup p gi f).parts = s.parts := rfl
@[simp] theorem State.modGroup_queues (p gi : Nat) (f : Group → Group) : (s.modGroup p gi f).queues = s.queues := rfl
@[simp] theorem State.modGroup_launches (p gi : Nat) (f : Group → Group) : (s.modGroup p gi f).launches = s.launches := rfl
@[simp] theorem State.modGroup_nextLaunch (p gi : Nat) (f : Group → Group) : (s.modGroup p gi f).nextLaunch = s.nextLaunch := rfl
@[simp] theorem State.modGroup_heardEarly (p gi : Nat) (f : Group → Group) : (s.modGroup p gi f).heardEarly = s.heardEarly := rfl
@[simp] theorem State.modGroup_saved (p gi : Nat) (f : Group → Group) : (s.modGroup p gi f).saved = s.saved := rfl
@[simp] theorem State.modGroup_panniers (p gi : Nat) (f : Group → Group) : (s.modGroup p gi f).panniers = s.panniers := rfl
@[simp] theorem State.modGroup_nextPannier (p gi : Nat) (f : Group → Group) : (s.modGroup p gi f).nextPannier = s.nextPannier := rfl
@[simp] theorem State.modGroup_misses (p gi : Nat) (f : Group → Group) : (s.modGroup p gi f).misses = s.misses := rfl
@[simp] theorem State.modGroup_nextMiss (p gi : Nat) (f : Group → Group) : (s.modGroup p gi f).nextMiss = s.nextMiss := rfl
@[simp] theorem State.modGroup_leases (p gi : Nat) (f : Group → Group) : (s.modGroup p gi f).leases = s.leases := rfl
@[simp] theorem State.modGroup_flagged (p gi : Nat) (f : Group → Group) : (s.modGroup p gi f).flagged = s.flagged := rfl
@[simp] theorem State.modGroup_seals (p gi : Nat) (f : Group → Group) : (s.modGroup p gi f).seals = s.seals := rfl
@[simp] theorem State.modGroup_replicas (p gi : Nat) (f : Group → Group) : (s.modGroup p gi f).replicas = s.replicas := rfl
@[simp] theorem State.modGroup_collapsing (p gi : Nat) (f : Group → Group) : (s.modGroup p gi f).collapsing = s.collapsing := rfl
@[simp] theorem State.modGroup_stalls (p gi : Nat) (f : Group → Group) : (s.modGroup p gi f).stalls = s.stalls := rfl
@[simp] theorem State.modGroup_syncs (p gi : Nat) (f : Group → Group) : (s.modGroup p gi f).syncs = s.syncs := rfl
@[simp] theorem State.modGroup_invals (p gi : Nat) (f : Group → Group) : (s.modGroup p gi f).invals = s.invals := rfl
@[simp] theorem State.modGroup_poison (p gi : Nat) (f : Group → Group) : (s.modGroup p gi f).poison = s.poison := rfl
@[simp] theorem State.modGroup_remaps (p gi : Nat) (f : Group → Group) : (s.modGroup p gi f).remaps = s.remaps := rfl
@[simp] theorem State.modGroup_kept (p gi : Nat) (f : Group → Group) : (s.modGroup p gi f).kept = s.kept := rfl
@[simp] theorem State.modGroup_lostHomes (p gi : Nat) (f : Group → Group) : (s.modGroup p gi f).lostHomes = s.lostHomes := rfl
@[simp] theorem State.modGroup_retired (p gi : Nat) (f : Group → Group) : (s.modGroup p gi f).retired = s.retired := rfl
@[simp] theorem State.modGroup_ueFrames (p gi : Nat) (f : Group → Group) : (s.modGroup p gi f).ueFrames = s.ueFrames := rfl
@[simp] theorem State.modGroup_berr (p gi : Nat) (f : Group → Group) : (s.modGroup p gi f).berr = s.berr := rfl
@[simp] theorem State.modGroup_weak (p gi : Nat) (f : Group → Group) : (s.modGroup p gi f).weak = s.weak := rfl
@[simp] theorem State.modGroup_ceDue (p gi : Nat) (f : Group → Group) : (s.modGroup p gi f).ceDue = s.ceDue := rfl
@[simp] theorem State.modGroup_ports (p gi : Nat) (f : Group → Group) : (s.modGroup p gi f).ports = s.ports := rfl
@[simp] theorem State.modGroup_ctlWaits (p gi : Nat) (f : Group → Group) : (s.modGroup p gi f).ctlWaits = s.ctlWaits := rfl
@[simp] theorem State.modGroup_pkgid (p gi : Nat) (f : Group → Group) : (s.modGroup p gi f).pkgid = s.pkgid := rfl
@[simp] theorem State.modGroup_domain (p gi : Nat) (f : Group → Group) : (s.modGroup p gi f).domain = s.domain := rfl
@[simp] theorem State.modGroup_ticketNext (p gi : Nat) (f : Group → Group) : (s.modGroup p gi f).ticketNext = s.ticketNext := rfl
@[simp] theorem State.modGroup_ticketDone (p gi : Nat) (f : Group → Group) : (s.modGroup p gi f).ticketDone = s.ticketDone := rfl
@[simp] theorem State.modGroup_seq (p gi : Nat) (f : Group → Group) : (s.modGroup p gi f).seq = s.seq := rfl
@[simp] theorem State.modGroup_recovery (p gi : Nat) (f : Group → Group) : (s.modGroup p gi f).recovery = s.recovery := rfl
@[simp] theorem State.modGroup_minSvns (p gi : Nat) (f : Group → Group) : (s.modGroup p gi f).minSvns = s.minSvns := rfl
@[simp] theorem State.modGroup_images (p gi : Nat) (f : Group → Group) : (s.modGroup p gi f).images = s.images := rfl
@[simp] theorem State.modGroup_running (p gi : Nat) (f : Group → Group) : (s.modGroup p gi f).running = s.running := rfl
@[simp] theorem State.modGroup_mailbox (p gi : Nat) (f : Group → Group) : (s.modGroup p gi f).mailbox = s.mailbox := rfl
@[simp] theorem State.modGroup_outbox (p gi : Nat) (f : Group → Group) : (s.modGroup p gi f).outbox = s.outbox := rfl
@[simp] theorem State.modGroup_convErrs (p gi : Nat) (f : Group → Group) : (s.modGroup p gi f).convErrs = s.convErrs := rfl

@[simp] theorem State.modWg_inbox (p : Nat) (f : Workgroup → Workgroup) : (s.modWg p f).inbox = s.inbox := rfl
@[simp] theorem State.modWg_draws (p : Nat) (f : Workgroup → Workgroup) : (s.modWg p f).draws = s.draws := rfl
@[simp] theorem State.modWg_pace (p : Nat) (f : Workgroup → Workgroup) : (s.modWg p f).pace = s.pace := rfl
@[simp] theorem State.modWg_focus (p : Nat) (f : Workgroup → Workgroup) : (s.modWg p f).focus = s.focus := rfl
@[simp] theorem State.modWg_ticks (p : Nat) (f : Workgroup → Workgroup) : (s.modWg p f).ticks = s.ticks := rfl
@[simp] theorem State.modWg_cadence (p : Nat) (f : Workgroup → Workgroup) : (s.modWg p f).cadence = s.cadence := rfl
@[simp] theorem State.modWg_islands (p : Nat) (f : Workgroup → Workgroup) : (s.modWg p f).islands = s.islands := rfl
@[simp] theorem State.modWg_power (p : Nat) (f : Workgroup → Workgroup) : (s.modWg p f).power = s.power := rfl
@[simp] theorem State.modWg_mem (p : Nat) (f : Workgroup → Workgroup) : (s.modWg p f).mem = s.mem := rfl
@[simp] theorem State.modWg_fuses (p : Nat) (f : Workgroup → Workgroup) : (s.modWg p f).fuses = s.fuses := rfl
@[simp] theorem State.modWg_lmap (p : Nat) (f : Workgroup → Workgroup) : (s.modWg p f).lmap = s.lmap := rfl
@[simp] theorem State.modWg_walkers (p : Nat) (f : Workgroup → Workgroup) : (s.modWg p f).walkers = s.walkers := rfl
@[simp] theorem State.modWg_ctxs (p : Nat) (f : Workgroup → Workgroup) : (s.modWg p f).ctxs = s.ctxs := rfl
@[simp] theorem State.modWg_parts (p : Nat) (f : Workgroup → Workgroup) : (s.modWg p f).parts = s.parts := rfl
@[simp] theorem State.modWg_queues (p : Nat) (f : Workgroup → Workgroup) : (s.modWg p f).queues = s.queues := rfl
@[simp] theorem State.modWg_launches (p : Nat) (f : Workgroup → Workgroup) : (s.modWg p f).launches = s.launches := rfl
@[simp] theorem State.modWg_nextLaunch (p : Nat) (f : Workgroup → Workgroup) : (s.modWg p f).nextLaunch = s.nextLaunch := rfl
@[simp] theorem State.modWg_heardEarly (p : Nat) (f : Workgroup → Workgroup) : (s.modWg p f).heardEarly = s.heardEarly := rfl
@[simp] theorem State.modWg_saved (p : Nat) (f : Workgroup → Workgroup) : (s.modWg p f).saved = s.saved := rfl
@[simp] theorem State.modWg_panniers (p : Nat) (f : Workgroup → Workgroup) : (s.modWg p f).panniers = s.panniers := rfl
@[simp] theorem State.modWg_nextPannier (p : Nat) (f : Workgroup → Workgroup) : (s.modWg p f).nextPannier = s.nextPannier := rfl
@[simp] theorem State.modWg_misses (p : Nat) (f : Workgroup → Workgroup) : (s.modWg p f).misses = s.misses := rfl
@[simp] theorem State.modWg_nextMiss (p : Nat) (f : Workgroup → Workgroup) : (s.modWg p f).nextMiss = s.nextMiss := rfl
@[simp] theorem State.modWg_leases (p : Nat) (f : Workgroup → Workgroup) : (s.modWg p f).leases = s.leases := rfl
@[simp] theorem State.modWg_flagged (p : Nat) (f : Workgroup → Workgroup) : (s.modWg p f).flagged = s.flagged := rfl
@[simp] theorem State.modWg_seals (p : Nat) (f : Workgroup → Workgroup) : (s.modWg p f).seals = s.seals := rfl
@[simp] theorem State.modWg_replicas (p : Nat) (f : Workgroup → Workgroup) : (s.modWg p f).replicas = s.replicas := rfl
@[simp] theorem State.modWg_collapsing (p : Nat) (f : Workgroup → Workgroup) : (s.modWg p f).collapsing = s.collapsing := rfl
@[simp] theorem State.modWg_stalls (p : Nat) (f : Workgroup → Workgroup) : (s.modWg p f).stalls = s.stalls := rfl
@[simp] theorem State.modWg_syncs (p : Nat) (f : Workgroup → Workgroup) : (s.modWg p f).syncs = s.syncs := rfl
@[simp] theorem State.modWg_invals (p : Nat) (f : Workgroup → Workgroup) : (s.modWg p f).invals = s.invals := rfl
@[simp] theorem State.modWg_poison (p : Nat) (f : Workgroup → Workgroup) : (s.modWg p f).poison = s.poison := rfl
@[simp] theorem State.modWg_remaps (p : Nat) (f : Workgroup → Workgroup) : (s.modWg p f).remaps = s.remaps := rfl
@[simp] theorem State.modWg_kept (p : Nat) (f : Workgroup → Workgroup) : (s.modWg p f).kept = s.kept := rfl
@[simp] theorem State.modWg_lostHomes (p : Nat) (f : Workgroup → Workgroup) : (s.modWg p f).lostHomes = s.lostHomes := rfl
@[simp] theorem State.modWg_retired (p : Nat) (f : Workgroup → Workgroup) : (s.modWg p f).retired = s.retired := rfl
@[simp] theorem State.modWg_ueFrames (p : Nat) (f : Workgroup → Workgroup) : (s.modWg p f).ueFrames = s.ueFrames := rfl
@[simp] theorem State.modWg_berr (p : Nat) (f : Workgroup → Workgroup) : (s.modWg p f).berr = s.berr := rfl
@[simp] theorem State.modWg_weak (p : Nat) (f : Workgroup → Workgroup) : (s.modWg p f).weak = s.weak := rfl
@[simp] theorem State.modWg_ceDue (p : Nat) (f : Workgroup → Workgroup) : (s.modWg p f).ceDue = s.ceDue := rfl
@[simp] theorem State.modWg_ports (p : Nat) (f : Workgroup → Workgroup) : (s.modWg p f).ports = s.ports := rfl
@[simp] theorem State.modWg_ctlWaits (p : Nat) (f : Workgroup → Workgroup) : (s.modWg p f).ctlWaits = s.ctlWaits := rfl
@[simp] theorem State.modWg_pkgid (p : Nat) (f : Workgroup → Workgroup) : (s.modWg p f).pkgid = s.pkgid := rfl
@[simp] theorem State.modWg_domain (p : Nat) (f : Workgroup → Workgroup) : (s.modWg p f).domain = s.domain := rfl
@[simp] theorem State.modWg_ticketNext (p : Nat) (f : Workgroup → Workgroup) : (s.modWg p f).ticketNext = s.ticketNext := rfl
@[simp] theorem State.modWg_ticketDone (p : Nat) (f : Workgroup → Workgroup) : (s.modWg p f).ticketDone = s.ticketDone := rfl
@[simp] theorem State.modWg_seq (p : Nat) (f : Workgroup → Workgroup) : (s.modWg p f).seq = s.seq := rfl
@[simp] theorem State.modWg_recovery (p : Nat) (f : Workgroup → Workgroup) : (s.modWg p f).recovery = s.recovery := rfl
@[simp] theorem State.modWg_minSvns (p : Nat) (f : Workgroup → Workgroup) : (s.modWg p f).minSvns = s.minSvns := rfl
@[simp] theorem State.modWg_images (p : Nat) (f : Workgroup → Workgroup) : (s.modWg p f).images = s.images := rfl
@[simp] theorem State.modWg_running (p : Nat) (f : Workgroup → Workgroup) : (s.modWg p f).running = s.running := rfl
@[simp] theorem State.modWg_mailbox (p : Nat) (f : Workgroup → Workgroup) : (s.modWg p f).mailbox = s.mailbox := rfl
@[simp] theorem State.modWg_outbox (p : Nat) (f : Workgroup → Workgroup) : (s.modWg p f).outbox = s.outbox := rfl
@[simp] theorem State.modWg_convErrs (p : Nat) (f : Workgroup → Workgroup) : (s.modWg p f).convErrs = s.convErrs := rfl

@[simp] theorem State.modCtx_inbox (c : Nat) (f : Ctx → Ctx) : (s.modCtx c f).inbox = s.inbox := rfl
@[simp] theorem State.modCtx_draws (c : Nat) (f : Ctx → Ctx) : (s.modCtx c f).draws = s.draws := rfl
@[simp] theorem State.modCtx_pace (c : Nat) (f : Ctx → Ctx) : (s.modCtx c f).pace = s.pace := rfl
@[simp] theorem State.modCtx_focus (c : Nat) (f : Ctx → Ctx) : (s.modCtx c f).focus = s.focus := rfl
@[simp] theorem State.modCtx_ticks (c : Nat) (f : Ctx → Ctx) : (s.modCtx c f).ticks = s.ticks := rfl
@[simp] theorem State.modCtx_cadence (c : Nat) (f : Ctx → Ctx) : (s.modCtx c f).cadence = s.cadence := rfl
@[simp] theorem State.modCtx_islands (c : Nat) (f : Ctx → Ctx) : (s.modCtx c f).islands = s.islands := rfl
@[simp] theorem State.modCtx_power (c : Nat) (f : Ctx → Ctx) : (s.modCtx c f).power = s.power := rfl
@[simp] theorem State.modCtx_mem (c : Nat) (f : Ctx → Ctx) : (s.modCtx c f).mem = s.mem := rfl
@[simp] theorem State.modCtx_cores (c : Nat) (f : Ctx → Ctx) : (s.modCtx c f).cores = s.cores := rfl
@[simp] theorem State.modCtx_fuses (c : Nat) (f : Ctx → Ctx) : (s.modCtx c f).fuses = s.fuses := rfl
@[simp] theorem State.modCtx_lmap (c : Nat) (f : Ctx → Ctx) : (s.modCtx c f).lmap = s.lmap := rfl
@[simp] theorem State.modCtx_walkers (c : Nat) (f : Ctx → Ctx) : (s.modCtx c f).walkers = s.walkers := rfl
@[simp] theorem State.modCtx_parts (c : Nat) (f : Ctx → Ctx) : (s.modCtx c f).parts = s.parts := rfl
@[simp] theorem State.modCtx_queues (c : Nat) (f : Ctx → Ctx) : (s.modCtx c f).queues = s.queues := rfl
@[simp] theorem State.modCtx_launches (c : Nat) (f : Ctx → Ctx) : (s.modCtx c f).launches = s.launches := rfl
@[simp] theorem State.modCtx_nextLaunch (c : Nat) (f : Ctx → Ctx) : (s.modCtx c f).nextLaunch = s.nextLaunch := rfl
@[simp] theorem State.modCtx_heardEarly (c : Nat) (f : Ctx → Ctx) : (s.modCtx c f).heardEarly = s.heardEarly := rfl
@[simp] theorem State.modCtx_saved (c : Nat) (f : Ctx → Ctx) : (s.modCtx c f).saved = s.saved := rfl
@[simp] theorem State.modCtx_panniers (c : Nat) (f : Ctx → Ctx) : (s.modCtx c f).panniers = s.panniers := rfl
@[simp] theorem State.modCtx_nextPannier (c : Nat) (f : Ctx → Ctx) : (s.modCtx c f).nextPannier = s.nextPannier := rfl
@[simp] theorem State.modCtx_misses (c : Nat) (f : Ctx → Ctx) : (s.modCtx c f).misses = s.misses := rfl
@[simp] theorem State.modCtx_nextMiss (c : Nat) (f : Ctx → Ctx) : (s.modCtx c f).nextMiss = s.nextMiss := rfl
@[simp] theorem State.modCtx_leases (c : Nat) (f : Ctx → Ctx) : (s.modCtx c f).leases = s.leases := rfl
@[simp] theorem State.modCtx_flagged (c : Nat) (f : Ctx → Ctx) : (s.modCtx c f).flagged = s.flagged := rfl
@[simp] theorem State.modCtx_seals (c : Nat) (f : Ctx → Ctx) : (s.modCtx c f).seals = s.seals := rfl
@[simp] theorem State.modCtx_replicas (c : Nat) (f : Ctx → Ctx) : (s.modCtx c f).replicas = s.replicas := rfl
@[simp] theorem State.modCtx_collapsing (c : Nat) (f : Ctx → Ctx) : (s.modCtx c f).collapsing = s.collapsing := rfl
@[simp] theorem State.modCtx_stalls (c : Nat) (f : Ctx → Ctx) : (s.modCtx c f).stalls = s.stalls := rfl
@[simp] theorem State.modCtx_syncs (c : Nat) (f : Ctx → Ctx) : (s.modCtx c f).syncs = s.syncs := rfl
@[simp] theorem State.modCtx_invals (c : Nat) (f : Ctx → Ctx) : (s.modCtx c f).invals = s.invals := rfl
@[simp] theorem State.modCtx_poison (c : Nat) (f : Ctx → Ctx) : (s.modCtx c f).poison = s.poison := rfl
@[simp] theorem State.modCtx_remaps (c : Nat) (f : Ctx → Ctx) : (s.modCtx c f).remaps = s.remaps := rfl
@[simp] theorem State.modCtx_kept (c : Nat) (f : Ctx → Ctx) : (s.modCtx c f).kept = s.kept := rfl
@[simp] theorem State.modCtx_lostHomes (c : Nat) (f : Ctx → Ctx) : (s.modCtx c f).lostHomes = s.lostHomes := rfl
@[simp] theorem State.modCtx_retired (c : Nat) (f : Ctx → Ctx) : (s.modCtx c f).retired = s.retired := rfl
@[simp] theorem State.modCtx_ueFrames (c : Nat) (f : Ctx → Ctx) : (s.modCtx c f).ueFrames = s.ueFrames := rfl
@[simp] theorem State.modCtx_berr (c : Nat) (f : Ctx → Ctx) : (s.modCtx c f).berr = s.berr := rfl
@[simp] theorem State.modCtx_weak (c : Nat) (f : Ctx → Ctx) : (s.modCtx c f).weak = s.weak := rfl
@[simp] theorem State.modCtx_ceDue (c : Nat) (f : Ctx → Ctx) : (s.modCtx c f).ceDue = s.ceDue := rfl
@[simp] theorem State.modCtx_ports (c : Nat) (f : Ctx → Ctx) : (s.modCtx c f).ports = s.ports := rfl
@[simp] theorem State.modCtx_ctlWaits (c : Nat) (f : Ctx → Ctx) : (s.modCtx c f).ctlWaits = s.ctlWaits := rfl
@[simp] theorem State.modCtx_pkgid (c : Nat) (f : Ctx → Ctx) : (s.modCtx c f).pkgid = s.pkgid := rfl
@[simp] theorem State.modCtx_domain (c : Nat) (f : Ctx → Ctx) : (s.modCtx c f).domain = s.domain := rfl
@[simp] theorem State.modCtx_ticketNext (c : Nat) (f : Ctx → Ctx) : (s.modCtx c f).ticketNext = s.ticketNext := rfl
@[simp] theorem State.modCtx_ticketDone (c : Nat) (f : Ctx → Ctx) : (s.modCtx c f).ticketDone = s.ticketDone := rfl
@[simp] theorem State.modCtx_seq (c : Nat) (f : Ctx → Ctx) : (s.modCtx c f).seq = s.seq := rfl
@[simp] theorem State.modCtx_recovery (c : Nat) (f : Ctx → Ctx) : (s.modCtx c f).recovery = s.recovery := rfl
@[simp] theorem State.modCtx_minSvns (c : Nat) (f : Ctx → Ctx) : (s.modCtx c f).minSvns = s.minSvns := rfl
@[simp] theorem State.modCtx_images (c : Nat) (f : Ctx → Ctx) : (s.modCtx c f).images = s.images := rfl
@[simp] theorem State.modCtx_running (c : Nat) (f : Ctx → Ctx) : (s.modCtx c f).running = s.running := rfl
@[simp] theorem State.modCtx_mailbox (c : Nat) (f : Ctx → Ctx) : (s.modCtx c f).mailbox = s.mailbox := rfl
@[simp] theorem State.modCtx_outbox (c : Nat) (f : Ctx → Ctx) : (s.modCtx c f).outbox = s.outbox := rfl
@[simp] theorem State.modCtx_convErrs (c : Nat) (f : Ctx → Ctx) : (s.modCtx c f).convErrs = s.convErrs := rfl

@[simp] theorem State.modPart_inbox (c : Nat) (f : Part → Part) : (s.modPart c f).inbox = s.inbox := rfl
@[simp] theorem State.modPart_draws (c : Nat) (f : Part → Part) : (s.modPart c f).draws = s.draws := rfl
@[simp] theorem State.modPart_pace (c : Nat) (f : Part → Part) : (s.modPart c f).pace = s.pace := rfl
@[simp] theorem State.modPart_focus (c : Nat) (f : Part → Part) : (s.modPart c f).focus = s.focus := rfl
@[simp] theorem State.modPart_ticks (c : Nat) (f : Part → Part) : (s.modPart c f).ticks = s.ticks := rfl
@[simp] theorem State.modPart_cadence (c : Nat) (f : Part → Part) : (s.modPart c f).cadence = s.cadence := rfl
@[simp] theorem State.modPart_islands (c : Nat) (f : Part → Part) : (s.modPart c f).islands = s.islands := rfl
@[simp] theorem State.modPart_power (c : Nat) (f : Part → Part) : (s.modPart c f).power = s.power := rfl
@[simp] theorem State.modPart_mem (c : Nat) (f : Part → Part) : (s.modPart c f).mem = s.mem := rfl
@[simp] theorem State.modPart_cores (c : Nat) (f : Part → Part) : (s.modPart c f).cores = s.cores := rfl
@[simp] theorem State.modPart_fuses (c : Nat) (f : Part → Part) : (s.modPart c f).fuses = s.fuses := rfl
@[simp] theorem State.modPart_lmap (c : Nat) (f : Part → Part) : (s.modPart c f).lmap = s.lmap := rfl
@[simp] theorem State.modPart_walkers (c : Nat) (f : Part → Part) : (s.modPart c f).walkers = s.walkers := rfl
@[simp] theorem State.modPart_ctxs (c : Nat) (f : Part → Part) : (s.modPart c f).ctxs = s.ctxs := rfl
@[simp] theorem State.modPart_queues (c : Nat) (f : Part → Part) : (s.modPart c f).queues = s.queues := rfl
@[simp] theorem State.modPart_launches (c : Nat) (f : Part → Part) : (s.modPart c f).launches = s.launches := rfl
@[simp] theorem State.modPart_nextLaunch (c : Nat) (f : Part → Part) : (s.modPart c f).nextLaunch = s.nextLaunch := rfl
@[simp] theorem State.modPart_heardEarly (c : Nat) (f : Part → Part) : (s.modPart c f).heardEarly = s.heardEarly := rfl
@[simp] theorem State.modPart_saved (c : Nat) (f : Part → Part) : (s.modPart c f).saved = s.saved := rfl
@[simp] theorem State.modPart_panniers (c : Nat) (f : Part → Part) : (s.modPart c f).panniers = s.panniers := rfl
@[simp] theorem State.modPart_nextPannier (c : Nat) (f : Part → Part) : (s.modPart c f).nextPannier = s.nextPannier := rfl
@[simp] theorem State.modPart_misses (c : Nat) (f : Part → Part) : (s.modPart c f).misses = s.misses := rfl
@[simp] theorem State.modPart_nextMiss (c : Nat) (f : Part → Part) : (s.modPart c f).nextMiss = s.nextMiss := rfl
@[simp] theorem State.modPart_leases (c : Nat) (f : Part → Part) : (s.modPart c f).leases = s.leases := rfl
@[simp] theorem State.modPart_flagged (c : Nat) (f : Part → Part) : (s.modPart c f).flagged = s.flagged := rfl
@[simp] theorem State.modPart_seals (c : Nat) (f : Part → Part) : (s.modPart c f).seals = s.seals := rfl
@[simp] theorem State.modPart_replicas (c : Nat) (f : Part → Part) : (s.modPart c f).replicas = s.replicas := rfl
@[simp] theorem State.modPart_collapsing (c : Nat) (f : Part → Part) : (s.modPart c f).collapsing = s.collapsing := rfl
@[simp] theorem State.modPart_stalls (c : Nat) (f : Part → Part) : (s.modPart c f).stalls = s.stalls := rfl
@[simp] theorem State.modPart_syncs (c : Nat) (f : Part → Part) : (s.modPart c f).syncs = s.syncs := rfl
@[simp] theorem State.modPart_invals (c : Nat) (f : Part → Part) : (s.modPart c f).invals = s.invals := rfl
@[simp] theorem State.modPart_poison (c : Nat) (f : Part → Part) : (s.modPart c f).poison = s.poison := rfl
@[simp] theorem State.modPart_remaps (c : Nat) (f : Part → Part) : (s.modPart c f).remaps = s.remaps := rfl
@[simp] theorem State.modPart_kept (c : Nat) (f : Part → Part) : (s.modPart c f).kept = s.kept := rfl
@[simp] theorem State.modPart_lostHomes (c : Nat) (f : Part → Part) : (s.modPart c f).lostHomes = s.lostHomes := rfl
@[simp] theorem State.modPart_retired (c : Nat) (f : Part → Part) : (s.modPart c f).retired = s.retired := rfl
@[simp] theorem State.modPart_ueFrames (c : Nat) (f : Part → Part) : (s.modPart c f).ueFrames = s.ueFrames := rfl
@[simp] theorem State.modPart_berr (c : Nat) (f : Part → Part) : (s.modPart c f).berr = s.berr := rfl
@[simp] theorem State.modPart_weak (c : Nat) (f : Part → Part) : (s.modPart c f).weak = s.weak := rfl
@[simp] theorem State.modPart_ceDue (c : Nat) (f : Part → Part) : (s.modPart c f).ceDue = s.ceDue := rfl
@[simp] theorem State.modPart_ports (c : Nat) (f : Part → Part) : (s.modPart c f).ports = s.ports := rfl
@[simp] theorem State.modPart_ctlWaits (c : Nat) (f : Part → Part) : (s.modPart c f).ctlWaits = s.ctlWaits := rfl
@[simp] theorem State.modPart_pkgid (c : Nat) (f : Part → Part) : (s.modPart c f).pkgid = s.pkgid := rfl
@[simp] theorem State.modPart_domain (c : Nat) (f : Part → Part) : (s.modPart c f).domain = s.domain := rfl
@[simp] theorem State.modPart_ticketNext (c : Nat) (f : Part → Part) : (s.modPart c f).ticketNext = s.ticketNext := rfl
@[simp] theorem State.modPart_ticketDone (c : Nat) (f : Part → Part) : (s.modPart c f).ticketDone = s.ticketDone := rfl
@[simp] theorem State.modPart_seq (c : Nat) (f : Part → Part) : (s.modPart c f).seq = s.seq := rfl
@[simp] theorem State.modPart_recovery (c : Nat) (f : Part → Part) : (s.modPart c f).recovery = s.recovery := rfl
@[simp] theorem State.modPart_minSvns (c : Nat) (f : Part → Part) : (s.modPart c f).minSvns = s.minSvns := rfl
@[simp] theorem State.modPart_images (c : Nat) (f : Part → Part) : (s.modPart c f).images = s.images := rfl
@[simp] theorem State.modPart_running (c : Nat) (f : Part → Part) : (s.modPart c f).running = s.running := rfl
@[simp] theorem State.modPart_mailbox (c : Nat) (f : Part → Part) : (s.modPart c f).mailbox = s.mailbox := rfl
@[simp] theorem State.modPart_outbox (c : Nat) (f : Part → Part) : (s.modPart c f).outbox = s.outbox := rfl
@[simp] theorem State.modPart_convErrs (c : Nat) (f : Part → Part) : (s.modPart c f).convErrs = s.convErrs := rfl

@[simp] theorem State.write_inbox (k n v : Nat) : (s.write k n v).inbox = s.inbox := rfl
@[simp] theorem State.write_draws (k n v : Nat) : (s.write k n v).draws = s.draws := rfl
@[simp] theorem State.write_pace (k n v : Nat) : (s.write k n v).pace = s.pace := rfl
@[simp] theorem State.write_focus (k n v : Nat) : (s.write k n v).focus = s.focus := rfl
@[simp] theorem State.write_ticks (k n v : Nat) : (s.write k n v).ticks = s.ticks := rfl
@[simp] theorem State.write_cadence (k n v : Nat) : (s.write k n v).cadence = s.cadence := rfl
@[simp] theorem State.write_islands (k n v : Nat) : (s.write k n v).islands = s.islands := rfl
@[simp] theorem State.write_power (k n v : Nat) : (s.write k n v).power = s.power := rfl
@[simp] theorem State.write_cores (k n v : Nat) : (s.write k n v).cores = s.cores := rfl
@[simp] theorem State.write_fuses (k n v : Nat) : (s.write k n v).fuses = s.fuses := rfl
@[simp] theorem State.write_lmap (k n v : Nat) : (s.write k n v).lmap = s.lmap := rfl
@[simp] theorem State.write_walkers (k n v : Nat) : (s.write k n v).walkers = s.walkers := rfl
@[simp] theorem State.write_ctxs (k n v : Nat) : (s.write k n v).ctxs = s.ctxs := rfl
@[simp] theorem State.write_parts (k n v : Nat) : (s.write k n v).parts = s.parts := rfl
@[simp] theorem State.write_queues (k n v : Nat) : (s.write k n v).queues = s.queues := rfl
@[simp] theorem State.write_launches (k n v : Nat) : (s.write k n v).launches = s.launches := rfl
@[simp] theorem State.write_nextLaunch (k n v : Nat) : (s.write k n v).nextLaunch = s.nextLaunch := rfl
@[simp] theorem State.write_heardEarly (k n v : Nat) : (s.write k n v).heardEarly = s.heardEarly := rfl
@[simp] theorem State.write_saved (k n v : Nat) : (s.write k n v).saved = s.saved := rfl
@[simp] theorem State.write_panniers (k n v : Nat) : (s.write k n v).panniers = s.panniers := rfl
@[simp] theorem State.write_nextPannier (k n v : Nat) : (s.write k n v).nextPannier = s.nextPannier := rfl
@[simp] theorem State.write_misses (k n v : Nat) : (s.write k n v).misses = s.misses := rfl
@[simp] theorem State.write_nextMiss (k n v : Nat) : (s.write k n v).nextMiss = s.nextMiss := rfl
@[simp] theorem State.write_leases (k n v : Nat) : (s.write k n v).leases = s.leases := rfl
@[simp] theorem State.write_flagged (k n v : Nat) : (s.write k n v).flagged = s.flagged := rfl
@[simp] theorem State.write_seals (k n v : Nat) : (s.write k n v).seals = s.seals := rfl
@[simp] theorem State.write_replicas (k n v : Nat) : (s.write k n v).replicas = s.replicas := rfl
@[simp] theorem State.write_collapsing (k n v : Nat) : (s.write k n v).collapsing = s.collapsing := rfl
@[simp] theorem State.write_stalls (k n v : Nat) : (s.write k n v).stalls = s.stalls := rfl
@[simp] theorem State.write_syncs (k n v : Nat) : (s.write k n v).syncs = s.syncs := rfl
@[simp] theorem State.write_invals (k n v : Nat) : (s.write k n v).invals = s.invals := rfl
@[simp] theorem State.write_poison (k n v : Nat) : (s.write k n v).poison = s.poison := rfl
@[simp] theorem State.write_remaps (k n v : Nat) : (s.write k n v).remaps = s.remaps := rfl
@[simp] theorem State.write_kept (k n v : Nat) : (s.write k n v).kept = s.kept := rfl
@[simp] theorem State.write_lostHomes (k n v : Nat) : (s.write k n v).lostHomes = s.lostHomes := rfl
@[simp] theorem State.write_retired (k n v : Nat) : (s.write k n v).retired = s.retired := rfl
@[simp] theorem State.write_ueFrames (k n v : Nat) : (s.write k n v).ueFrames = s.ueFrames := rfl
@[simp] theorem State.write_berr (k n v : Nat) : (s.write k n v).berr = s.berr := rfl
@[simp] theorem State.write_weak (k n v : Nat) : (s.write k n v).weak = s.weak := rfl
@[simp] theorem State.write_ceDue (k n v : Nat) : (s.write k n v).ceDue = s.ceDue := rfl
@[simp] theorem State.write_ports (k n v : Nat) : (s.write k n v).ports = s.ports := rfl
@[simp] theorem State.write_ctlWaits (k n v : Nat) : (s.write k n v).ctlWaits = s.ctlWaits := rfl
@[simp] theorem State.write_pkgid (k n v : Nat) : (s.write k n v).pkgid = s.pkgid := rfl
@[simp] theorem State.write_domain (k n v : Nat) : (s.write k n v).domain = s.domain := rfl
@[simp] theorem State.write_ticketNext (k n v : Nat) : (s.write k n v).ticketNext = s.ticketNext := rfl
@[simp] theorem State.write_ticketDone (k n v : Nat) : (s.write k n v).ticketDone = s.ticketDone := rfl
@[simp] theorem State.write_seq (k n v : Nat) : (s.write k n v).seq = s.seq := rfl
@[simp] theorem State.write_recovery (k n v : Nat) : (s.write k n v).recovery = s.recovery := rfl
@[simp] theorem State.write_minSvns (k n v : Nat) : (s.write k n v).minSvns = s.minSvns := rfl
@[simp] theorem State.write_images (k n v : Nat) : (s.write k n v).images = s.images := rfl
@[simp] theorem State.write_running (k n v : Nat) : (s.write k n v).running = s.running := rfl
@[simp] theorem State.write_mailbox (k n v : Nat) : (s.write k n v).mailbox = s.mailbox := rfl
@[simp] theorem State.write_outbox (k n v : Nat) : (s.write k n v).outbox = s.outbox := rfl
@[simp] theorem State.write_convErrs (k n v : Nat) : (s.write k n v).convErrs = s.convErrs := rfl

@[simp] theorem State.count_inbox (c i n : Nat) : (s.count c i n).inbox = s.inbox := rfl
@[simp] theorem State.count_draws (c i n : Nat) : (s.count c i n).draws = s.draws := rfl
@[simp] theorem State.count_pace (c i n : Nat) : (s.count c i n).pace = s.pace := rfl
@[simp] theorem State.count_focus (c i n : Nat) : (s.count c i n).focus = s.focus := rfl
@[simp] theorem State.count_ticks (c i n : Nat) : (s.count c i n).ticks = s.ticks := rfl
@[simp] theorem State.count_cadence (c i n : Nat) : (s.count c i n).cadence = s.cadence := rfl
@[simp] theorem State.count_islands (c i n : Nat) : (s.count c i n).islands = s.islands := rfl
@[simp] theorem State.count_power (c i n : Nat) : (s.count c i n).power = s.power := rfl
@[simp] theorem State.count_mem (c i n : Nat) : (s.count c i n).mem = s.mem := rfl
@[simp] theorem State.count_cores (c i n : Nat) : (s.count c i n).cores = s.cores := rfl
@[simp] theorem State.count_fuses (c i n : Nat) : (s.count c i n).fuses = s.fuses := rfl
@[simp] theorem State.count_lmap (c i n : Nat) : (s.count c i n).lmap = s.lmap := rfl
@[simp] theorem State.count_walkers (c i n : Nat) : (s.count c i n).walkers = s.walkers := rfl
@[simp] theorem State.count_parts (c i n : Nat) : (s.count c i n).parts = s.parts := rfl
@[simp] theorem State.count_queues (c i n : Nat) : (s.count c i n).queues = s.queues := rfl
@[simp] theorem State.count_launches (c i n : Nat) : (s.count c i n).launches = s.launches := rfl
@[simp] theorem State.count_nextLaunch (c i n : Nat) : (s.count c i n).nextLaunch = s.nextLaunch := rfl
@[simp] theorem State.count_heardEarly (c i n : Nat) : (s.count c i n).heardEarly = s.heardEarly := rfl
@[simp] theorem State.count_saved (c i n : Nat) : (s.count c i n).saved = s.saved := rfl
@[simp] theorem State.count_panniers (c i n : Nat) : (s.count c i n).panniers = s.panniers := rfl
@[simp] theorem State.count_nextPannier (c i n : Nat) : (s.count c i n).nextPannier = s.nextPannier := rfl
@[simp] theorem State.count_misses (c i n : Nat) : (s.count c i n).misses = s.misses := rfl
@[simp] theorem State.count_nextMiss (c i n : Nat) : (s.count c i n).nextMiss = s.nextMiss := rfl
@[simp] theorem State.count_leases (c i n : Nat) : (s.count c i n).leases = s.leases := rfl
@[simp] theorem State.count_flagged (c i n : Nat) : (s.count c i n).flagged = s.flagged := rfl
@[simp] theorem State.count_seals (c i n : Nat) : (s.count c i n).seals = s.seals := rfl
@[simp] theorem State.count_replicas (c i n : Nat) : (s.count c i n).replicas = s.replicas := rfl
@[simp] theorem State.count_collapsing (c i n : Nat) : (s.count c i n).collapsing = s.collapsing := rfl
@[simp] theorem State.count_stalls (c i n : Nat) : (s.count c i n).stalls = s.stalls := rfl
@[simp] theorem State.count_syncs (c i n : Nat) : (s.count c i n).syncs = s.syncs := rfl
@[simp] theorem State.count_invals (c i n : Nat) : (s.count c i n).invals = s.invals := rfl
@[simp] theorem State.count_poison (c i n : Nat) : (s.count c i n).poison = s.poison := rfl
@[simp] theorem State.count_remaps (c i n : Nat) : (s.count c i n).remaps = s.remaps := rfl
@[simp] theorem State.count_kept (c i n : Nat) : (s.count c i n).kept = s.kept := rfl
@[simp] theorem State.count_lostHomes (c i n : Nat) : (s.count c i n).lostHomes = s.lostHomes := rfl
@[simp] theorem State.count_retired (c i n : Nat) : (s.count c i n).retired = s.retired := rfl
@[simp] theorem State.count_ueFrames (c i n : Nat) : (s.count c i n).ueFrames = s.ueFrames := rfl
@[simp] theorem State.count_berr (c i n : Nat) : (s.count c i n).berr = s.berr := rfl
@[simp] theorem State.count_weak (c i n : Nat) : (s.count c i n).weak = s.weak := rfl
@[simp] theorem State.count_ceDue (c i n : Nat) : (s.count c i n).ceDue = s.ceDue := rfl
@[simp] theorem State.count_ports (c i n : Nat) : (s.count c i n).ports = s.ports := rfl
@[simp] theorem State.count_ctlWaits (c i n : Nat) : (s.count c i n).ctlWaits = s.ctlWaits := rfl
@[simp] theorem State.count_pkgid (c i n : Nat) : (s.count c i n).pkgid = s.pkgid := rfl
@[simp] theorem State.count_domain (c i n : Nat) : (s.count c i n).domain = s.domain := rfl
@[simp] theorem State.count_ticketNext (c i n : Nat) : (s.count c i n).ticketNext = s.ticketNext := rfl
@[simp] theorem State.count_ticketDone (c i n : Nat) : (s.count c i n).ticketDone = s.ticketDone := rfl
@[simp] theorem State.count_seq (c i n : Nat) : (s.count c i n).seq = s.seq := rfl
@[simp] theorem State.count_recovery (c i n : Nat) : (s.count c i n).recovery = s.recovery := rfl
@[simp] theorem State.count_minSvns (c i n : Nat) : (s.count c i n).minSvns = s.minSvns := rfl
@[simp] theorem State.count_images (c i n : Nat) : (s.count c i n).images = s.images := rfl
@[simp] theorem State.count_running (c i n : Nat) : (s.count c i n).running = s.running := rfl
@[simp] theorem State.count_mailbox (c i n : Nat) : (s.count c i n).mailbox = s.mailbox := rfl
@[simp] theorem State.count_outbox (c i n : Nat) : (s.count c i n).outbox = s.outbox := rfl
@[simp] theorem State.count_convErrs (c i n : Nat) : (s.count c i n).convErrs = s.convErrs := rfl

end Sys2Proof.Machine
end

