-- ==== Sys2Proof/Laws/Issue.lean ====
section
/-! SUPPORT. The frame of an issue, once: what begins it, what ends it, and that an issue which reaches its own effect answers that effect
(spec/02_instruction_word.md R35, R44, R46, R49). -/

namespace Sys2Proof.Machine

/-! Groups of a core. -/

theorem lmod_get? {α : Type} (l : List α) (n k : Nat) (f : α → α) : (lmod l n f)[k]? = if k = n then l[k]?.map f else l[k]? := by
  simp only [lmod, List.getElem?_mapIdx]
  cases l[k]? with
  | none => simp
  | some a => simp only [Option.map_some]; split <;> rfl

theorem Core.setGroup_group? (c : Core) (gi gj : Nat) (g : Group) :
    (c.setGroup gi g).group? gj = if gj = gi then (c.group? gj).map fun _ => g else c.group? gj := by
  unfold Core.setGroup Core.group?
  by_cases h1 : gi = guestIx
  · subst h1; simp only [if_true]
    by_cases h : gj = guestIx
    · simp [h]
    · simp [h]
  · by_cases h2 : gi = orphanIx
    · subst h2; simp only [h1, if_false, if_true]
      split
      · simp_all [guestIx, orphanIx]
      · split <;> simp_all
    · simp only [h1, h2, if_false]
      split
      · subst_vars; simp [Ne.symm h1]
      · split
        · subst_vars; simp [Ne.symm h2]
        · cases c.wg with
          | none => simp
          | some w => simp only [Option.map_some, Option.bind_some, lmod_get?]

theorem Core.setGroup_group (c : Core) (gi : Nat) (g g0 : Group) (h : c.group? gi = some g0) : (c.setGroup gi g).group gi = g := by
  simp [Core.group, Core.setGroup_group?, h]
theorem Core.setGroup_wg_shell (c : Core) (gi : Nat) (g : Group) : (c.setGroup gi g).wg.map Workgroup.shell = c.wg.map Workgroup.shell := by
  unfold Core.setGroup; split
  · rfl
  · split
    · rfl
    · cases c.wg <;> rfl
theorem Core.setGroup_shell (c : Core) (gi : Nat) (g : Group) : (c.setGroup gi g).shell = c.shell := by
  unfold Core.setGroup; split
  · rfl
  · split <;> rfl

/-! What an update of one group leaves of the rest. -/

/-- From s to t only one group of a core, issue slots and accounting counters have changed. -/
structure LocalTo (p gi : Nat) (s t : State) : Prop where
  others : ∀ gj, gj ≠ gi → (t.core p).group? gj = (s.core p).group? gj
  here : ((t.core p).group? gi).isSome = ((s.core p).group? gi).isSome
  wg : (t.core p).wg.map Workgroup.shell = (s.core p).wg.map Workgroup.shell
  core : (t.core p).shell = (s.core p).shell
  cores : ∀ q, q ≠ p → t.core q = s.core q
  ctxs : ∀ k, (t.ctx k).uncounted = (s.ctx k).uncounted
  rest : t.rest = s.rest

variable {p gi : Nat} {s t u : State}

theorem LocalTo.refl (p gi : Nat) (s : State) : LocalTo p gi s s := ⟨fun _ _ => rfl, rfl, rfl, rfl, fun _ _ => rfl, fun _ => rfl, rfl⟩
theorem LocalTo.trans (a : LocalTo p gi s t) (b : LocalTo p gi t u) : LocalTo p gi s u :=
  ⟨fun g h => (b.others g h).trans (a.others g h), b.here.trans a.here, b.wg.trans a.wg, b.core.trans a.core,
    fun q h => (b.cores q h).trans (a.cores q h), fun k => (b.ctxs k).trans (a.ctxs k), b.rest.trans a.rest⟩
theorem LocalTo.mem (a : LocalTo p gi s t) : t.mem = s.mem := by have := congrArg State.mem a.rest; exact this
theorem LocalTo.toIss (a : LocalTo p gi s t) {e : Iss} (hp : e.p = p) (hg : e.gi = gi) : e.Local s t := by
  subst hp hg
  exact ⟨a.others, a.wg, a.core, a.cores, a.ctxs, fun _ => by rw [a.mem], a.rest⟩

theorem LocalTo.setCore {c : Core} (h1 : ∀ gj, gj ≠ gi → c.group? gj = (s.core p).group? gj)
    (h2 : (c.group? gi).isSome = ((s.core p).group? gi).isSome) (h3 : c.wg.map Workgroup.shell = (s.core p).wg.map Workgroup.shell)
    (h4 : c.shell = (s.core p).shell) : LocalTo p gi s (s.setCore p c) where
  others gj h := by rw [State.setCore_core]; exact h1 _ h
  here := by rw [State.setCore_core]; exact h2
  wg := by rw [State.setCore_core]; exact h3
  core := by rw [State.setCore_core]; exact h4
  cores q h := State.setCore_core_ne _ _ (Ne.symm h)
  ctxs _ := rfl
  rest := rfl
theorem LocalTo.setGroup (g : Group) : LocalTo p gi s (s.setGroup p gi g) :=
  LocalTo.setCore (fun gj h => by rw [Core.setGroup_group?, if_neg h]) (by rw [Core.setGroup_group?, if_pos rfl]; simp)
    (Core.setGroup_wg_shell ..) (Core.setGroup_shell ..)
theorem LocalTo.modGroup (f : Group → Group) : LocalTo p gi s (s.modGroup p gi f) := LocalTo.setGroup _
theorem Core.group?_quads (c : Core) (qs : List Quadrant) (gi : Nat) : ({ c with quads := qs } : Core).group? gi = c.group? gi := rfl
theorem LocalTo.endRun : LocalTo p gi s (s.endRun p gi) :=
  LocalTo.setCore (fun gj h => by rw [Core.group?_quads, Core.setGroup_group?, if_neg h])
    (by rw [Core.group?_quads, Core.setGroup_group?, if_pos rfl]; simp) (Core.setGroup_wg_shell ..) (Core.setGroup_shell ..)
theorem LocalTo.count (c i n : Nat) : LocalTo p gi s (s.count c i n) where
  others gj h := by rw [State.core, State.core, State.count_cores]
  here := by rw [State.core, State.core, State.count_cores]
  wg := by rw [State.core, State.core, State.count_cores]
  core := by rw [State.core, State.core, State.count_cores]
  cores q h := by rw [State.core, State.core, State.count_cores]
  ctxs k := by
    by_cases h : c = k
    · subst h; rw [State.count, State.modCtx_ctx]; rfl
    · rw [State.count, State.modCtx_ctx_ne _ _ h]
  rest := rfl
theorem LocalTo.draws (n : Nat) : LocalTo p gi s { s with draws := n } :=
  ⟨fun _ _ => rfl, rfl, rfl, rfl, fun _ _ => rfl, fun _ => rfl, rfl⟩
theorem LocalTo.park (k : Park) : LocalTo p gi s (s.park p gi k) := LocalTo.modGroup _
theorem LocalTo.settleGroup : LocalTo p gi s (s.settleGroup p gi) := LocalTo.modGroup _
theorem LocalTo.dBit (c : Ctl) : LocalTo p gi s (s.dBit p gi c) := by
  unfold State.dBit; split
  · exact LocalTo.refl ..
  · split
    · exact LocalTo.park _
    · exact LocalTo.modGroup _
theorem LocalTo.finish (c : Ctl) (er : Bool) : LocalTo p gi s (s.finish p gi c er) := by
  refine (LocalTo.dBit c).trans ((LocalTo.settleGroup (s := s.dBit p gi c)).trans ?_)
  unfold State.finish; dsimp only
  split
  · exact LocalTo.endRun
  · exact LocalTo.refl ..

/-! The group itself. -/

theorem State.setGroup_group {g g0 : Group} (h : (s.core p).group? gi = some g0) : (s.setGroup p gi g).group p gi = g := by
  rw [State.group, State.setGroup_core, Core.setGroup_group _ _ _ _ h]
theorem State.modGroup_group {f : Group → Group} {g0 : Group} (h : (s.core p).group? gi = some g0) :
    (s.modGroup p gi f).group p gi = f (s.group p gi) := by
  rw [State.group, State.modGroup_core, Core.setGroup_group _ _ _ _ h]
theorem State.endRun_group {g0 : Group} (h : (s.core p).group? gi = some g0) :
    (s.endRun p gi).group p gi = { s.group p gi with run := none } := by
  have : ((s.core p).setGroup gi { s.group p gi with run := none }).group gi = { s.group p gi with run := none } :=
    Core.setGroup_group _ _ _ _ h
  rw [State.group, State.endRun, State.modCore_core]; exact this
theorem LocalTo.some_group (a : LocalTo p gi s t) {g0 : Group} (h : (s.core p).group? gi = some g0) : ∃ g, (t.core p).group? gi = some g := by
  have := a.here; rw [h] at this
  exact Option.isSome_iff_exists.1 (by simpa using this)

/-- Two groups whose registers are the same, and which differ only in what every issue changes. -/
structure SameGroup (g h : Group) : Prop where
  regs : ∀ n k, h.reg n k = g.reg n k
  slots : ∀ n, (h.thread? n).isSome = (g.thread? n).isSome
  shell : h.shell = g.shell
  errors : h.ueRegs = g.ueRegs
theorem SameGroup.refl (g : Group) : SameGroup g g := ⟨fun _ _ => rfl, fun _ => rfl, rfl, rfl⟩
theorem SameGroup.trans {f g h : Group} (a : SameGroup f g) (b : SameGroup g h) : SameGroup f h :=
  ⟨fun n k => (b.regs n k).trans (a.regs n k), fun n => (b.slots n).trans (a.slots n), b.shell.trans a.shell, b.errors.trans a.errors⟩
theorem SameGroup.symm {g h : Group} (a : SameGroup g h) : SameGroup h g :=
  ⟨fun n k => (a.regs n k).symm, fun n => (a.slots n).symm, a.shell.symm, a.errors.symm⟩
/-- A change of the fields that every issue changes. -/
theorem SameGroup.of_shell {g h : Group} (ht : h.threads = g.threads) (hs : h.s = g.s) (h1 : h.shell = g.shell) (h2 : h.ueRegs = g.ueRegs) : SameGroup g h :=
  ⟨fun _ _ => Group.reg_congr ht hs _ _, fun n => by simp [Group.thread?, ht], h1, h2⟩
theorem SameGroup.settle (g : Group) : SameGroup g g.settle := by
  have hu (g : Group) : SameGroup g g.unpark := by unfold Group.unpark; split <;> (try split) <;> exact SameGroup.of_shell rfl rfl rfl rfl
  unfold Group.settle
  split
  · exact SameGroup.refl g
  · split
    · split
      · exact SameGroup.of_shell rfl rfl rfl rfl
      · exact SameGroup.refl g
    · split
      · exact SameGroup.trans (g := g.waited _ _) (SameGroup.of_shell rfl rfl rfl rfl) (hu _)
      · exact SameGroup.refl g
    · exact SameGroup.refl g
theorem State.dBit_group {g0 : Group} (c : Ctl) (h : (s.core p).group? gi = some g0) :
    SameGroup (s.group p gi) ((s.dBit p gi c).group p gi) := by
  unfold State.dBit; split
  · exact SameGroup.refl _
  · split
    · rw [State.park, State.modGroup_group h]; exact SameGroup.of_shell rfl rfl rfl rfl
    · rw [State.modGroup_group h]; exact SameGroup.of_shell rfl rfl rfl rfl
theorem State.finish_group {g0 : Group} (c : Ctl) (er : Bool) (h : (s.core p).group? gi = some g0) :
    SameGroup (s.group p gi) ((s.finish p gi c er).group p gi) := by
  obtain ⟨g1, hg1⟩ := (LocalTo.dBit c).some_group h
  have h2 : SameGroup ((s.dBit p gi c).group p gi) (((s.dBit p gi c).settleGroup p gi).group p gi) := by
    rw [State.settleGroup, State.modGroup_group hg1]
    exact SameGroup.trans (SameGroup.settle _) (SameGroup.of_shell rfl rfl rfl rfl)
  obtain ⟨g2, hg2⟩ := (LocalTo.settleGroup (s := s.dBit p gi c)).some_group hg1
  refine (State.dBit_group c h).trans (h2.trans ?_)
  unfold State.finish; dsimp only
  split
  · rw [State.endRun_group hg2]; exact SameGroup.of_shell rfl rfl rfl rfl
  · exact SameGroup.refl _

/-! The beginning of an issue. -/

/-- What holds of an issue that has begun. -/
structure Begun (s : State) (e : Iss) : Prop where
  p : e.p = s.focus.1
  gi : e.gi = s.focus.2
  w : e.w = (s.core e.p).wg
  local_ : LocalTo e.p e.gi s e.s
  here : ∃ g, (e.s.core e.p).group? e.gi = some g
  old : ∃ g, (s.core e.p).group? e.gi = some g
  g : e.s.group e.p e.gi = e.g
  same : SameGroup (s.group e.p e.gi) e.g
  act : ∀ n ∈ e.act, n ∈ e.head
  head : ∀ n ∈ e.head, (e.g.thread? n).isSome = true

theorem Group.headSet_slots (g : Group) (b : Bool) (n : Nat) (h : n ∈ g.headSet b) : (g.thread? n).isSome = true := by
  have key : ∀ f : Thread → Bool, n ∈ (g.readyThreads.filter f).map (·.slot) → (g.thread? n).isSome = true := by
    intro f hf
    obtain ⟨t, ht, rfl⟩ := List.mem_map.1 hf
    have ht := (List.mem_filter.1 (List.mem_filter.1 ht).1).1
    simp only [Group.thread?, List.find?_isSome]
    exact ⟨t, ht, by simp⟩
  unfold Group.headSet at h
  dsimp only at h
  split at h
  · cases h
  · split at h
    · split at h
      · cases h
      · rw [List.filter_filter] at h; exact key _ h
    · exact key _ h

theorem begin_some {c : Ctl} {w : Nat} {e : Iss} (h : s.begin c w = some e) : Begun s e := by
  unfold State.begin at h
  dsimp only at h
  split at h
  · cases h
  · rename_i g0 hg0
    split at h
    · cases h
    · have hgr : s.group s.focus.1 s.focus.2 = g0 := by simp [State.group, Core.group, hg0]
      cases h
      have hsame : ∀ (f : Thread → Thread) (hs : List Hazard) (r : Option Run), (∀ t, (f t).slot = t.slot ∧ (f t).x = t.x ∧ (f t).p = t.p ∧ (f t).shell = t.shell) →
          SameGroup g0 { g0 with threads := g0.threads.map f, hazards := hs, run := r } := by
        intro f hs r hf
        refine ⟨fun n k => Group.reg_map g0 { g0 with threads := g0.threads.map f, hazards := hs, run := r } f
          (fun t => ⟨(hf t).1, (hf t).2.1, (hf t).2.2.1⟩) rfl rfl n k, fun n => ?_, ?_, rfl⟩
        · simp only [Group.thread?, List.find?_map, Option.isSome_map]
          congr 1; congr 1; funext t; simp [(hf t).1]
        · simp only [Group.shell, List.map_map]
          congr 1
          refine List.map_congr_left fun t _ => (hf t).2.2.2
      have hmap := hsame (fun t => if (g0.headSet (s.focus.2 == guestIx)).contains t.slot then { t with wait := 0, pc := nextPC t.pc, exempt := false, target := none, returned := none }
            else if t.st == .ready && (!g0.handler || t.inH) then { t with wait := t.wait + 1 } else t) (g0.advance (g0.headSet (s.focus.2 == guestIx)) w).hazards
            (some { (g0.run.getD {}) with count := (g0.run.getD {}).count + 1, head := g0.headSet (s.focus.2 == guestIx), held := false, why := none })
            (fun t => by
              split
              · exact ⟨rfl, rfl, rfl, rfl⟩
              · split <;> exact ⟨rfl, rfl, rfl, rfl⟩)
      refine ⟨rfl, rfl, rfl, LocalTo.setGroup _, LocalTo.some_group (LocalTo.setGroup _) hg0, ⟨g0, hg0⟩, ?_, ?_, ?_, ?_⟩
      · exact State.setGroup_group hg0
      · rw [hgr]; exact hmap
      · intro n hn
        dsimp only at hn; split at hn
        · exact hn
        · exact (List.mem_filter.1 hn).1
      · intro n hn
        have hold := Group.headSet_slots g0 _ n hn
        have := hmap.slots n
        rw [hold] at this
        exact this

/-! An issue that goes through. -/

/-- What holds of an issue that goes through. -/
structure Going (s : State) (c : Ctl) (i : Instr) (e : Iss) : Prop extends Begun s e where
  clears : e.clears c i = true
  draws : e.s.draws = s.draws + 1

theorem goes_some {c : Ctl} {i : Instr} {w : Nat} {e : Iss} (h : s.goes c i w = some e) :
    ∃ b, s.begin c w = some b ∧ e = b.drawn s.draws ∧ Going s c i e := by
  unfold State.goes at h
  simp only [Option.filter_eq_some_iff, Option.map_eq_some_iff] at h
  obtain ⟨⟨b, h1, rfl⟩, h2⟩ := h
  have hb := begin_some h1
  exact ⟨b, h1, rfl, ⟨⟨hb.p, hb.gi, hb.w, hb.local_.trans (LocalTo.draws _), hb.here, hb.old, hb.g, hb.same, hb.act, hb.head⟩, h2, rfl⟩⟩

theorem clears_early {c : Ctl} {i : Instr} {e : Iss} (h : e.clears c i = true) : e.early c i = none ∧ (e.tandem && e.commits i) = false := by
  simp only [Iss.clears, Bool.and_eq_true, Bool.or_eq_true, Bool.not_eq_true', Option.isNone_iff_eq_none, decide_eq_true_eq] at h
  obtain ⟨⟨⟨⟨⟨⟨hl, hh⟩, hu⟩, hd⟩, hr⟩, ha⟩, ht⟩ := h
  refine ⟨?_, ht⟩
  have h1 : (if (e.s.ctx e.ctx).checked = true then hazardBreak e.g c i e.head e.act else none) = none := by
    split
    · exact hh.resolve_left (by simp [*])
    · rfl
  have h2 : (if e.watched = true then debugBreak (e.s.ctx e.ctx) e.gi e.pc else none) = none := by
    split
    · exact hd.resolve_left (by simp [*])
    · rfl
  have h3 : (if e.guest = true then awayBreak i ((if everyThread i then e.head else e.act).map e.thread) else none) = none := by
    split
    · exact ha.resolve_left (by simp [*])
    · rfl
  unfold Iss.early
  simp only [hl, Bool.not_true, Bool.false_eq_true, if_false, h1, hu, h2, h3]
  rw [if_neg]
  simp only [Bool.and_eq_true, decide_eq_true_eq, Bool.not_eq_true', not_and, Bool.not_eq_false]
  intro h; exact hr.resolve_left (not_not.2 h)

/-- An issue that goes through answers what the instruction's own effect answers. -/
theorem issue_goes {c : Ctl} {i : Instr} {w : Nat} {e : Iss} (h : s.goes c i w = some e) (body : Iss → Eff) :
    issue c i w s body = e.conclude { s with draws := s.draws + 1 } c i (body e) := by
  obtain ⟨b, h1, rfl, hg⟩ := goes_some h
  unfold issue
  rw [h1]; dsimp only
  rw [(clears_early hg.clears).1]
theorem issue_ok {c : Ctl} {i : Instr} {w : Nat} {e : Iss} {body : Iss → Eff} {r : Bool} (h : s.goes c i w = some e) (hb : body e = .ok (t, r)) :
    issue c i w s body = .next (t.finish e.p e.gi c r) := by
  obtain ⟨b, h1, rfl, hg⟩ := goes_some h
  rw [issue_goes h, hb, Iss.conclude, Iss.done, (clears_early hg.clears).2]; rfl

end Sys2Proof.Machine
end

