-- ==== Sys2Proof/Laws/Order.lean ====
section
/-! SUPPORT. What the operations on cached lines, leases and landing registers leave. -/

set_option Elab.async false

namespace Sys2Proof.Machine

variable (s : State)

/-! A core's own lines after an access at the home (R197, R205). -/

@[simp] theorem State.refreshOwn_mem (p k n : Nat) : (s.refreshOwn p k n).mem = s.mem := rfl
theorem State.refreshOwn_core_ne {p q : Nat} (k n : Nat) (h : p ≠ q) : (s.refreshOwn p k n).core q = s.core q := State.modCore_core_ne _ _ h
/-- Only lines change, and no line comes or goes. -/
theorem State.refreshOwn_core (p k n : Nat) :
    ∃ ls, (s.refreshOwn p k n).core p = { s.core p with l1 := ls } ∧ ls.length = (s.core p).l1.length := by
  refine ⟨_, State.modCore_core .., ?_⟩
  simp

/-! Dirty leased lines made visible at .dom and .sys (R201, R233). -/

@[simp] theorem State.publish_mem (level : Nat) : (s.publish level).mem = s.mem := by
  unfold State.publish; split <;> rfl
@[simp] theorem State.publish_cores (level : Nat) : (s.publish level).cores = s.cores := by
  unfold State.publish; split <;> rfl
/-- Below .dom it changes nothing. -/
theorem State.publish_low {level : Nat} (h : level < 5) : s.publish level = s := by simp [State.publish, h]

/-! Registers of a group that has ended stay (R283). -/

theorem Group.landLive_ended {g : Group} (h : g.ended = true) (draws op : Nat) (ws : List RegWrite) : g.landLive draws op ws = g := by
  simp [Group.landLive, h]
theorem Group.landLive_live {g : Group} (h : g.ended = false) (draws op : Nat) (ws : List RegWrite) :
    g.landLive draws op ws = g.landAll draws op ws := by
  simp [Group.landLive, h]

/-! The slices of a die scratchpad (R180). -/

theorem dieSlice_lt (d : Nat) : dieSlice d < 256 := Nat.mod_lt _ (by decide)
/-- A byte's slice and its place there tell the byte. -/
theorem dieSlice_split (d : Nat) : d = 32768 * (dieSliceByte d / 128) + 128 * dieSlice d + dieSliceByte d % 128 := by
  unfold dieSlice dieSliceByte; omega

end Sys2Proof.Machine
end

