-- ==== Sys2Proof/Laws/Results.lean ====
section
/-! SUPPORT. Results that reach registers at their issue (spec/02_instruction_word.md R38 to R40, R44): the destination holds them, and
nothing else of the group changes. -/

namespace Sys2Proof.Machine

/-- A destination lies inside its registers, its words together (R38, R39). -/
def dstOk (d : Dst) (words : Nat) : Prop :=
  match d with
  | .x n => n + words ≤ 128
  | .s n => n + words ≤ 64
  | .p n => n + words ≤ 24
  | .none => True

theorem SameGroup.latch (e : Iss) (ns : List Nat) (os : List (RdAs × Src)) (g : Group) : SameGroup g (e.latch ns os g) := by
  unfold Iss.latch
  split
  · refine ⟨fun n k => Group.reg_map g (g.modThreads ns _)
        (fun t => if ns.contains t.slot then { t with cycHigh := (e.srcs t 0 os).2.cycHigh, timeHigh := (e.srcs t 0 os).2.timeHigh } else t)
        ?_ rfl rfl n k, fun n => ?_, ?_, rfl⟩
    · intro t; split <;> exact ⟨rfl, rfl, rfl⟩
    · rw [Group.thread?_modThreads _ _ _ _ (by intro t; rfl)]; split <;> simp
    · simp only [Group.shell, Group.modThreads, List.map_map]
      congr 1
      refine List.map_congr_left fun t _ => ?_
      dsimp only [Function.comp]; split <;> rfl
  · exact SameGroup.refl g

theorem Group.setReg_shell (g : Group) (slot code : Nat) (v : Word) : (g.setReg slot code v).shell = g.shell := by
  unfold Group.setReg
  split
  · simp only [Group.shell, Group.modThread, List.map_map]
    congr 1
    refine List.map_congr_left fun t _ => ?_
    dsimp only [Function.comp]; split <;> rfl
  · split
    · rfl
    · simp only [Group.shell, Group.modThread, List.map_map]
      congr 1
      refine List.map_congr_left fun t _ => ?_
      dsimp only [Function.comp]; split <;> rfl
theorem Group.writeFixed_shell (g : Group) (head : List Nat) (lat : Nat) (ws : List RegWrite) : (g.writeFixed head lat ws).shell = g.shell := by
  induction ws generalizing g with
  | nil => rfl
  | cons w ws ih =>
    rw [Group.writeFixed_cons, ih]
    simp only [Group.writeFixed, List.foldl_cons, List.foldl_nil]
    split
    · have : ∀ (l : List Nat) (g : Group) (o : Word),
          (l.foldl (fun g n => ({ g.putFixed lat n w.code o with s := g.s } : Group)) g).shell = g.shell := by
        intro l
        induction l with
        | nil => intro g o; rfl
        | cons a l ih =>
          intro g o
          refine (ih _ _).trans ?_
          exact (Group.setReg_shell g a w.code o)
      exact this head g _
    · exact Group.setReg_shell g w.slot w.code w.v

/-- A write heals the register that it writes and no other (R456). -/
theorem Group.ueReg_heal (g : Group) (slot code n k : Nat) (h : ¬ (code = k ∧ (slot = n ∨ uniformCode k = true))) :
    (g.heal slot code).ueReg n k = g.ueReg n k := by
  simp only [Group.ueReg, Group.heal, List.any_filter]
  congr 1; funext b
  by_cases hk : b.2 = k
  · by_cases hc : code = k
    · have hu : uniformCode k = false := by simpa [hc] using fun h' => h ⟨hc, Or.inr h'⟩
      have hs : slot ≠ n := fun h' => h ⟨hc, Or.inl h'⟩
      by_cases hb : b.1 = n
      · simp [hk, hc, hu, hb, Ne.symm hs]
      · simp [hk, hc, hu, hb]
    · simp [hk, Ne.symm hc]
  · simp [hk]
/-- A register that no fixed-latency write names holds an error where it did. -/
theorem Group.writeFixed_ueReg (g : Group) (head : List Nat) (lat : Nat) (ws : List RegWrite) (n k : Nat)
    (h : ∀ w ∈ ws, ¬ (w.code = k ∧ (w.slot = n ∨ uniformCode k = true))) : (g.writeFixed head lat ws).ueReg n k = g.ueReg n k := by
  have hput (g : Group) (a c : Nat) (v : Word) (hs : ¬ (c = k ∧ (a = n ∨ uniformCode k = true))) : (g.putFixed lat a c v).ueReg n k = g.ueReg n k := by
    rw [← Group.ueReg_heal g a c n k hs]
    simp only [Group.ueReg, Group.putFixed, Group.setReg]
    split <;> (try split) <;> rfl
  induction ws generalizing g with
  | nil => rfl
  | cons w ws ih =>
    have hw := h w (by simp)
    rw [Group.writeFixed_cons, ih _ (fun v hv => h v (by simp [hv]))]
    simp only [Group.writeFixed, List.foldl_cons, List.foldl_nil]
    split
    · rename_i hu
      have hu : uniformCode w.code = true := by simpa [uniformCode] using hu
      have hk : w.code ≠ k := fun e => hw ⟨e, Or.inr (e ▸ hu)⟩
      have hf : ∀ (l : List Nat) (g : Group) (o : Word),
          (l.foldl (fun g n => ({ g.putFixed lat n w.code o with s := g.s } : Group)) g).ueReg n k = g.ueReg n k := by
        intro l
        induction l with
        | nil => intro g o; rfl
        | cons a l ih => intro g o; exact (ih _ _).trans (hput g a w.code o fun e => hk e.1)
      exact (Group.ueReg_heal _ w.slot w.code n k fun e => hk e.1).trans (hf head g _)
    · exact hput g w.slot w.code w.v hw

/-- Writes that carry a result to its destination: `f slot k` to the k-th code. -/
structure Carries (ws : List RegWrite) (d : Dst) (codes act : List Nat) (f : Nat → Nat → Word) : Prop where
  codeOk : ∀ k ∈ codes, regCode k
  kind : ∀ k ∈ codes, (0x80 ≤ k ∧ k < 0xC0) ↔ ∃ n, d = .s n
  vals : ∀ n k, ∀ h : k < codes.length, regVal codes[k] (f n k) = f n k
  nodup : codes.Nodup
  only : ∀ w ∈ ws, ∃ k, ∃ h : k < codes.length, w.code = codes[k] ∧ w.slot ∈ act ∧ w.v = f w.slot k ∧ ((∃ n, d = .s n) → act.head? = some w.slot)
  all : d ≠ .none → ∀ n ∈ act, ((∃ m, d = .s m) → act.head? = some n) → ∀ k, ∀ h : k < codes.length, ∃ w ∈ ws, w.code = codes[k] ∧ w.slot = n

theorem Carries.codes_ok {ws : List RegWrite} {d : Dst} {codes act : List Nat} {f : Nat → Nat → Word} (c : Carries ws d codes act f) :
    ∀ w ∈ ws, regCode w.code := by
  intro w hw
  obtain ⟨k, h, he, -⟩ := c.only w hw
  rw [he]; exact c.codeOk _ (List.getElem_mem h)

/-- The group after the writes holds the result, and every other register is as it was. -/
theorem Carries.holds {ws : List RegWrite} {d : Dst} {codes act : List Nat} {f : Nat → Nat → Word} (c : Carries ws d codes act f) (g : Group)
    (head : List Nat) (lat : Nat) (ha : ∀ n ∈ act, (g.thread? n).isSome = true) :
    (∀ n ∈ act, d ≠ .none → ((∃ m, d = .s m) → act.head? = some n) → ∀ k (h : k < codes.length), (g.writeFixed head lat ws).reg n codes[k] = f n k)
      ∧ (∀ n k, regCode k → dstHits d codes act n k = false → (g.writeFixed head lat ws).reg n k = g.reg n k)
      ∧ ∀ n k, dstHits d codes act n k = false → (g.writeFixed head lat ws).ueReg n k = g.ueReg n k := by
  have hmiss : ∀ n k, dstHits d codes act n k = false → ∀ w ∈ ws, ¬ (w.code = k ∧ ((0x80 ≤ k ∧ k < 0xC0) ∨ w.slot = n)) := by
    rintro n k hh w hw ⟨h1, h2⟩
    obtain ⟨j, hj, hc, hm, -, -⟩ := c.only w hw
    have hin : codes.contains k = true := by
      rw [List.contains_iff_mem, ← h1, hc]; exact List.getElem_mem hj
    have hne : act.isEmpty = false := by cases act with
      | nil => cases hm
      | cons _ _ => rfl
    simp only [dstHits, hin, hne, Bool.not_false, Bool.and_true, Bool.true_and] at hh
    have hkind := c.kind k (by rw [← List.contains_iff_mem]; exact hin)
    have hnot : (∃ m, d = .s m) → False := by rintro ⟨m, rfl⟩; simp at hh
    rcases h2 with h2 | rfl
    · exact hnot (hkind.1 h2)
    · cases d with
      | s m => exact hnot ⟨m, rfl⟩
      | none | x m | p m => simp at hh; exact hh hm
  refine ⟨?_, fun n k hk hh => Group.writeFixed_other g head lat ws c.codes_ok n k hk (hmiss n k hh), fun n k hh =>
    Group.writeFixed_ueReg g head lat ws n k fun w hw h => hmiss n k hh w hw ⟨h.1, h.2.symm.imp (by simp [uniformCode]) id⟩⟩
  · intro n hn hd hs k h
    refine Group.writeFixed_value g head lat ws c.codes_ok n _ (c.codeOk _ (List.getElem_mem h)) _ (Or.inr (ha n hn)) ?_ ?_
    · intro w hw ⟨h1, h2⟩
      obtain ⟨j, hj, hc, hm, hv, hf⟩ := c.only w hw
      have hjk : j = k := by
        have := c.nodup
        rw [List.nodup_iff_injective_get] at this
        have := @this ⟨j, hj⟩ ⟨k, h⟩ (by simpa using hc.symm.trans h1)
        simpa using this
      subst hjk
      have hslot : w.slot = n := by
        rcases h2 with h2 | h2
        · have hd' := (c.kind _ (List.getElem_mem h)).1 h2
          have a := hf hd'; have b := hs hd'
          rw [a] at b; exact Option.some.inj b
        · exact h2
      rw [hv, hslot]; exact c.vals n j h
    · left
      obtain ⟨w, hw, h1, h2⟩ := c.all hd n hn hs k h
      exact ⟨w, hw, h1, Or.inr h2⟩

/-- The usual writes of a destination carry each active lane's value. -/
theorem carries_dstWrites (d : Dst) (words : Nat) (act : List Nat) (f : Nat → DWord) (hok : dstOk d words)
    (hp : (∃ m, d = .p m) → ∀ n k, regVal 0xE0 (wordOf (f n) k) = wordOf (f n) k) :
    Carries (dstWrites d words (act.map fun n => (n, f n))) d (d.codes words) act (fun n k => wordOf (f n) k) := by
  have hlt : ∀ {k}, k ∈ d.codes words → d ≠ .none ∧ ∃ i < words, k = d.code + i := by
    intro k hk
    cases d <;> simp only [Dst.codes, List.mem_map, List.mem_range, List.not_mem_nil] at hk
    all_goals (first | (obtain ⟨i, hi, rfl⟩ := hk; exact ⟨by simp, i, hi, rfl⟩))
  have hget : ∀ k (h : k < (d.codes words).length), d ≠ .none ∧ k < words ∧ (d.codes words)[k] = d.code + k := by
    intro k h
    cases d <;> simp only [Dst.codes, List.length_map, List.length_range, List.length_nil] at h
    all_goals (first | exact absurd h (by omega) | exact ⟨by simp, h, by simp [Dst.codes]⟩)
  refine ⟨?_, ?_, ?_, ?_, ?_, ?_⟩
  · intro k hk
    obtain ⟨hd, i, hi, rfl⟩ := hlt hk
    cases d <;> simp only [dstOk, Dst.code, regCode] at hok ⊢ <;> (first | omega | exact absurd rfl hd)
  · intro k hk
    obtain ⟨hd, i, hi, rfl⟩ := hlt hk
    cases d <;> simp only [dstOk, Dst.code, reduceCtorEq, exists_false, iff_false, Dst.s.injEq, exists_eq', iff_true] at hok ⊢ <;> omega
  · intro n k h
    obtain ⟨hd, hk, he⟩ := hget k h
    rw [he]
    cases d with
    | x m => simp only [dstOk, Dst.code] at hok ⊢; rw [regVal, if_pos (by omega)]
    | s m => simp only [dstOk, Dst.code] at hok ⊢; rw [regVal, if_pos (by omega)]
    | none => exact absurd rfl hd
    | p m =>
      have h1 := hp ⟨m, rfl⟩ n k
      have h2 : ¬ (Dst.code (.p m) + k < 0xC0) := by simp only [Dst.code]; omega
      rw [regVal, if_neg (by omega)] at h1
      rw [regVal, if_neg h2]; exact h1
  · cases d <;> simp only [Dst.codes, List.nodup_nil] <;>
      exact List.Nodup.map (fun a b h => by simpa using h) List.nodup_range
  · intro w hw
    cases d with
    | none => simp [dstWrites] at hw
    | s m =>
      cases act with
      | nil => simp [dstWrites] at hw
      | cons a as =>
        simp only [dstWrites, List.map_cons, List.mem_map, List.mem_range] at hw
        obtain ⟨i, hi, rfl⟩ := hw
        refine ⟨i, by simpa [Dst.codes] using hi, by simp [Dst.codes, Dst.code], by simp, rfl, fun _ => rfl⟩
    | x m =>
      simp only [dstWrites, List.flatMap_map, List.mem_flatMap, List.mem_map, List.mem_range] at hw
      obtain ⟨n, hn, i, hi, rfl⟩ := hw
      exact ⟨i, by simpa [Dst.codes] using hi, by simp [Dst.codes], hn, rfl, by simp⟩
    | p m =>
      simp only [dstWrites, List.flatMap_map, List.mem_flatMap, List.mem_map, List.mem_range] at hw
      obtain ⟨n, hn, i, hi, rfl⟩ := hw
      exact ⟨i, by simpa [Dst.codes] using hi, by simp [Dst.codes], hn, rfl, by simp⟩
  · intro hd n hn hs k h
    obtain ⟨-, hk, he⟩ := hget k h
    rw [he]
    cases d with
    | none => exact absurd rfl hd
    | s m =>
      cases act with
      | nil => cases hn
      | cons a as =>
        have ha : a = n := by have := hs ⟨m, rfl⟩; simpa using this
        subst ha
        refine ⟨⟨a, 0x80 + m + k, wordOf (f a) k⟩, ?_, rfl, rfl⟩
        simp only [dstWrites, List.map_cons, List.mem_map, List.mem_range]
        exact ⟨k, hk, rfl⟩
    | x m =>
      refine ⟨⟨n, Dst.code (.x m) + k, wordOf (f n) k⟩, ?_, rfl, rfl⟩
      simp only [dstWrites, List.flatMap_map, List.mem_flatMap, List.mem_map, List.mem_range]
      exact ⟨n, hn, k, hk, rfl⟩
    | p m =>
      refine ⟨⟨n, Dst.code (.p m) + k, wordOf (f n) k⟩, ?_, rfl, rfl⟩
      simp only [dstWrites, List.flatMap_map, List.mem_flatMap, List.mem_map, List.mem_range]
      exact ⟨n, hn, k, hk, rfl⟩

/-- An instruction whose own effect writes its destination at issue has the result. -/
theorem regResult {c : Ctl} {i : Instr} {w : Nat} {d : Dst} {codes : List Nat} {f : Iss → Nat → Nat → Word} {body : Iss → Eff}
    (hx : ∀ s, exec i s = issue c i w s body)
    (hb : ∀ s e, i.wf = true → Going s c i e → ∃ t r ws lat g, body e = .ok (t, r) ∧ LocalTo e.p e.gi e.s t ∧ SameGroup e.g g
      ∧ SameGroup (g.writeFixed e.head lat ws) (t.group e.p e.gi) ∧ Carries ws d codes e.act (f e)) : RegResult c i w d codes f := by
  intro s e hwf hgo
  obtain ⟨b, -, -, hg⟩ := goes_some hgo
  obtain ⟨t, r, ws, lat, g, hbody, hl, hsame, hgr, hc⟩ := hb s e hwf hg
  obtain ⟨g0, hg0⟩ := hg.here
  obtain ⟨g1, hg1⟩ := hl.some_group hg0
  have hfin := State.finish_group c r hg1
  have hall := hg.local_.trans (hl.trans (LocalTo.finish c r))
  have hact : ∀ n ∈ e.act, (g.thread? n).isSome = true := fun n hn => by rw [hsame.slots]; exact hg.head n (hg.act n hn)
  have hh := hc.holds g e.head lat hact
  refine ⟨t.finish e.p e.gi c r, by rw [hx, issue_ok hgo hbody], ?_, ?_, ?_, hall.toIss rfl rfl, ?_⟩
  · have key : ∀ n k, ((t.finish e.p e.gi c r).group e.p e.gi).reg n k = (g.writeFixed e.head lat ws).reg n k := by
      intro n k; rw [hfin.regs, hgr.regs]
    unfold Iss.Holds
    split
    · trivial
    · intro n hn k h
      rw [key]; exact hh.1 n (List.mem_of_head? hn) (by simp) (fun _ => hn) k h
    · rename_i h1 h2
      intro n hn k h
      rw [key]
      exact hh.1 n hn h1 (fun ⟨m, hm⟩ => absurd hm (h2 m)) k h
  · intro n k hk hhit
    rw [hfin.regs, hgr.regs, hh.2.1 n k hk hhit, hsame.regs, hg.same.regs]
  · intro n k hhit
    have hu {a b : Group} (h : SameGroup a b) : b.ueReg n k = a.ueReg n k := by simp only [Group.ueReg, h.errors]
    rw [hu hfin, hu hgr, hh.2.2 n k hhit, hu hsame, hu hg.same]
  · rw [hfin.shell, hgr.shell, Group.writeFixed_shell, hsame.shell, hg.same.shell]

/-- Counting leaves the groups alone. -/
theorem State.tally_local (e : Iss) (s : State) (ctr n : Nat) : LocalTo e.p e.gi s (e.tally s ctr n) := by
  unfold Iss.tally
  split
  · generalize e.act = l
    induction l generalizing s with
    | nil => exact LocalTo.refl ..
    | cons a l ih => exact (LocalTo.count _ _ _).trans (ih _)
  · exact LocalTo.count _ _ _
theorem State.count_core (s : State) (c i n p : Nat) : (s.count c i n).core p = s.core p := by rw [State.core, State.core, State.count_cores]
theorem State.tally_core (e : Iss) (s : State) (ctr n p : Nat) : (e.tally s ctr n).core p = s.core p := by
  unfold Iss.tally
  split
  · generalize e.act = l
    induction l generalizing s with
    | nil => rfl
    | cons a l ih => exact (ih _).trans (State.count_core ..)
  · exact State.count_core ..
theorem State.tally_group (e : Iss) (s : State) (ctr n p gi : Nat) : (e.tally s ctr n).group p gi = s.group p gi := by
  rw [State.group, State.group, State.tally_core]

theorem Iss.write_local (e : Iss) (lat : Nat) (ws : List RegWrite) (os : List (RdAs × Src)) : LocalTo e.p e.gi e.s (e.write lat ws os) :=
  LocalTo.setGroup _
theorem Iss.write_group {s : State} {c : Ctl} {i : Instr} {e : Iss} (h : Going s c i e) (lat : Nat) (ws : List RegWrite) (os : List (RdAs × Src)) :
    SameGroup ((e.latch e.act os e.g).writeFixed e.head lat ws) ((e.write lat ws os).group e.p e.gi) := by
  obtain ⟨g0, hg0⟩ := h.here
  unfold Iss.write
  rw [State.setGroup_group hg0]
  exact SameGroup.of_shell rfl rfl rfl rfl

/-- The instructions of classes 0 and 1 of fixed latency. -/
theorem fixedAlu_result {c : Ctl} {i : Instr} {o : Alu} {ra rb rc : RdAs} {words lat ctr n : Nat} {f : DWord → DWord → DWord → DWord}
    (hx : ∀ s, exec i s = fixedAlu c i o ra rb rc words lat ctr n s f) (hok : i.wf = true → dstOk o.dst words)
    (hp : i.wf = true → (∃ m, o.dst = .p m) → ∀ a b k j, regVal 0xE0 (wordOf (f a b k) j) = wordOf (f a b k) j) :
    AluResult c i o ra rb rc words f := by
  refine regResult hx fun s e hwf hg => ?_
  refine ⟨_, _, _, lat, e.latch e.act [(ra, o.a), (rb, o.b), (rc, o.c)] e.g, rfl, (Iss.write_local ..).trans (State.tally_local ..), SameGroup.latch ..,
    (State.tally_group ..).symm ▸ Iss.write_group hg .., ?_⟩
  have h := carries_dstWrites o.dst words e.act
    (fun m => let v := e.opnd [(ra, o.a), (rb, o.b), (rc, o.c)] m; f (v 0) (v 1) (v 2)) (hok hwf) (fun h => fun m k => hp hwf h _ _ _ _)
  convert h using 2
  simp only [Iss.read, List.map_map]
  rfl
/-- The result may be written in another way, for well-formed operands. -/
theorem AluResult.congr {c : Ctl} {i : Instr} {o : Alu} {ra rb rc : RdAs} {words : Nat} {f g : DWord → DWord → DWord → DWord}
    (h : AluResult c i o ra rb rc words f) (hfg : i.wf = true → ∀ a b k, f a b k = g a b k) : AluResult c i o ra rb rc words g := by
  intro s e hwf hgo
  have := h s e hwf hgo
  simp only [hfg hwf] at this; exact this

/-- Destinations of one value of a type (R39). -/
theorem dstOk_fits {ty : Ty} {d : Dst} (h : d.fits ty = true) : dstOk d ty.words := by
  unfold Dst.fits at h
  unfold Ty.words
  split at h
  · rename_i hb; rw [if_pos hb]
    unfold Dst.isPair at h
    cases d <;> simp_all [dstOk] <;> omega
  · rename_i hb; rw [if_neg hb]
    unfold Dst.isReg at h
    cases d <;> simp_all [dstOk]
theorem notP_fits {ty : Ty} {d : Dst} (h : d.fits ty = true) : ¬ ∃ m, d = .p m := by
  rintro ⟨m, rfl⟩
  unfold Dst.fits at h
  split at h <;> simp [Dst.isPair, Dst.isReg] at h
/-- Results of the width of the type. -/
theorem fixedAlu_typed {c : Ctl} {i : Instr} {o : Alu} {ra rb rc : RdAs} {lat ctr n : Nat} {f : DWord → DWord → DWord → DWord}
    (hx : ∀ s, exec i s = fixedAlu c i o ra rb rc o.ty.words lat ctr n s f) (key : i.wf = true → o.dst.fits o.ty = true) :
    AluResult c i o ra rb rc o.ty.words f :=
  fixedAlu_result hx (fun h => dstOk_fits (key h)) (fun h hp => absurd hp (notP_fits (key h)))

end Sys2Proof.Machine
end

