-- ==== Sys2Proof/Safety.lean ====
section
/-! DEFINITION. What counts as a safe run of the machine. -/

namespace Sys2Proof

/-- The machine takes n steps from a state, and none of them stops it. -/
def safeFor : Nat → Machine.State → Prop
  | 0, _ => True
  | n + 1, s => ∃ t, Machine.step s = .next t ∧ safeFor n t

/-- Every run from a state goes on for ever. -/
def safe (s : Machine.State) : Prop := ∀ n, safeFor n s

end Sys2Proof
end

