-- ==== Sys2Proof/Tests/Slice0.lean ====
section
/-! SUPPORT. Tests: ill-formed terms that WellFormed refuses, words that the spec prints, and single steps whose results the spec
gives. Each comment names where the expected result comes from. -/

-- one theorem is elaborated after another: waiting threads hold memory
set_option Elab.async false

namespace Sys2Proof.Tests

open Sys2Proof.Machine

/-- No guard, E 0, D 0, T 0; and the same with a token. -/
def k : Ctl := ⟨none, false, false, 0⟩
def kt (t : Nat) : Ctl := { k with t }
/-- Operands without .sat, .ftz and a rounding. -/
def u (ty : Ty) (d : Dst) (a b c : Src) : Alu := ⟨ty, false, .rne, false, d, a, b, c⟩
/-- Operands of an access, relaxed. -/
def mo (w : Width) (tier : Tier) (d : Dst) (base data : Src) (off : Word) : MemOps := ⟨w, .i8, tier, .grp, .rlx, false, false, d, base, data, off⟩

/-! Ill-formed terms (R36, with the operand tables of each class). -/

def bad0 : List Instr :=
  [-- the control fields: guard 24, token 16, a token where none is counted
   .nop { k with guard := some ⟨24, false⟩ }, .broom (kt 16), .nop (kt 1),
   -- a type outside the list; .sat, a rounding, .ftz where the field is reserved
   .iadd k (u .f32 (.x 0) (.x 1) (.x 2) .zero), .imin k { u .i32 (.x 0) (.x 1) (.x 2) .zero with sat := true },
   .iadd k { u .i32 (.x 0) (.x 1) (.x 2) .zero with rnd := .rz }, .iadd k { u .i32 (.x 0) (.x 1) (.x 2) .zero with ftz := true },
   -- a destination that is none, a predicate, a register that does not exist, an odd pair
   .iadd k (u .i32 .none (.x 1) (.x 2) .zero), .iadd k (u .i32 (.p 1) (.x 1) (.x 2) .zero), .iadd k (u .i32 (.x 128) (.x 1) (.x 2) .zero),
   .iadd k (u .i64 (.x 1) (.x 2) (.x 4) .zero), .iadd k (u .i64 (.s 1) (.x 2) (.x 4) .zero),
   -- sources: a literal or a predicate as first source, a special register of 64 bits, a third source that is not used
   .iadd k (u .i32 (.x 0) (.imm 1) (.x 2) .zero), .iadd k (u .i32 (.x 0) (.p 1) (.x 2) .zero), .mov k (u .b64 (.x 0) .zero (.sr .lane) .zero),
   .iadd k (u .i32 (.x 0) (.x 1) (.x 2) (.x 3)), .iabs k (u .i32 (.x 0) (.x 1) (.x 2) .zero), .iabs k (u .n32 (.x 0) (.x 1) .zero .zero),
   .imul k (u .i8 (.x 0) (.x 1) (.x 2) .zero), .imulHi k (u .i64 (.x 0) (.x 2) (.x 4) .zero), .imad k (u .i8 (.x 0) (.x 1) (.x 2) (.x 3)),
   .imadWide k (u .i32 (.x 1) (.x 2) (.x 3) (.x 4)), .and k (u .i32 (.x 0) (.x 1) (.x 2) .zero), .not k (u .i32 (.x 0) (.x 1) .zero .zero),
   .shl k (u .i32 (.x 0) (.x 1) (.x 2) .zero), .sar k (u .b32 (.x 0) (.x 1) (.x 2) .zero), .bfx k (u .b32 (.x 0) (.x 1) (.x 2) .zero),
   .bfi k (u .i32 (.x 0) (.x 1) (.x 2) (.x 3)), .popc k (u .b32 (.p 0) (.x 1) .zero .zero), .brev k (u .i32 (.x 0) (.x 1) .zero .zero),
   .prmt k (u .b64 (.x 0) (.x 2) (.x 4) (.x 6)), .icmp k .eq (u .i32 .none (.x 1) (.x 2) .zero), .isel k (u .b32 (.x 0) (.x 1) (.x 2) (.imm 1)),
   .mov k (u .b32 (.x 0) (.x 1) (.x 2) .zero), .movi k 0 (u .b64 (.x 1) .zero .zero .zero), .lea k 8 (u .i32 (.x 0) (.x 2) (.x 4) .zero),
   .lea k 0 (u .i32 (.x 0) (.x 3) (.x 4) .zero), .plog k .and (u .b32 (.x 0) (.p 1) (.p 2) .zero), .plog k .not (u .b32 (.p 0) (.p 1) (.p 2) .zero),
   .pmovPack k 0 (u .b32 (.x 0) (.p 0) .zero .zero), .pmovPack k 5 (u .b32 (.x 0) (.p 20) .zero .zero), .pmovUnpack k 25 (u .b32 (.p 0) (.x 0) .zero .zero)]
theorem test_illFormed_class0 : (bad0.all fun i => !i.wf) = true := by decide

def bad1 : List Instr :=
  [.fadd k (u .f16 (.x 0) (.x 1) (.x 2) .zero), .fma k (u .f32 (.x 0) (.x 1) (.x 2) (.imm 0)), .fmin k { u .f32 (.x 0) (.x 1) (.x 2) .zero with rnd := .rz },
   .fcmp k .lt (u .f32 .none (.x 1) (.x 2) .zero), .frnd k { u .f32 (.x 0) (.x 1) .zero .zero with sat := true }, .frcp k (u .f32 (.x 0) (.x 1) (.x 2) .zero),
   .fsin k { u .f32 (.x 0) (.x 1) .zero .zero with rnd := .rz }, .fclass k (u .e4m3 (.x 0) (.x 1) .zero .zero), .fscale k (u .f16 (.x 0) (.x 1) (.x 2) .zero),
   .cvt k .f32 (u .f32 (.x 0) (.x 1) .zero .zero), .cvt k .i32 (u .f32 (.x 0) (.x 1) .zero .zero), .cvti k .i32 (u .i32 (.x 0) (.x 1) .zero .zero),
   .cvtf k .i32 (u .e4m3 (.x 0) (.x 1) .zero .zero), .hadd2 k (u .f32 (.x 0) (.x 1) (.x 2) .zero), .hfma2 k (u .f32 (.x 0) (.x 1) (.x 2) (.x 3)),
   .dot4 k { u .i8 (.x 0) (.x 1) (.x 2) (.x 3) with rnd := .rz }, .mxpack (kt 1) 6 (u .f32 (.x 0) (.x 1) .zero .zero),
   .mxpack (kt 1) 0 (u .f32 (.x 1) (.x 2) .zero .zero), .mxunpk (kt 1) (u .f32 (.s 0) (.x 2) (.x 3) .zero)]
theorem test_illFormed_class1 : (bad1.all fun i => !i.wf) = true := by decide

def bo (base b : Src) : BarOps := ⟨false, base, b, 0⟩
def bad2 : List Instr :=
  [.dly k 0, .dly k 256, .bra (kt 1) 0, .brx k (.x 1), .callReg k .zero, .twait k 0 0, .twait k 16 0, .twait k 1 64, .sleep k 65536, .join k 12,
   .leave k 12, .mwait k 12, .maskRd k (.x 1) 0, .maskTst k .none 0, .ballot k (.x 1) (.x 2), .vote k .cnt (.p 0) (.x 2), .vote k .all .none (.x 2),
   .shfl k .lane 6 (.x 0) (.x 1) (.x 2), .shfl k .lane 0 .none (.x 1) (.x 2), .bar k 16, .cbar k 16, .binit k (bo (.x 0) .zero),
   .barrive k (bo (.x 0) (.x 1)), .barriveTx k (bo .zero (.x 1)), .bwait k (bo (.x 0) (.imm 0)), .binval k (bo (.imm 0) .zero), .qsend k (bo (.x 0) (.x 1)),
   .qrecv k (.x 1) (.x 0) 0, .launch k (.x 0) (.x 1) (.imm 0), .launch k (.p 0) (.x 2) (.imm 0)]
theorem test_illFormed_class2 : (bad2.all fun i => !i.wf) = true := by decide

def bad3 : List Instr :=
  [-- the tier of another instruction, a base that is no pair, a type or a .go where the field is reserved
   .lds k (mo .b32 .dmem (.x 0) (.x 2) .zero 0), .ldg k (mo .b32 .glob (.x 0) (.x 1) .zero 0), .ldg k { mo .b32 .glob (.x 0) (.x 2) .zero 0 with ty := .i16 },
   .lds k { mo .b32 .smem (.x 0) (.x 2) .zero 0 with go := true }, .ldg k (mo .b64 .glob (.x 1) (.x 2) .zero 0), .ldg k (mo .b32 .glob .none (.x 2) .zero 0),
   -- orders and scopes: a load that releases, a private access with a scope, SC at domain scope, .remote without an acquire
   .ldg k { mo .b32 .glob (.x 0) (.x 2) .zero 0 with order := .rel }, .ldp k { mo .b32 .priv (.x 0) (.x 2) .zero 0 with scope := .wg },
   .ldg k { mo .b32 .glob (.x 0) (.x 2) .zero 0 with order := .sc, scope := .dom }, .stg k { mo .b32 .glob .none (.x 2) (.x 0) 0 with remote := true },
   .stg k (mo .i8 .glob .none (.x 2) (.x 0) 0), .sts k (mo .b32 .smem (.x 1) (.x 2) (.x 0) 0), .stp k { mo .b32 .priv .none (.x 2) (.x 0) 0 with order := .rel },
   .stc k (mo .b32 .smem .none (.x 2) (.x 0) 0), .std k (mo .b32 .dmem .none .zero (.x 0) 0), .ldc k (mo .b32 .cmem (.x 0) .zero .zero 0),
   .ldd k { mo .b32 .dmem (.x 0) (.x 2) .zero 0 with order := .ar }, .cstore k (mo .n8 .glob (.x 0) (.x 2) (.x 4) 0), .cstore k (mo .b32 .priv (.x 0) (.x 2) (.x 4) 0),
   .xload k (mo .b32 .glob (.x 0) (.x 2) (.x 4) 0), .xload k { mo .b32 .glob (.x 0) (.x 2) .zero 0 with go := true },
   .atom k .fadd { mo .n8 .glob (.x 0) (.x 2) (.x 4) 0 with ty := .f32 }, .atom k .add { mo .n8 .glob (.x 0) (.x 2) (.x 4) 0 with ty := .b32 },
   .atom k .inc { mo .n8 .glob (.x 0) (.x 2) (.x 4) 0 with ty := .i32 }, .atom k .add { mo .n8 .smem (.x 0) (.x 2) (.x 4) 0 with ty := .i32, go := true },
   .atomf k .add { mo .n8 .glob (.x 0) (.x 2) (.x 4) 0 with ty := .i32 }, .red k .exch { mo .n8 .glob .none (.x 2) (.x 4) 0 with ty := .b32 },
   .red k .add { mo .n8 .glob (.x 0) (.x 2) (.x 4) 0 with ty := .i32 }, .cas k (mo .b32 .glob (.x 0) (.x 2) (.x 5) 0), .cas k (mo .b64 .glob (.x 0) (.x 2) (.x 6) 0),
   .fence k { mo .n8 .glob .none .zero .zero 0 with order := .rlx }, .fence k { mo .n8 .glob .none .zero .zero 4 with order := .acq },
   .pref k true (mo .n8 .glob .none .zero .zero 0), .pref (kt 1) true (mo .n8 .glob .none (.x 2) .zero 0), .cctlWb k (mo .n8 .glob .none (.x 1) .zero 0),
   .cctlInv k { mo .n8 .glob .none (.x 2) .zero 0 with order := .acq }, .cctlWbinv k (mo .n8 .smem .none (.x 2) .zero 0), .seal k (mo .n8 .glob (.x 0) (.x 3) (.x 4) 0),
   .unseal k (mo .n8 .glob (.x 0) (.x 3) (.x 4) 0)]
theorem test_illFormed_class3 : (bad3.all fun i => !i.wf) = true := by decide

def tile (q slot tw base : Nat) (d : Dst) (a b : Src) : TileOps := ⟨q, slot, false, tw, base, d, a, b, 0, 0⟩
def acc (q a base : Nat) (d : Dst) (x y : Src) : AccOps := ⟨q, a, false, d, x, y, base, 0⟩
def mm (shape : Shape) (qmask : Nat) (elems hdrs : Src) : MmaOps := ⟨shape, 0, false, 0, qmask, 0, 0, 0, elems, hdrs⟩
def bad4 : List Instr :=
  [.amodeSto k 0, .amodeMul k 16, .acal k 0, .awr k (tile 4 0 0 0 .none (.x 0) .zero), .awr k (tile 0 3 0 0 .none (.x 0) .zero),
   .awr k (tile 0 0 3 0 .none (.x 0) .zero), .awr k (tile 0 0 0 256 .none (.x 0) .zero), .awr k (tile 0 0 0 0 (.x 1) (.x 0) .zero),
   .ald k (tile 0 1 0 0 .none (.x 0) (.x 2)), .ald k (tile 0 0 0 0 .none (.x 1) (.x 2)), .ald k (tile 0 0 0 0 .none (.x 0) .zero),
   .ard k (acc 0 1 0 (.x 0) (.x 10) .zero), .ard k (acc 0 0 0 (.x 120) (.x 10) .zero), .mconv k 8 64 64 64 0, .mconv k 0 64 64 64 1,
   .mconv k 0 64 64 65 0, .mma k (mm .ind 0 (.x 0) (.x 2)), .mma k (mm .w4 1 (.x 0) (.x 2)), .mma k (mm .d4 15 (.x 121) (.x 2)),
   .mma k (mm .ind 1 (.s 0) (.x 2)), .mma k (mm .ind 1 (.x 0) (.s 2)), .mma k { mm .ind 1 (.x 0) (.x 2) with rep := 5 },
   .mma k { mm .ind 1 (.x 0) (.x 2) with sw := 3 }, .mma k { mm .ind 1 (.x 0) (.x 2) with kreg := 8 }, .mma k { mm .ind 1 (.x 0) (.x 2) with acc := 8 },
   .mzero k 0 0, .mzero k 1 8, .mdrain k (acc 0 0 0 .none (.x 0) .zero), .mdrain k (acc 0 0 255 (.x 1) (.x 0) .zero), .macc k (acc 0 0 255 (.x 2) (.x 0) .zero),
   .macc k (acc 0 8 255 (.x 4) (.x 0) .zero), .macc k { acc 0 0 255 (.x 4) (.x 0) .zero with clr := true }, .mcks k (acc 0 0 255 .none .zero .zero),
   .mfix k (acc 0 0 255 (.x 0) (.x 1) .zero), .mloc k (acc 0 0 255 (.x 1) .zero .zero), .mretry k 5 (acc 0 0 255 (.x 0) .zero .zero),
   .ainfo k 4 (acc 0 0 0 (.x 0) .zero .zero), .ainfo k 0 (acc 0 1 0 (.x 0) .zero .zero)]
theorem test_illFormed_class4 : (bad4.all fun i => !i.wf) = true := by decide

def cp (st dt bar : Nat) (d : Dst) (b : Src) : CopyOps := ⟨.dev, st, dt, false, false, bar, d, b⟩
def nm (op : RmwOp) (ty : Ty) (d : Dst) (base b c : Src) : NmuOps := ⟨op, ty, d, base, b, c, 0⟩
def bad5 : List Instr :=
  [.bcopy k (cp 4 0 0 .none (.x 0)), .bcopy k (cp 0 0 3 .none (.x 0)), .bcopy k { cp 0 0 0 .none (.x 0) with dir := true }, .bcopy k (cp 0 0 0 .none (.x 1)),
   .bcopy k (cp 0 0 0 (.x 1) (.x 0)), .bcopy k (cp 0 0 0 .none (.x 124)), .bcopym k (cp 0 0 0 .none (.x 0)), .bcopym k (cp 1 1 0 .none (.x 0)),
   .bcopym k { cp 1 0 0 .none (.x 0) with dir := true, edge := true }, .bcopym k (cp 1 0 0 .none (.x 2)), .nma k (nm .exch .b32 .none (.x 0) (.x 2) .zero),
   .nma k (nm .add .i32 (.x 4) (.x 0) (.x 2) .zero), .nma (kt 1) (nm .add .i32 .none (.x 0) (.x 2) .zero), .nmar k (nm .inc .n32 (.x 4) (.x 0) (.x 2) .zero),
   .nmar k (nm .cas .b32 (.x 4) (.x 0) (.x 3) .zero), .bdot k (nm .add .i32 (.x 4) (.x 0) (.x 2) (.x 6)), .bdot k (nm .add .f32 (.x 5) (.x 0) (.x 2) (.x 6)),
   .gred k (nm .add .i64 (.x 4) (.x 0) .zero .zero), .gred k (nm .add .i32 (.x 5) (.x 0) .zero .zero), .migset k 0x000000000C81, .migset k 0x000000000001,
   .migset k 0x000000103104, .migto k ⟨false, .none, .x 1, 0⟩, .migto k ⟨true, .x 0, .x 1, 0⟩, .migq k ⟨true, .none, .x 1, 0⟩,
   .wpre k { tile 0 1 0 0 .none (.x 0) .zero with bar := 0 }, .wpre k { tile 0 0 0 0 .none (.x 0) .zero with bar := 3 }, .wpre k (tile 0 0 0 0 .none (.x 126) .zero)]
theorem test_illFormed_class5 : (bad5.all fun i => !i.wf) = true := by decide

def bad6 : List Instr :=
  [.trap k 65536, .brk k 65536, .halt k 65536, .tret (kt 1) false, .sysr k .none 0, .sysr k (.x 0) 65536, .sysw k (.imm 0) 0, .cntr k (.x 1) 0, .cntr k (.x 0) 32,
   .tlbiVa k (.x 1) (.x 2), .tlbiAsid k .zero, .dbgr k ⟨.x 1, .x 2, .zero, 0⟩, .dbgr k ⟨.x 0, .x 2, .x 3, 0⟩, .dbgw k ⟨.x 0, .x 2, .imm 1, 0⟩,
   .dbgw k ⟨.x 0, .x 2, .x 3, 1⟩]
theorem test_illFormed_class6 : (bad6.all fun i => !i.wf) = true := by decide

end Sys2Proof.Tests
end

