-- ==== Sys2Proof/Tests/Words.lean ====
section
/-! SUPPORT. Tests of the decoder: one word for every constructor that a word stands for, its fields written out from the opcode map (R51 to
R57) and the operand tables (R92, R102, R227, R231, R236, R238, R242 to R246, R146, R155, R256, R263, R272, R276 to R279, R303, R360, R425), and
the words that the spec prints beside statements. -/

-- one theorem is elaborated after another: waiting threads hold memory
set_option Elab.async false

namespace Sys2Proof.Tests

open Sys2Proof.Machine

/-- A word by its fields (R28), with no guard (G 31, N 0), E 0 and D 0. -/
def word (op fn t dst sa sb sc mod imm : Nat) : Nat :=
  op * 2 ^ 88 + fn * 2 ^ 84 + 31 * 2 ^ 77 + t * 2 ^ 72 + dst * 2 ^ 64 + sa * 2 ^ 56 + sb * 2 ^ 48 + sc * 2 ^ 40 + mod * 2 ^ 32 + imm
/-- Whether every word decodes to the instruction beside it. -/
def decodes (l : List (Nat × Instr)) : Bool := l.all fun x => decodeTableWord 96 x.1 == some x.2

/-! Class 0 (R51, R92): type codes .i32 2, .n32 6, .b32 8, .b64 9 in MOD[3:0]; MOD[7] puts IMM in the place of source B. -/

def words_class0_arithmetic : List (Nat × Instr) :=
  [(word 0x01 0 0 8 9 10 0xFF 0x02 0, .iadd k (u .i32 (.x 8) (.x 9) (.x 10) .zero)),
   (word 0x02 0 0 8 9 0xFF 0xFF 0xC2 5, .isub k { u .i32 (.x 8) (.x 9) (.imm 5) .zero with sat := true }),
   (word 0x03 0 0 8 9 10 0xFF 0x02 0, .imul k (u .i32 (.x 8) (.x 9) (.x 10) .zero)),
   (word 0x03 1 0 8 9 10 0xFF 0x02 0, .imulHi k (u .i32 (.x 8) (.x 9) (.x 10) .zero)),
   (word 0x03 2 0 8 9 10 0xFF 0x06 0, .imulHi k (u .n32 (.x 8) (.x 9) (.x 10) .zero)),
   (word 0x04 0 0 8 9 10 11 0x02 0, .imad k (u .i32 (.x 8) (.x 9) (.x 10) (.x 11))),
   (word 0x04 1 0 8 9 10 12 0x06 0, .imadWide k (u .n32 (.x 8) (.x 9) (.x 10) (.x 12))),
   (word 0x05 0 0 8 9 10 0xFF 0x00 0, .imin k (u .i8 (.x 8) (.x 9) (.x 10) .zero)),
   (word 0x05 1 0 8 9 10 0xFF 0x05 0, .imax k (u .n16 (.x 8) (.x 9) (.x 10) .zero)),
   (word 0x06 0 0 8 9 0xFF 0xFF 0x02 0, .iabs k (u .i32 (.x 8) (.x 9) .zero .zero)),
   (word 0x06 1 0 8 10 0xFF 0xFF 0x43 0, .ineg k { u .i64 (.x 8) (.x 10) .zero .zero with sat := true }),
   (word 0x07 0 0 8 9 10 0xFF 0x08 0, .and k (u .b32 (.x 8) (.x 9) (.x 10) .zero)),
   (word 0x07 1 0 8 10 12 0xFF 0x09 0, .or k (u .b64 (.x 8) (.x 10) (.x 12) .zero)),
   (word 0x07 2 0 0x83 0x84 0xC0 0xFF 0x08 0, .xor k (u .b32 (.s 3) (.s 4) (.sr .lane) .zero)),
   (word 0x07 3 0 8 9 10 0xFF 0x08 0, .andn k (u .b32 (.x 8) (.x 9) (.x 10) .zero)),
   (word 0x07 4 0 8 9 10 0xFF 0x08 0, .orn k (u .b32 (.x 8) (.x 9) (.x 10) .zero)),
   (word 0x07 5 0 8 9 0xFF 0xFF 0x08 0, .not k (u .b32 (.x 8) (.x 9) .zero .zero)),
   (word 0x08 0 0 8 9 0xFF 0xFF 0x88 4, .shl k (u .b32 (.x 8) (.x 9) (.imm 4) .zero)),
   (word 0x09 0 0 8 10 12 0xFF 0x09 0, .shr k (u .b64 (.x 8) (.x 10) (.x 12) .zero))]
theorem test_words_class0_arithmetic : decodes words_class0_arithmetic = true := by decide

def words_class0_others : List (Nat × Instr) :=
  [(word 0x0A 0 0 8 9 10 0xFF 0x02 0, .sar k (u .i32 (.x 8) (.x 9) (.x 10) .zero)),
   (word 0x0B 0 0 8 9 10 0xFF 0x08 0, .rol k (u .b32 (.x 8) (.x 9) (.x 10) .zero)),
   (word 0x0B 1 0 8 9 10 0xFF 0x08 0, .ror k (u .b32 (.x 8) (.x 9) (.x 10) .zero)),
   (word 0x0C 0 0 8 9 10 0xFF 0x06 0, .bfx k (u .n32 (.x 8) (.x 9) (.x 10) .zero)),
   (word 0x0C 1 0 8 9 10 0xFF 0x02 0, .bfx k (u .i32 (.x 8) (.x 9) (.x 10) .zero)),
   (word 0x0D 0 0 8 9 10 11 0x08 0, .bfi k (u .b32 (.x 8) (.x 9) (.x 10) (.x 11))),
   (word 0x0E 0 0 8 10 0xFF 0xFF 0x09 0, .popc k (u .b64 (.x 8) (.x 10) .zero .zero)),
   (word 0x0F 0 0 8 9 0xFF 0xFF 0x08 0, .clz k (u .b32 (.x 8) (.x 9) .zero .zero)),
   (word 0x0F 1 0 8 9 0xFF 0xFF 0x08 0, .ctz k (u .b32 (.x 8) (.x 9) .zero .zero)),
   (word 0x10 0 0 8 9 0xFF 0xFF 0x08 0, .brev k (u .b32 (.x 8) (.x 9) .zero .zero)),
   (word 0x11 0 0 8 9 0xFF 11 0x88 0x3210, .prmt k (u .b32 (.x 8) (.x 9) (.imm 0x3210) (.x 11))),
   (word 0x12 2 0 0xE2 8 9 0xFF 0x02 0, .icmp k .lt (u .i32 (.p 2) (.x 8) (.x 9) .zero)),
   (word 0x13 0 0 8 9 10 0xE5 0x08 0, .isel k (u .b32 (.x 8) (.x 9) (.x 10) (.p 5))),
   (word 0x14 0 0 8 0xFF 0xCF 0xFF 0x08 0, .mov k (u .b32 (.x 8) .zero (.sr .hop) .zero)),
   (word 0x15 0 0 8 0xFF 0xFF 0xFF 0x09 0xDEADBEEF, .movi k 0xDEADBEEF (u .b64 (.x 8) .zero .zero .zero)),
   (word 0x16 0 0 8 10 9 3 0x06 0, .lea k 3 (u .n32 (.x 8) (.x 10) (.x 9) .zero)),
   (word 0x17 3 0 0xE0 0xE1 0xE2 0xFF 0x08 0, .plog k .andn (u .b32 (.p 0) (.p 1) (.p 2) .zero)),
   (word 0x18 0 0 9 0xE4 0xFF 0xFF 0x08 8, .pmovPack k 8 (u .b32 (.x 9) (.p 4) .zero .zero)),
   (word 0x18 1 0 0xE4 9 0xFF 0xFF 0x08 3, .pmovUnpack k 3 (u .b32 (.p 4) (.x 9) .zero .zero))]
theorem test_words_class0_others : decodes words_class0_others = true := by decide

/-! Class 1 (R52, R102): FN[3] is .ftz; .f32 0xA, .f16 0xB, .bf16 0xC, .e4m3 0xD in MOD[3:0], rounding in MOD[5:4]. -/

def words_class1 : List (Nat × Instr) :=
  [(word 0x20 0 0 8 9 10 0xFF 0x0A 0, .fadd k (u .f32 (.x 8) (.x 9) (.x 10) .zero)),
   (word 0x20 9 0 8 9 10 0xFF 0x1A 0, .fsub k { u .f32 (.x 8) (.x 9) (.x 10) .zero with rnd := .rz, ftz := true }),
   (word 0x21 0 0 8 9 0xFF 0xFF 0xCA 0x40000000, .fmul k { u .f32 (.x 8) (.x 9) (.imm 0x40000000) .zero with sat := true }),
   (word 0x22 0 0 8 9 10 11 0x3A 0, .fma k { u .f32 (.x 8) (.x 9) (.x 10) (.x 11) with rnd := .rup }),
   (word 0x23 0 0 8 9 10 0xFF 0x0A 0, .fmin k (u .f32 (.x 8) (.x 9) (.x 10) .zero)),
   (word 0x23 1 0 8 9 10 0xFF 0x0A 0, .fmax k (u .f32 (.x 8) (.x 9) (.x 10) .zero)),
   (word 0x24 7 0 0xE0 9 10 0xFF 0x0A 0, .fcmp k .unord (u .f32 (.p 0) (.x 9) (.x 10) .zero)),
   (word 0x25 0 0 8 9 0xFF 0xFF 0x2A 0, .frnd k { u .f32 (.x 8) (.x 9) .zero .zero with rnd := .rdn }),
   (word 0x26 0 1 8 9 0xFF 0xFF 0x0A 0, .frcp (kt 1) (u .f32 (.x 8) (.x 9) .zero .zero)),
   (word 0x27 0 1 8 9 0xFF 0xFF 0x0A 0, .frsq (kt 1) (u .f32 (.x 8) (.x 9) .zero .zero)),
   (word 0x28 0 1 8 9 0xFF 0xFF 0x1A 0, .fsqrt (kt 1) { u .f32 (.x 8) (.x 9) .zero .zero with rnd := .rz }),
   (word 0x29 8 1 8 9 0xFF 0xFF 0x0A 0, .fexp2 (kt 1) { u .f32 (.x 8) (.x 9) .zero .zero with ftz := true }),
   (word 0x2A 0 1 8 9 0xFF 0xFF 0x0A 0, .flog2 (kt 1) (u .f32 (.x 8) (.x 9) .zero .zero)),
   (word 0x2B 0 1 8 9 0xFF 0xFF 0x0A 0, .fsin (kt 1) (u .f32 (.x 8) (.x 9) .zero .zero)),
   (word 0x2B 1 1 8 9 0xFF 0xFF 0x0A 0, .fcos (kt 1) (u .f32 (.x 8) (.x 9) .zero .zero)),
   (word 0x2C 0 1 8 9 0xFF 0xFF 0x0A 0, .ftanh (kt 1) (u .f32 (.x 8) (.x 9) .zero .zero)),
   (word 0x2D 0 1 8 9 0xFF 0xFF 0x0A 0, .fsigm (kt 1) (u .f32 (.x 8) (.x 9) .zero .zero)),
   (word 0x2E 0 0 8 9 0xFF 0xFF 0x0C 0, .fclass k (u .bf16 (.x 8) (.x 9) .zero .zero)),
   (word 0x2F 0 0 8 9 0xFF 0xFF 0x8A 3, .fscale k (u .f32 (.x 8) (.x 9) (.imm 3) .zero)),
   (word 0x30 0 0 4 6 0xFF 0x0A 0x5D 0, .cvt k .f32 { u .e4m3 (.x 4) (.x 6) .zero .zero with rnd := .rz, sat := true }),
   (word 0x31 0 0 8 9 0xFF 0x0B 0x02 0, .cvti k .f16 (u .i32 (.x 8) (.x 9) .zero .zero)),
   (word 0x31 1 0 8 10 0xFF 0x07 0x0A 0, .cvtf k .n64 (u .f32 (.x 8) (.x 10) .zero .zero)),
   (word 0x32 0 0 8 9 10 0xFF 0x0B 0, .hadd2 k (u .f16 (.x 8) (.x 9) (.x 10) .zero)),
   (word 0x32 1 0 8 9 10 0xFF 0x0C 0, .hmul2 k (u .bf16 (.x 8) (.x 9) (.x 10) .zero)),
   (word 0x32 2 0 8 9 10 11 0x0B 0, .hfma2 k (u .f16 (.x 8) (.x 9) (.x 10) (.x 11))),
   (word 0x33 0 0 8 9 10 11 0x40 0, .dot4 k { u .i8 (.x 8) (.x 9) (.x 10) (.x 11) with sat := true }),
   (word 0x34 0 3 20 12 0x04 0xFF 0x0A 0, .mxpack (kt 3) 4 (u .f32 (.x 20) (.x 12) .zero .zero)),
   (word 0x35 0 4 24 20 21 0xFF 0x0A 0, .mxunpk (kt 4) (u .f32 (.x 24) (.x 20) (.x 21) .zero))]
theorem test_words_class1 : decodes words_class1 = true := by decide

/-! Class 2 (R53, R303, R256). -/

def words_class2 : List (Nat × Instr) :=
  [(word 0x40 0 0 0xFF 0xFF 0xFF 0xFF 0 0, .nop k), (word 0x41 0 0 0xFF 0xFF 0xFF 0xFF 0 255, .dly k 255),
   (word 0x42 0 0 0xFF 0xFF 0xFF 0xFF 0 0xFFFFFFF4, .bra k 0xFFFFFFF4), (word 0x43 0 0 0xFF 6 0xFF 0xFF 0 0, .brx k (.x 6)),
   (word 0x44 0 0 0xFF 0xFF 0xFF 0xFF 0 0x40, .call k 0x40), (word 0x44 1 0 0xFF 6 0xFF 0xFF 0 0, .callReg k (.x 6)),
   (word 0x45 0 0 0xFF 0xFF 0xFF 0xFF 0 0, .ret k), (word 0x46 0 0 0xFF 0xFF 0xFF 0xFF 0 0, .exit k),
   (word 0x47 0 0 0xFF 0xFF 0xFF 0xFF 0 (3 + 16 * 5), .twait k 3 5), (word 0x48 0 0 0xFF 0xFF 0xFF 0xFF 0 0, .yield k),
   (word 0x49 0 0 0xFF 0xFF 0xFF 0xFF 0 500, .sleep k 500), (word 0x4A 0 0 0xFF 0xFF 0xFF 0xFF 0 2, .join k 2),
   (word 0x4B 0 0 0xFF 0xFF 0xFF 0xFF 0 11, .leave k 11), (word 0x4C 0 0 0xFF 0xFF 0xFF 0xFF 0 0, .mwait k 0),
   (word 0x4D 0 0 10 0xFF 0xFF 0xFF 0 2, .maskRd k (.x 10) 2), (word 0x4D 1 0 0xE4 0xFF 0xFF 0xFF 0 2, .maskTst k (.p 4) 2),
   (word 0x4E 0 0 10 8 0xFF 0xFF 0 0, .ballot k (.x 10) (.x 8)), (word 0x4F 3 0 11 8 0xFF 0xFF 0 0, .vote k .cnt (.x 11) (.x 8)),
   (word 0x50 2 0 9 8 0xFF 0xFF 0x82 1, .shfl k .rotd 2 (.x 9) (.x 8) (.imm 1)), (word 0x51 0 0 0xFF 0xFF 0xFF 0xFF 0 15, .bar k 15),
   (word 0x52 0 0 0xFF 0xFF 0xFF 0xFF 0 1, .cbar k 1), (word 0x53 0 0 0xFF 0x82 0x83 0xFF 0 0, .binit k ⟨false, .s 2, .s 3, 0⟩),
   (word 0x54 0 0 0xFF 4 0xFF 0xFF 1 16, .barrive k ⟨true, .x 4, .zero, 16⟩), (word 0x54 1 0 0xFF 4 7 0xFF 1 16, .barriveTx k ⟨true, .x 4, .x 7, 16⟩),
   (word 0x55 0 0 0xFF 0x82 9 0xFF 0 0, .bwait k ⟨false, .s 2, .x 9, 0⟩), (word 0x56 0 0 0xFF 0x82 0xFF 0xFF 0 0, .binval k ⟨false, .s 2, .zero, 0⟩),
   (word 0x57 0 1 0xFF 4 10 0xFF 1 0, .qsend (kt 1) ⟨true, .x 4, .x 10, 0⟩), (word 0x58 0 5 12 0x82 0xFF 0xFF 0 0, .qrecv (kt 5) (.x 12) (.s 2) 0),
   (word 0x59 0 6 5 0x84 0xFF 0xFF 0x80 7, .launch (kt 6) (.x 5) (.s 4) (.imm 7))]
theorem test_words_class2 : decodes words_class2 = true := by decide

/-! Class 3 (R54, R226, R227): width in FN; SCOPE in MOD[6:4], ORDER in MOD[3:1], GO in MOD[0]; TIER, REMOTE and TYPE in SC. -/

def words_class3 : List (Nat × Instr) :=
  [(word 0x60 1 1 8 3 0xFF 0 0 6, .ldp (kt 1) (mo .i8 .priv (.x 8) (.x 3) .zero 6)), (word 0x62 2 1 8 3 0xFF 0 0x10 6, .lds (kt 1) { mo .n16 .smem (.x 8) (.x 3) .zero 6 with scope := .wg }),
   (word 0x64 4 1 8 3 0xFF 0 0x21 0, .ldc (kt 1) { mo .b32 .cmem (.x 8) (.x 3) .zero 0 with scope := .cl, go := true }),
   (word 0x66 3 1 8 3 0xFF 0 0x32 0, .ldd (kt 1) { mo .i16 .dmem (.x 8) (.x 3) .zero 0 with scope := .die, order := .acq }),
   (word 0x68 5 1 8 2 0xFF 0 0x40 0xFFFFFFF8, .ldg (kt 1) { mo .b64 .glob (.x 8) (.x 2) .zero 0xFFFFFFF8 with scope := .dev }),
   (word 0x61 0 1 0xFF 3 4 0 0 0, .stp (kt 1) (mo .n8 .priv .none (.x 3) (.x 4) 0)), (word 0x63 2 1 0xFF 3 4 0 0 0, .sts (kt 1) (mo .n16 .smem .none (.x 3) (.x 4) 0)),
   (word 0x65 4 1 0xFF 3 4 0 0 0, .stc (kt 1) (mo .b32 .cmem .none (.x 3) (.x 4) 0)), (word 0x67 5 1 0xFF 3 4 0 0 0, .std (kt 1) (mo .b64 .dmem .none (.x 3) (.x 4) 0)),
   (word 0x69 4 1 0xFF 2 4 0x10 0x48 0, .stg (kt 1) { mo .b32 .glob .none (.x 2) (.x 4) 0 with scope := .dev, order := .sc, remote := true }),
   (word 0x6A 4 1 20 0x84 12 0 0 0, .cstore (kt 1) (mo .b32 .glob (.x 20) (.s 4) (.x 12) 0)), (word 0x6B 5 1 8 3 0xFF 0x20 0 0, .xload (kt 1) (mo .b64 .smem (.x 8) (.x 3) .zero 0)),
   (word 0x6C 6 1 9 3 4 0x28 0 0, .atom (kt 1) .exch { mo .n8 .smem (.x 9) (.x 3) (.x 4) 0 with ty := .b32 }),
   (word 0x6D 1 1 9 2 4 0x0A 0 0, .atomf (kt 1) .fmin { mo .n8 .glob (.x 9) (.x 2) (.x 4) 0 with ty := .f32 }),
   (word 0x6E 10 1 0xFF 3 4 0x6A 0 0, .red (kt 1) .fmax { mo .n8 .dmem .none (.x 3) (.x 4) 0 with ty := .f32 }),
   (word 0x6F 5 1 12 3 16 0x40 0x06 8, .cas (kt 1) { mo .b64 .cmem (.x 12) (.x 3) (.x 16) 8 with order := .ar }),
   (word 0x70 0 1 0xFF 0xFF 0xFF 0 0x42 0, .fence (kt 1) { mo .n8 .glob .none .zero .zero 0 with scope := .dev, order := .acq }),
   (word 0x71 1 0 0xFF 2 0xFF 0xFF 0 64, .pref k true (mo .n8 .glob .none (.x 2) .zero 64)),
   (word 0x72 0 1 0xFF 2 0xFF 0xFF 0x10 0, .cctlWb (kt 1) { mo .n8 .glob .none (.x 2) .zero 0 with scope := .wg }),
   (word 0x72 1 1 0xFF 2 0xFF 0xFF 0 0, .cctlInv (kt 1) (mo .n8 .glob .none (.x 2) .zero 0)), (word 0x72 2 1 0xFF 2 0xFF 0xFF 0 0, .cctlWbinv (kt 1) (mo .n8 .glob .none (.x 2) .zero 0)),
   (word 0x73 0 1 5 0x88 9 0xFF 0 0, .seal (kt 1) (mo .n8 .glob (.x 5) (.s 8) (.x 9) 0)), (word 0x74 0 1 5 0x88 9 0xFF 0 0, .unseal (kt 1) (mo .n8 .glob (.x 5) (.s 8) (.x 9) 0))]
theorem test_words_class3 : decodes words_class3 = true := by decide

/-! Class 4 (R55, R146, R155). -/

def words_class4 : List (Nat × Instr) :=
  [(word 0x80 0 1 0xFF 0xFF 0xFF 0xFF 0 5, .amodeSto (kt 1) 5), (word 0x80 1 1 0xFF 0xFF 0xFF 0xFF 0 15, .amodeMul (kt 1) 15),
   (word 0x81 0 1 0xFF 0xFF 0xFF 0xFF 0 8, .acal (kt 1) 8), (word 0x82 0 1 0xFF 3 0xFF 64 (2 * 32 + 1 * 8 + 4 + 2) 16, .awr (kt 1) { tile 2 1 2 64 .none (.x 3) .zero with dense := true, off := 16 }),
   (word 0x83 0 1 0xFF 4 6 0 (1 * 32 + 1) 0, .ald (kt 1) (tile 1 0 1 0 .none (.x 4) (.x 6))), (word 0x84 0 1 20 6 0xFF 32 (3 * 32) 0, .ard (kt 1) (acc 3 0 32 (.x 20) (.x 6) .zero)),
   (word 0x85 0 0 0xFF 0xFF 0xFF 0xFF 0 (3 * 2 ^ 28 + 7 * 2 ^ 21 + 0x40 * 2 ^ 14 + 5 * 2 ^ 7 + 4), .mconv k 3 7 64 5 4),
   (word 0x86 2 1 0xFF 16 40 32 (4 * 16 + 8 + 1) (15 * 64 + 5 * 8 + 6), .mma (kt 1) ⟨.sq, 4, true, 1, 15, 5, 6, 32, .x 16, .x 40⟩),
   (word 0x87 0 1 0xFF 0xFF 0xFF 0xFF 0 (3 + 16 * 7), .mzero (kt 1) 3 7), (word 0x88 0 1 0xFF 3 0xFF 0xFF (1 * 32 + 2 * 4 + 2) 0, .mdrain (kt 1) { acc 1 2 255 .none (.x 3) .zero with clr := true }),
   (word 0x89 0 1 24 12 0xFF 0xFF (1 * 32 + 2 * 4) 0, .macc (kt 1) (acc 1 2 255 (.x 24) (.x 12) .zero)), (word 0x8A 0 1 9 0xFF 0xFF 0xFF (7 * 4) 0, .mcks (kt 1) (acc 0 7 255 (.x 9) .zero .zero)),
   (word 0x8B 0 1 10 0xFF 0xFF 0xFF (7 * 4) 0, .mloc (kt 1) (acc 0 7 255 (.x 10) .zero .zero)), (word 0x8C 0 1 9 0xFF 0xFF 0xFF (2 * 32) 0, .mfix (kt 1) (acc 2 0 255 (.x 9) .zero .zero)),
   (word 0x8D 0 1 9 0xFF 0xFF 0xFF (2 * 32) 3, .mretry (kt 1) 3 (acc 2 0 255 (.x 9) .zero .zero)), (word 0x8E 0 1 9 0xFF 0xFF 0xFF (2 * 32) (2 + 256 * 40), .ainfo (kt 1) 2 (acc 2 0 40 (.x 9) .zero .zero))]
theorem test_words_class4 : decodes words_class4 = true := by decide

/-! Class 5 (R56, R263, R271, R272, R276 to R279, R360, R361). -/

def words_class5 : List (Nat × Instr) :=
  [(word 0xA0 0 1 30 16 0xFF 0xFF (4 * 16 + 1) 1, .bcopy (kt 1) (cp 0 1 1 (.x 30) (.x 16))), (word 0xA1 0 1 30 24 0xFF 0xFF (4 * 16 + 1 * 4 + 1) 2, .bcopym (kt 1) { cp 1 0 2 (.x 30) (.x 24) with edge := true }),
   (word 0xA2 0 1 0xFF 0xFF 0xFF 0xFF 0 0, .broom (kt 1)), (word 0xA3 8 0 0xFF 2 4 0xFF 0x0A 0, .nma k (nm .fadd .f32 .none (.x 2) (.x 4) .zero)),
   (word 0xA4 7 1 8 2 16 0xFF 0x09 4, .nmar (kt 1) { nm .cas .b64 (.x 8) (.x 2) (.x 16) .zero with off := 4 }), (word 0xA5 0 1 20 2 4 6 0x0B 0, .bdot (kt 1) (nm .add .f16 (.x 20) (.x 2) (.x 4) (.x 6))),
   (word 0xA6 2 1 20 2 0xFF 0xFF 0x06 0, .gred (kt 1) (nm .max .n32 (.x 20) (.x 2) .zero .zero)), (word 0xA7 0 0 0xFF 0xFF 0x00 0x00 0 0x00108104, .migset k 0x000000108104),
   (word 0xA8 0 0 0xFF 4 0xFF 0xFF 0 8, .migto k ⟨false, .none, .x 4, 8⟩), (word 0xA9 0 0 0xFF 0xFF 0xFF 0xFF 0 0, .migret k),
   (word 0xAA 0 3 10 6 0xFF 0xFF 1 0, .migq (kt 3) ⟨true, .x 10, .x 6, 0⟩), (word 0xAB 0 1 30 24 0xFF 64 (1 * 32 + 4 + 1) 1, .wpre (kt 1) { tile 1 0 1 64 (.x 30) (.x 24) .zero with dense := true, bar := 1 })]
theorem test_words_class5 : decodes words_class5 = true := by decide

/-! Class 6 (R57, R425). -/

def words_class6 : List (Nat × Instr) :=
  [(word 0xC0 0 0 0xFF 0xFF 0xFF 0xFF 0 0x12, .trap k 0x12), (word 0xC1 0 0 0xFF 0xFF 0xFF 0xFF 0 0, .tret k false), (word 0xC2 0 1 5 0xFF 0xFF 0xFF 0 0x102, .sysr (kt 1) (.x 5) 0x102),
   (word 0xC3 0 1 0xFF 0x88 0xFF 0xFF 0 0x100, .sysw (kt 1) (.s 8) 0x100), (word 0xC4 0 3 10 0xFF 0xFF 0xFF 0 14, .cntr (kt 3) (.x 10) 14), (word 0xC5 0 0 0xFF 0xFF 0xFF 0xFF 0 7, .brk k 7),
   (word 0xC6 0 0 0xFF 0xFF 0xFF 0xFF 0 0x51, .halt k 0x51), (word 0xC7 0 1 0xFF 4 0x86 0xFF 0 0, .tlbiVa (kt 1) (.x 4) (.s 6)), (word 0xC7 1 1 0xFF 0xFF 0x86 0xFF 0 0, .tlbiAsid (kt 1) (.s 6)),
   (word 0xC9 0 2 20 6 0xFF 0xFF 0 0, .dbgr (kt 2) ⟨.x 20, .x 6, .zero, 0⟩), (word 0xC8 0 2 22 6 7 0xFF 0 0, .dbgw (kt 2) ⟨.x 22, .x 6, .x 7, 0⟩)]
theorem test_words_class6 : decodes words_class6 = true := by decide

/-! Words that the spec prints beside statements (spec/02, 04, 06, 09, 10, 12, 14, 17, 19, 20). -/

def ke : Ctl := { k with e := true }
theorem test_words_printed : decodes
  [-- the worked line: step: IADD.i32 x8, x8, 1; @!p3 FADD.rz.f32; ICMP.lt.i32; FMUL.f32; IADD.i32 x9, x9, x8 :: end
   (0x0103E00808FFFF8200000001, .iadd k (u .i32 (.x 8) (.x 8) (.imm 1) .zero)),
   (0x2000700A0406FF1A00000000, .fadd { k with guard := some ⟨3, true⟩ } { u .f32 (.x 10) (.x 4) (.x 6) .zero with rnd := .rz }),
   (0x1223E0E20809FF0200000000, .icmp k .lt (u .i32 (.p 2) (.x 8) (.x 9) .zero)), (0x2103E00B0406FF0A00000000, .fmul k (u .f32 (.x 11) (.x 4) (.x 6) .zero)),
   (0x010BE0090908FF0200000000, .iadd ke (u .i32 (.x 9) (.x 9) (.x 8) .zero)),
   -- MXPACK.e4m3.sat x20, x12 :: t3; MXUNPK.f32 x24, x20, x21 :: t4
   (0x3403E3140C00FF4A00000000, .mxpack (kt 3) 0 { u .f32 (.x 20) (.x 12) .zero .zero with sat := true }), (0x3503E4181415FF0A00000000, .mxunpk (kt 4) (u .f32 (.x 24) (.x 20) (.x 21) .zero)),
   -- LDG.b32.acq.dev.remote x8, [x2+16] :: t5; STG.b32.rel.wg [x6+0], x4; ATOM.add.n32.gmem x9, [x2+0], x4 :: t3; CAS.b64.smem.ar.wg; FENCE.sc.dev :: t1
   (0x6843E50802FF104200000010, .ldg (kt 5) { mo .b32 .glob (.x 8) (.x 2) .zero 16 with scope := .dev, order := .acq, remote := true }),
   (0x6943E0FF0604001400000000, .stg k { mo .b32 .glob .none (.x 6) (.x 4) 0 with scope := .wg, order := .rel }),
   (0x6C03E3090204064000000000, .atom (kt 3) .add { mo .n8 .glob (.x 9) (.x 2) (.x 4) 0 with ty := .n32, scope := .dev }),
   (0x6F53E40C0310201600000008, .cas (kt 4) { mo .b64 .smem (.x 12) (.x 3) (.x 16) 8 with scope := .wg, order := .ar }),
   (0x7003E1FFFFFF004800000000, .fence (kt 1) { mo .n8 .glob .none .zero .zero 0 with scope := .dev, order := .sc }),
   -- SHFL.xor.b32 x9, x8, 16; DLY 3; EXIT :: end; MIGSET; LDG.b32.go x8, [x4+8] :: t1; MIGRET :: end; SYSW s8, TVECLO; TRET.next :: end
   (0x5033E00908FFFF8000000010, .shfl k .xor 0 (.x 9) (.x 8) (.imm 16)), (0x4103E0FFFFFFFF0000000003, .dly k 3), (0x460BE0FFFFFFFF0000000000, .exit ke),
   (0xA703E0FFFF00000000108104, .migset k 0x000000108104), (0x6843E10804FF004100000008, .ldg (kt 1) { mo .b32 .glob (.x 8) (.x 4) .zero 8 with scope := .dev, go := true }),
   (0xA90BE0FFFFFFFF0000000000, .migret ke), (0xC303E0FF88FFFF0000000100, .sysw k (.s 8) 0x100), (0xC10BE0FFFFFFFF0000000001, .tret ke true)] = true := by decide
theorem test_words_printed_programs : decodes
  [-- @p0 MCONV k0, 0, 1, 2, 3; MMA.ind.x.rep1.sw8 q01.a2, k0, 0, x16, x18 :: t4; MACC x24, q1.a2, x12 :: t1; MLOC x100, q2.a0 :: t6; MRETRY x103, q2.a0 :: t7
   (0x850000FFFFFFFF0000608080, .mconv { k with guard := some ⟨0, false⟩ } 0 3 2 1 0), (0x8603E4FF10120000000000C2, .mma (kt 4) ⟨.ind, 0, false, 0, 3, 0, 2, 0, .x 16, .x 18⟩),
   (0x8903E1180CFFFF2800000000, .macc (kt 1) (acc 1 2 255 (.x 24) (.x 12) .zero)), (0x8B03E664FFFFFF4000000000, .mloc (kt 6) (acc 2 0 255 (.x 100) .zero .zero)),
   (0x8D03E767FFFFFF4000000000, .mretry (kt 7) 0 (acc 2 0 255 (.x 103) .zero .zero)), (0x8503E0FFFFFFFF0008102000, .mconv k 0 64 64 64 0),
   -- BCOPY.gmem.smem.dev.bs x30, x16 :: t6; BCOPY.smem.gmem.dev.bs x38, x40 :: t6; @p0 BARRIVE.tx [s2+0], x22; BWAIT [s2+0], x12 :: end
   (0xA003E61E10FFFF4100000001, .bcopy (kt 6) (cp 0 1 1 (.x 30) (.x 16))), (0xA003E62628FFFF4400000001, .bcopy (kt 6) (cp 1 0 1 (.x 38) (.x 40))),
   (0x541000FF8216FF0000000000, .barriveTx { k with guard := some ⟨0, false⟩ } (bo (.s 2) (.x 22))), (0x550BE0FF820CFF0000000000, .bwait ke (bo (.s 2) (.x 12))),
   -- BALLOT x10, x9; POPC.b64 x17, x14; @p3 ATOM.add.n32.gmem s15, [s12+0], x16 :: t3; @p1 CSTORE.b32.gmem x24, [s16+0], x8 :: t4
   (0x4E03E00A09FFFF0000000000, .ballot k (.x 10) (.x 9)), (0x0E03E0110EFFFF0900000000, .popc k (u .b64 (.x 17) (.x 14) .zero .zero)),
   (0x6C00638F8C10064000000000, .atom ⟨some ⟨3, false⟩, false, false, 3⟩ .add { mo .n8 .glob (.s 15) (.s 12) (.x 16) 0 with ty := .n32, scope := .dev }),
   (0x6A4024189008004000000000, .cstore ⟨some ⟨1, false⟩, false, false, 4⟩ { mo .b32 .glob (.x 24) (.s 16) (.x 8) 0 with scope := .dev }),
   -- BDOT.f16 x20, s4, s6, s14 :: t2; TWAIT t2, 0 :: end; BFX.n32 x9, x21, 271
   (0xA503E21484868E0B00000000, .bdot (kt 2) (nm .add .f16 (.x 20) (.s 4) (.s 6) (.s 14))), (0x470BE0FFFFFFFF0000000002, .twait ke 2 0),
   (0x0C03E00915FFFF860000010F, .bfx k (u .n32 (.x 9) (.x 21) (.imm 271) .zero))] = true := by decide

/-- Slot 1 of the worked line is stored as these bytes (spec/02_instruction_word.md). -/
theorem test_bytes_of_slot1 :
    decodeBytes [0x00, 0x00, 0x00, 0x00, 0x1A, 0xFF, 0x06, 0x04, 0x0A, 0x70, 0x00, 0x20, 0x99]
      = .ok (.fadd { k with guard := some ⟨3, true⟩ } { u .f32 (.x 10) (.x 4) (.x 6) .zero with rnd := .rz }, [0x99]) := by rfl
/-- Its line word (bits 21:17 and 31:17 as the spec works them out): 0x0E4A0000, with TGT bit 0 set; three sound lines and one broken bit. -/
theorem test_line_word : lineBad 0x0E4A0000 = false ∧ lineTgt 0x0E4A0000 0 = true ∧ lineTgt 0x0E4A0000 1 = false ∧ lineBad 0x0E4A0001 = true := by decide

/-- Words that R36 and R58 refuse: an unassigned OP, a reserved FN, a reserved type, a token on an instruction that counts none, a class 3 literal bit. -/
theorem test_refused_words : [word 0x00 0 0 0 0 0 0 0 0, word 0x19 0 0 8 9 10 0xFF 0x02 0, word 0x01 1 0 8 9 10 0xFF 0x02 0, word 0x01 0 0 8 9 10 0xFF 0x0F 0,
    word 0x01 0 1 8 9 10 0xFF 0x02 0, word 0x68 4 1 8 2 0xFF 0 0x80 0, word 0xE0 0 0 0xFF 0xFF 0xFF 0xFF 0 0, word 0x63 1 1 0xFF 3 4 0 0 0].all
    (fun w => decodeTableWord 96 w == none) = true := by decide

end Sys2Proof.Tests
end

