-- ==== Sys2Proof/Tests/Steps.lean ====
section
/-! SUPPORT. Tests of single steps: the word in the next slot is fetched, decoded and issued by one thread; the results are those the rules
named in the comments give for the operands. -/

-- one theorem is elaborated after another: waiting threads hold memory
set_option Elab.async false

namespace Sys2Proof.Tests

open Sys2Proof.Machine

/-- The state after reset with a word in the next slot (log entry 13), some registers of the one thread set, the group changed by f. -/
def ready (w : Nat) (xs : List (Nat × Word)) (f : Group → Group) : State :=
  (State.reset.withFetchWord 96 w).modGroup 0 0 fun g => f { g with threads := g.threads.map fun t => { t with x := xs } }
/-- The next state of a step; reset where it is none. -/
def stepOf (s : State) : State := match step s with | .next t => t | _ => State.reset
/-- A register of the thread after the step. -/
def regAfter (w : Nat) (xs : List (Nat × Word)) (code : Nat) : Word := ((stepOf (ready w xs id)).group 0 0).reg 0 code
/-- The writes of the operation that the step posts. -/
def postsAfter (w : Nat) (xs : List (Nat × Word)) : List (Nat × Word) :=
  ((stepOf (ready w xs id)).group 0 0).ops.flatMap fun o => o.writes.map fun r => (r.code, r.v)

/-! Class 0. -/

-- R93, R67: 2^31 - 1 + 1 wraps to -2^31, and under .sat stays 2^31 - 1; .i8 acts on 8 bits and extends the result with its sign
theorem test_iadd : regAfter (word 0x01 0 0 8 9 0xFF 0xFF 0x82 1) [(9, 0x7FFFFFFF)] 8 = 0x80000000
    ∧ regAfter (word 0x01 0 0 8 9 0xFF 0xFF 0xC2 1) [(9, 0x7FFFFFFF)] 8 = 0x7FFFFFFF := by decide +kernel
theorem test_iadd_i8 : regAfter (word 0x01 0 0 8 9 10 0xFF 0x00 0) [(9, 0x7F), (10, 0x01)] 8 = 0xFFFFFF80 := by decide +kernel
-- R93: the source that is also the destination is read first; 0 - 1 as .n32 under .sat is 0
theorem test_isub : regAfter (word 0x02 0 0 8 8 8 0xFF 0x02 0) [(8, 77)] 8 = 0 ∧ regAfter (word 0x02 0 0 8 9 0xFF 0xFF 0xC6 1) [(9, 0)] 8 = 0 := by decide +kernel
-- R93: the high half of (-1) * (-1) is 0 signed and 0xFFFFFFFE unsigned
theorem test_imulHi : regAfter (word 0x03 1 0 8 9 9 0xFF 0x02 0) [(9, 0xFFFFFFFF)] 8 = 0
    ∧ regAfter (word 0x03 2 0 8 9 9 0xFF 0x06 0) [(9, 0xFFFFFFFF)] 8 = 0xFFFFFFFE := by decide +kernel
-- R93: -1 * 2 + 5 = 3 in 64 bits; the even register holds the low half
theorem test_imadWide : regAfter (word 0x04 1 0 8 9 10 12 0x02 0) [(9, 0xFFFFFFFF), (10, 2), (12, 5)] 8 = 3
    ∧ regAfter (word 0x04 1 0 8 9 10 12 0x02 0) [(9, 0xFFFFFFFF), (10, 2), (12, 5)] 9 = 0 := by decide +kernel
-- R93: |-2^31| is -2^31, and the most positive value under .sat
theorem test_iabs : regAfter (word 0x06 0 0 8 9 0xFF 0xFF 0x02 0) [(9, 0x80000000)] 8 = 0x80000000
    ∧ regAfter (word 0x06 0 0 8 9 0xFF 0xFF 0x42 0) [(9, 0x80000000)] 8 = 0x7FFFFFFF := by decide +kernel
-- R94: a shift by 32 gives 0, and -1 for SAR of a negative number; ROL takes its count modulo 32
theorem test_shifts : regAfter (word 0x08 0 0 8 9 10 0xFF 0x08 0) [(9, 0xFFFFFFFF), (10, 32)] 8 = 0
    ∧ regAfter (word 0x0A 0 0 8 9 10 0xFF 0x02 0) [(9, 0x80000000), (10, 0xFFFFFFFF)] 8 = 0xFFFFFFFF := by decide +kernel
theorem test_rol : regAfter (word 0x0B 0 0 8 9 10 0xFF 0x08 0) [(9, 0x80000001), (10, 33)] 8 = 3 := by decide +kernel
-- R95: 271 = 256 + 15 takes bit 15; a field that reaches beyond the width is cut; BFI replaces bits 11:4
theorem test_bfx : regAfter (word 0x0C 0 0 8 9 0xFF 0xFF 0x86 271) [(9, 0x00008000)] 8 = 1
    ∧ regAfter (word 0x0C 1 0 8 9 0xFF 0xFF 0x82 (28 + 256 * 8)) [(9, 0xA0000000)] 8 = 0xFFFFFFFA := by decide +kernel
theorem test_bfi : regAfter (word 0x0D 0 0 8 9 0xFF 11 0x88 (4 + 256 * 8)) [(9, 0xABCD), (11, 0x11111111)] 8 = 0x11111CD1 := by decide +kernel
-- R96, R97
theorem test_clz : regAfter (word 0x0F 0 0 8 9 0xFF 0xFF 0x08 0) [] 8 = 32 ∧ regAfter (word 0x0F 1 0 8 9 0xFF 0xFF 0x08 0) [(9, 0x50)] 8 = 4 := by decide +kernel
theorem test_prmt : regAfter (word 0x11 0 0 8 9 0xFF 11 0x88 0x7610) [(9, 0x44332211), (11, 0x88776655)] 8 = 0x88772211 := by decide +kernel
-- R98: -1 < 1 signed; unsigned it is not; a predicate receives the relation
theorem test_icmp : regAfter (word 0x12 2 0 0xE2 8 9 0xFF 0x02 0) [(8, 0xFFFFFFFF), (9, 1)] 0xE2 = 1
    ∧ regAfter (word 0x12 2 0 8 8 9 0xFF 0x06 0) [(8, 0xFFFFFFFF), (9, 1)] 8 = 0 := by decide +kernel
-- R99: MOVI.b64 writes the odd register of the pair and leaves the even one
theorem test_movi : regAfter (word 0x15 0 0 8 0xFF 0xFF 0xFF 0x09 7) [(8, 5), (9, 6)] 9 = 7
    ∧ regAfter (word 0x15 0 0 8 0xFF 0xFF 0xFF 0x09 7) [(8, 5), (9, 6)] 8 = 5 := by decide +kernel
-- R100: a negative index, times 8, carries into the high half
theorem test_lea : regAfter (word 0x16 0 0 8 10 12 3 0x02 0) [(10, 4), (11, 1), (12, 0xFFFFFFFF)] 8 = 0xFFFFFFFC
    ∧ regAfter (word 0x16 0 0 8 10 12 3 0x02 0) [(10, 4), (11, 1), (12, 0xFFFFFFFF)] 9 = 0 := by decide +kernel
-- R101: bit j of the source goes to p(D + j)
theorem test_pmov : regAfter (word 0x18 1 0 0xE4 9 0xFF 0xFF 0x08 3) [(9, 0xD)] 0xE6 = 1 ∧ regAfter (word 0x18 1 0 0xE4 9 0xFF 0xFF 0x08 3) [(9, 0xD)] 0xE7 = 0 := by decide +kernel

/-! Class 1. -/

-- R70, R103: 1 + 2^-24 is a tie and goes to even, and up under .rup; the largest number doubled under .sat stays the largest
theorem test_fadd : regAfter (word 0x20 0 0 8 9 10 0xFF 0x0A 0) [(9, 0x3F800000), (10, 0x33800000)] 8 = 0x3F800000
    ∧ regAfter (word 0x20 0 0 8 9 10 0xFF 0x3A 0) [(9, 0x3F800000), (10, 0x33800000)] 8 = 0x3F800001 := by decide +kernel
theorem test_fmul_sat : regAfter (word 0x21 0 0 8 9 0xFF 0xFF 0xCA 0x40000000) [(9, 0x7F7FFFFF)] 8 = 0x7F7FFFFF := by decide +kernel
-- R103: (1 + 2^-12)^2 - (1 + 2^-11) = 2^-24 exactly, in one rounding
theorem test_fma : regAfter (word 0x22 0 0 8 9 9 11 0x0A 0) [(9, 0x3F800800), (11, 0xBF801000)] 8 = 0x33800000 := by decide +kernel
-- R104: -0 is the lesser zero; R105: a NaN is unordered
theorem test_fmin : regAfter (word 0x23 0 0 8 9 10 0xFF 0x0A 0) [(9, 0), (10, 0x80000000)] 8 = 0x80000000
    ∧ regAfter (word 0x24 7 0 0xE0 9 10 0xFF 0x0A 0) [(9, 0x7FC00000)] 0xE0 = 1 := by decide +kernel
-- R106: 2.5 to the nearest even integer
theorem test_frnd : regAfter (word 0x25 0 0 8 9 0xFF 0xFF 0x0A 0) [(9, 0x40200000)] 8 = 0x40000000 := by decide +kernel
-- R109: the reciprocal of -0 is minus infinity, posted on its token
theorem test_frcp : postsAfter (word 0x26 0 1 8 9 0xFF 0xFF 0x0A 0) [(9, 0x80000000)] = [(8, 0xFF800000)] := by decide +kernel
-- R111, R112: 500 clamps to 448 in E4M3; -2.7 truncates to -2; 2^24 + 1 rounds to even
theorem test_cvt : regAfter (word 0x30 0 0 4 6 0xFF 0x0A 0x4D 0) [(6, 0x43FA0000)] 4 = 0x7E
    ∧ regAfter (word 0x31 0 0 8 9 0xFF 0x0A 0x12 0) [(9, 0xC02CCCCD)] 8 = 0xFFFFFFFE := by decide +kernel
theorem test_cvtf : regAfter (word 0x31 1 0 8 9 0xFF 0x02 0x0A 0) [(9, 0x01000001)] 8 = 0x4B800000 := by decide +kernel
-- R113: each half of its own; R114: 4 products and the addend
theorem test_hadd2 : regAfter (word 0x32 0 0 8 9 10 0xFF 0x0B 0) [(9, 0x3C003C00), (10, 0x40003C00)] 8 = 0x42004000 := by decide +kernel
theorem test_dot4 : regAfter (word 0x33 0 0 8 9 10 11 0x00 0) [(9, 0x01FF0203), (10, 0x05060708), (11, 100)] 8 = 137 := by decide +kernel
-- R115, the worked example: tag E4M3 and a scale, then 500.0 packs to 0x7E under .sat
theorem test_mxpack : (((postsAfter (word 0x34 0 3 20 12 0x00 0xFF 0x4A 0) [(12, 0x43FA0000)]).map (·.2)).getD 0 0) &&& 0xFF = 0x7E := by decide +kernel

/-! Class 2. -/

-- R308: a branch to a slot that is marked a target; to one that is not marked it traps BAD_TARGET, and with no handler the partition halts (R418)
theorem test_bra : ((stepOf (ready (word 0x42 0 0 0xFF 0xFF 0xFF 0xFF 0 0) [] id)).group 0 0).threads.map (·.pc) = [0]
    ∧ ((stepOf (ready (word 0x42 0 0 0xFF 0xFF 0xFF 0xFF 0 12) [] id)).part 0).bind (fun q => q.halt.map fun h => (h.cause, h.trapCause)) = some (0x80, 0x05) := by decide +kernel
-- R309: CALL pushes the next slot's address; slot 4 is followed by the next line
theorem test_call : ((stepOf (ready (word 0x44 0 0 0xFF 0xFF 0xFF 0xFF 0 0) [] id)).group 0 0).threads.map (fun t => (t.pc, t.rstack)) = [(0, [12])] := by decide +kernel
theorem test_nextPC : nextPC 48 = 64 ∧ nextPC 36 = 48 := by decide +kernel
-- R310, R283: the last thread exits, and the workgroup retires
theorem test_exit : ((stepOf (ready (word 0x46 0 0 0xFF 0xFF 0xFF 0xFF 0 0) [] id)).core 0).wg = none := by decide +kernel
-- R312: a count above the threshold parks the group, and the run ends
theorem test_twait : let g := (stepOf (ready (word 0x47 0 0 0xFF 0xFF 0xFF 0xFF 0 2) [] fun g => { g with tok := [(2, 1)] })).group 0 0
    g.park = some (.twait 2 0 0 [0]) ∧ g.run = none := by decide +kernel
-- R316, R318: the ballot of one active lane whose value is not 0; R319; R320: a lane that is not there leaves the own value
theorem test_ballot : regAfter (word 0x4E 0 0 10 8 0xFF 0xFF 0 0) [(8, 4)] 10 = 1 ∧ regAfter (word 0x4F 3 0 11 8 0xFF 0xFF 0 0) [(8, 4)] 11 = 1 := by decide +kernel
theorem test_shfl : regAfter (word 0x50 3 0 9 8 0xFF 0xFF 0x80 16) [(8, 4)] 9 = 4 := by decide +kernel

/-! Class 3 and 5: an access is posted with its place; MIGSET sets the live set. -/

-- R229: base plus signed offset; a misaligned address traps MISALIGNED (0x03)
theorem test_ldg : (((stepOf (ready (word 0x68 4 1 8 2 0xFF 0 0x40 0xFFFFFFFC) [(2, 0x104)] id)).group 0 0).ops.flatMap fun o => o.lanes.map fun l => (l.va, l.size)) = [(0x100, 4)]
    ∧ ((stepOf (ready (word 0x68 4 1 8 2 0xFF 0 0x40 0) [(2, 0x102)] id)).part 0).bind (fun q => q.halt.map (·.trapCause)) = some 0x03 := by decide +kernel
-- R361: the live set of MIGSET 0x000000108104: x4 and x5 are range 0, x8 and x9 range 1
theorem test_migset : ((stepOf (ready (word 0xA7 0 0 0xFF 0xFF 0x00 0x00 0 0x00108104) [] id)).group 0 0).threads.map (·.live) = [0x108104]
    ∧ liveRegs 0x108104 = [4, 5, 8, 9] := by decide +kernel

/-! Class 6 and traps. -/

/-- The state with a handler at 0x1000 for context 0. -/
def handled (s : State) : State := s.modCtx 0 fun x => { x with tveclo := 0x1001 }
-- R421 to R424, R427: TRAP 0x12 with a handler: cause 0x1C, INFO 0x12, the resume PC is the instruction's own, the thread is at the handler
theorem test_trap : let g := (stepOf (handled (ready (word 0xC0 0 0 0xFF 0xFF 0xFF 0xFF 0 0x12) [] id))).group 0 0
    g.handler = true ∧ g.reg 0 (0x80 + 60) &&& 0xFF = 0x1C ∧ g.reg 0 (0x80 + 61) = 0x12 ∧ g.reg 0 (0x80 + 62) = 0 ∧ g.threads.map (·.pc) = [0x1000] := by decide +kernel
-- R428: TRET.next continues past the slot named by s62 and s63, and the group is in no handler any more
theorem test_tret : let g := (stepOf (handled (ready (word 0xC1 0 0 0xFF 0xFF 0xFF 0xFF 0 1) []
      fun g => { g with handler := true, threads := g.threads.map fun t => { t with inH := true } , s := [(62, 0x2030)] }))).group 0 0
    g.handler = false ∧ g.threads.map (·.pc) = [0x2040] := by decide +kernel
-- R420: SYSW writes TVECLO whole
theorem test_sysw : ((stepOf (ready (word 0xC3 0 1 0xFF 9 0xFF 0xFF 0 0x100) [(9, 0xABCDEF01)] id)).ctx 0).tveclo = 0xABCDEF01 := by decide +kernel
-- R432: HALT outside a system context traps PRIVILEGE (0x1B)
theorem test_halt : ((stepOf (ready (word 0xC6 0 0 0xFF 0xFF 0xFF 0xFF 0 5) [] id)).part 0).bind (fun q => q.halt.map fun h => (h.cause, h.trapCause)) = some (0x80, 0x1B) := by decide +kernel
-- R36, R58: an unassigned OP traps ILLEGAL_OP (0x01)
theorem test_illegalOp : ((stepOf (ready (word 0x19 0 0 0 0 0 0 0 0) [] id)).part 0).bind (fun q => q.halt.map (·.trapCause)) = some 0x01 := by decide +kernel

/-! Class 4: an operation on a sub-array that is not in multiply mode traps ARRAY_BUSY (R149). -/

theorem test_arrayBusy : ((stepOf (ready (word 0x87 0 1 0xFF 0xFF 0xFF 0xFF 0 1) [] id)).part 0).bind (fun q => q.halt.map (·.trapCause)) = some 0x0B := by decide +kernel

end Sys2Proof.Tests
end

