-- ==== Sys2Proof/Tests/WitnessIssue.lean ====
section
/-! SUPPORT. For the statements about issues (Certificates/Slice0/Obligations.lean): concrete states and operands that meet the hypotheses of
their clauses together, at the ends of their ranges where a clause has one. -/

-- one theorem is elaborated after another: waiting threads hold memory
set_option Elab.async false

namespace Sys2Proof.Tests

open Sys2Proof.Machine

/-! The states. -/

/-- A thread at PC 0 with some registers. -/
def th (n : Nat) (x : List (Nat × Word)) : Thread := { slot := n, lane := n, pc := 0, x }
/-- A group of two threads inside a run; x2 to x5 hold addresses in the first page, x6 a small number, x7 one of each thread. -/
def grp : Group :=
  { threads := [th 0 [(2, 0x1000), (4, 0x2000), (6, 1), (7, 16)], th 1 [(2, 0x1004), (4, 0x2004), (6, 2), (7, 32)]], run := some {}
    s := [(2, 0x100), (4, 0x1000), (6, 0x2000), (8, 0x4000), (12, 1)] }
/-- A group that waits for its turn. -/
def idle : Group := { threads := [th 0 [], th 1 []] }
/-- A workgroup of the two groups, with a private slice of 1,024 bytes and a scratchpad of 448 KiB. -/
def wgOf (gs : List Group) : Workgroup := { ctx := 0, launch := 0, threads := 2, regs := 128, priv := 1024, carve := 4, groups := gs }
/-- A core with multiply-mode sub-arrays that needs no calibration. -/
def coreOf (gs : List Group) : Core :=
  { fetchCore 0 with
    wg := some (wgOf gs), carve := 4
    arr := { subs := List.replicate 4 { mul := true, calDue := false, calTemp := 0 } } }
/-- The package with that core, the slot 0 of page 0 holding a NOP. -/
def withCore (c : Core) : State :=
  let s := State.reset.withFetchWord 96 (word 0x40 0 0 0xFF 0xFF 0xFF 0xFF 0 0)
  { s with cores := minsert s.cores 0 c }
def base : State := withCore (coreOf [grp, idle])
/-- The same with another first group, or with other state beside. -/
def withGroup (f : Group → Group) : State := withCore (coreOf [f grp, idle])
def sys (s : State) : State := s.modCtx 0 fun x => { x with desc := { x.desc with sys := true } }

/-- Whether an instruction is well formed, its issue reaches its own effect, and a condition holds of the issue. -/
def goesWith (s : State) (i : Instr) (f : Iss → Bool) : Bool :=
  i.wf && ((encodeFields i).bind (·.ctl)).any fun c => (s.goes c i (match i with | .dly _ n => n | _ => 1)).any f
/-- The same, with room on its token and an active thread. -/
def goesOn (s : State) (i : Instr) : Bool :=
  goesWith s i fun e => ((encodeFields i).bind (·.ctl)).any e.canPost && !e.act.isEmpty && e.w == (s.core 0).wg && !e.tandem && !e.guest

/-! Every instruction that a word stands for. -/

theorem witness_goes_class0 : (words_class0_arithmetic ++ words_class0_others).all (fun x => goesOn base x.2) = true := by decide +kernel
theorem witness_goes_class1 : words_class1.all (fun x => goesOn base x.2) = true := by decide +kernel
theorem witness_goes_class2 : words_class2.all (fun x => goesOn base x.2) = true := by decide +kernel
theorem witness_goes_class3 : words_class3.all (fun x => goesOn base x.2) = true := by decide +kernel
theorem witness_goes_class4 : words_class4.all (fun x => goesOn base x.2) = true := by decide +kernel
theorem witness_goes_class5 : words_class5.all (fun x => goesOn base x.2) = true := by decide +kernel
theorem witness_goes_class6 : words_class6.all (fun x => goesOn base x.2) = true := by decide +kernel

/-! Statements 5 to 11. -/

/-- MXUNPK of a block whose tag is E4M3 (R81), and NOP with threads that stay. -/
theorem witness_mxunpk : goesWith (withGroup fun g => g) (.mxunpk (kt 4) (u .f32 (.x 24) (.x 20) (.x 21) .zero)) (fun e =>
    e.act.all fun n => (mxUnpack .rne false (e.opnd [(.w32, .x 20), (.w32, .x 21)] n 0).toNat (e.opnd [(.w32, .x 20), (.w32, .x 21)] n 1).toNat).isSome)
    = true := by decide +kernel
/-- TokenWaits: a count at its threshold, and one above it that nothing keeps from ending; the last token and threshold. -/
theorem witness_TokenWaits :
    goesWith (withGroup fun g => { g with tok := [(15, 63)] }) (.twait k 15 63) (fun e => !e.act.isEmpty && decide (mget 0 (base.group 0 0).tok 15 ≤ 63)) = true
    ∧ goesWith (withGroup fun g => { g with tok := [(15, 63)] }) (.twait k 15 62) (fun e =>
      decide (62 < mget 0 (e.s.group e.p e.gi).tok 15) && (e.s.core e.p).stuck e.gi 15 62 == none) = true := by decide +kernel
/-- TransfersOfControl: a target that passes, by displacement and by register; seven addresses on the return stack; one for RET. -/
def passes (e : Iss) (ts : List (Nat × DWord)) : Bool := match e.targets ts with | .ok _ => true | _ => false
def stacked (n : Nat) : State := withGroup fun g => { g with threads := g.threads.map fun t => { t with rstack := List.replicate n 0 } }
theorem witness_TransfersOfControl :
    goesWith base (.bra k 0) (fun e => passes e (e.act.map fun n => (n, e.pc + 0))) = true
    ∧ goesWith base (.brx k (.s 62)) (fun e => passes e (e.act.map fun n => (n, e.opnd [(.w64z, .s 62)] n 0))) = true
    ∧ goesWith (stacked 7) (.call k 0) (fun e => passes e (e.act.map fun n => (n, e.pc + 0)) && e.act.all (fun n => decide ((e.thread n).rstack.length < 8))
      && (List.range 8).all (fun n => n == 0 || mget 0 (e.s.group e.p e.gi).tok n == 0)) = true
    ∧ goesWith (stacked 7) (.callReg k (.s 62)) (fun e => passes e (e.act.map fun n => (n, e.opnd [(.w64z, .s 62)] n 0))) = true
    ∧ goesWith (stacked 1) (.ret k) (fun e => e.act.all fun n => !(e.thread n).rstack.isEmpty) = true := by decide +kernel
/-- TransferTargetChecks: a marked slot (the first of the line), one that is not marked (the last), one that is no slot address; an address at 2^57. -/
def lineOf (e : Iss) (n : Nat) (a : DWord) (f : Nat → Bool) : Bool :=
  ((e.s.core e.p).tlbFind (e.s.ctx (e.s.ctxAt e.p e.gi n)).desc.asid (a.toNat / 64 * 64)).any fun x => let key := leafKey x.leaf x.size (a.toNat / 64 * 64)
    e.s.leafRefuse x.leaf x.size .fetch == none && !e.s.leaseWaits key 64 false && e.s.reaches (pdie e.p) key && e.s.poisonAt key 64 == none && !lineBad (e.s.read (key + 60) 4) && f (e.s.read (key + 60) 4)
      && decide (a.toNat < 2 ^ 57) && pcAligned a
theorem witness_TransferTargetChecks : goesWith base (.nop k) (fun e =>
    lineOf e 0 0 (fun lw => lineTgt lw (slotOf 0)) && lineOf e 1 48 (fun lw => !lineTgt lw (slotOf 48))
      && [(0, (0 : DWord)), (1, 2)].find? (fun x => decide (2 ^ 57 ≤ x.2.toNat) || !pcAligned x.2) == some (1, 2)
      && [(1, (0x200000000000000 : DWord))].find? (fun x => decide (2 ^ 57 ≤ x.2.toNat) || !pcAligned x.2) == some (1, 0x200000000000000)) = true := by decide +kernel

/-- The group with mask 11 and states of its threads; p0 of thread 0 alone is set, so that a guard on p0 leaves it alone active. -/
def masked (m : Mask) (st : TState) : State := withGroup fun g =>
  { g with masks := [(11, m)], threads := g.threads.map fun t => { t with p := if t.slot = 0 then 1 else 0, st := if t.slot = 1 then st else t.st } }
def kp : Ctl := { k with guard := some ⟨0, false⟩ }
def calm (e : Iss) (s : State) : Bool := (s.group e.p e.gi).awayIn 11 == [] && (s.group e.p e.gi).threads.all (·.st != .jwaiting 11)
/-- MasksAndExit: JOIN and LEAVE; MWAIT of a thread that is no member, of one whose fellow is still to come, and of the last of two. -/
theorem witness_MasksAndExit :
    goesWith (masked {} .ready) (.join kp 11) (fun e => ((masked {} .ready).group e.p e.gi).awayIn 11 == [] && !((masked {} .ready).group e.p e.gi).deadlocked) = true
    ∧ goesWith (masked ⟨2, 0⟩ .away) (.join kp 11) (fun e => ((masked ⟨2, 0⟩ .away).group e.p e.gi).awayIn 11 == [1]) = true
    ∧ goesWith (masked ⟨3, 0⟩ .ready) (.leave kp 11) (fun e => calm e (masked ⟨3, 0⟩ .ready)) = true
    ∧ goesWith (masked ⟨2, 0⟩ .ready) (.mwait kp 11) (fun e => e.act.all fun n => !(2 : Nat).testBit n) = true
    ∧ goesWith (masked ⟨3, 0⟩ .ready) (.mwait kp 11) (fun e => e.act == [0] && calm e (masked ⟨3, 0⟩ .ready)) = true
    ∧ goesWith (masked ⟨3, 2⟩ (.mwaiting 11)) (.mwait kp 11) (fun e => e.act == [0] && calm e (masked ⟨3, 2⟩ (.mwaiting 11))) = true
    ∧ goesWith (masked ⟨5, 0⟩ .exited) (.mwait kp 11) (fun e => e.act == [0] && calm e (masked ⟨5, 0⟩ .exited)) = true
    ∧ goesWith (masked {} .ready) (.exit kp) (fun e => e.act == [0] && !e.guest && e.s.exitWaits e.p e.gi e.act == []) = true
    ∧ goesWith (masked ⟨3, 2⟩ (.mwaiting 11)) (.exit kp) (fun e => e.act == [0] && calm e (masked ⟨3, 2⟩ (.mwaiting 11))) = true := by decide +kernel
/-- A group all of whose other threads have exited, beside one that has not ended and beside none; arrays with no room for the MMA that an exit completes; a guest. -/
def lastOf (gs : List Group) : State := withCore (coreOf ((masked {} .exited).group 0 0 :: gs))
def fullOf : State := withCore { coreOf [(masked {} .ready).group 0 0, idle] with
  arr := { (coreOf []).arr with
    ops := List.replicate 8 { kind := .mzero 0, qmask := 1 }
    kregs := [(0, { groups := [some 0], declared := [(0, 0), (0, 1)], signed := [(0, 1)], record := some ⟨.ind, 1, false, 0, 1, 0, 0, 0, .nop k, 0⟩ })] } }
/-- A guest on core 0 whose origin is thread 0 of group 0 on core 1, which is placed, or is not. -/
def visiting (placed : Bool) : State :=
  let s := withCore { coreOf [idle, idle] with guests := { threads := [{ th 5 [] with origin := some ⟨0, 1, 0, 0, 0, 0⟩ }], run := some {} } }
  let home : Core := { coreOf [{ idle with threads := [{ th 0 [] with st := .away }, th 1 []] }] with
    wg := if placed then some { wgOf [{ idle with threads := [{ th 0 [] with st := .away }, th 1 []] }] with lcore := 1 } else none }
  { s with focus := (0, guestIx), cores := minsert s.cores 1 home }
theorem witness_MasksAndExit_ends :
    goesWith (lastOf [idle]) (.exit kp) (fun e => e.act == [0] && e.s.exitWaits e.p e.gi e.act == [] && !idle.ended && !e.guest) = true
    ∧ goesWith (lastOf []) (.exit kp) (fun e => e.act == [0] && e.s.exitWaits e.p e.gi e.act == []) = true
    ∧ goesWith fullOf (.exit kp) (fun e => !e.guest && e.s.exitWaits e.p e.gi e.act == [0]) = true
    ∧ goesWith (visiting true) (.exit k) (fun e => e.guest && e.act == [5] && !e.s.guestExitWaits e.p [5]
      && (((visiting true).group 1 0).thread? 0).isSome && (visiting true).phys 1 == 1) = true
    ∧ goesWith (visiting false) (.exit k) (fun e => e.guest && e.s.guestExitWaits e.p e.act) = true := by decide +kernel

/-! Barriers and queues (12 to 16). -/

/-- The workgroup as a home (R253). -/
def home0 : Home := ⟨0, 0, 0⟩
def poolIs (e : Iss) (cm : Bool) (base : Src) (off : Word) (p a : Nat) : Bool := match e.poolAddr cm base off with | .ok x => x == (home0, p, a) | _ => false
/-- The core with a barrier at 0x100, and with n barriers. -/
def barred (b : Barrier) (f : Group → Group) : State := withCore { coreOf [f grp, idle] with dir := [(0x100, b)] }
def barrels (n : Nat) : State := withCore { coreOf [grp, idle] with dir := (List.range n).map fun j => (0x1000 + 16 * j, { left := 1, expect := 1 }) }
/-- An earlier read-modify-write of the group, outstanding, that an arrival must wait for. -/
def pendingRed : Op := { i := .red (kt 1) .add { mo .n8 .glob .none (.x 2) (.x 6) 0 with ty := .i32 }, tok := some 1, act := [0], head := [0, 1], lanes := [{ slot := 0, va := 0x1000 }] }
def withRed (g : Group) : Group := { g with ops := [pendingRed], nextOp := 1, tok := [(1, 1)] }
def waiting (ph : Nat) (cm : Bool) : State := withCore { coreOf [grp, { idle with park := some (.bwait home0 0x100 ph cm) }] with dir := [(0x100, { left := 1, expect := 1, phase := ph })] }
theorem witness_BarrierInitAndInvalidate :
    (let o : BarOps := ⟨false, .s 2, .s 12, 0⟩
     goesWith (barrels 31) (.binit k o) (fun e => poolIs e false (.s 2) 0 0 0x100 && e.low32 o.b == 1 && mfind ((barrels 31).core 0).dir 0x100 == none) = true
     ∧ goesWith (barrels 32) (.binit k o) (fun e => poolIs e false (.s 2) 0 0 0x100 && mfind ((barrels 32).core 0).dir 0x100 == none) = true
     ∧ goesWith (barred { left := 1, expect := 1 } id) (.binit k o) (fun _ => let s := barred { left := 1, expect := 1 } id
       !s.anyWaiter home0 0x100 && !s.countedOn home0 0x100) = true
     ∧ goesWith (waiting 0 true) (.binit k o) (fun e => e.s.anyWaiter home0 0x100) = true)
    ∧ goesWith base (.binit k ⟨true, .s 2, .s 63, 0⟩) (fun e => poolIs e true (.s 2) 0 0 0x100 && e.low32 (.s 63) == 0) = true
    ∧ goesWith (withGroup fun g => { g with s := (12, 65536) :: g.s }) (.binit k ⟨false, .s 2, .s 12, 0⟩) (fun e => decide (65535 < e.low32 (.s 12))) = true
    ∧ goesWith base (.binval k ⟨false, .s 2, .zero, 0⟩) (fun e => poolIs e false (.s 2) 0 0 0x100) = true
    ∧ goesWith (barred { left := 1, expect := 1 } id) (.binval k ⟨false, .s 2, .zero, 0⟩) (fun e => poolIs e false (.s 2) 0 0 0x100) = true := by decide +kernel
/-- BarrierArrivals: no barrier; exactly as many arrivals as are left, of the last phase; one too few; bytes at their bound; an earlier
read-modify-write that the arrival waits for. -/
theorem witness_BarrierArrivals :
    let o : BarOps := ⟨false, .s 2, .zero, 0⟩
    let fits (s : State) (i : Instr) (b : Barrier) (n : Nat) (blocked : Bool) : Bool := goesWith s i fun e =>
      poolIs e false (.s 2) 0 0 0x100 && mfind (s.core 0).dir 0x100 == some b && decide ((e.s.passedAt home0 0x100).1 + e.act.length ≤ b.left)
        && decide (b.pend + (e.s.passedAt home0 0x100).2 + n ≤ 2 ^ 55 - 1)
        && e.s.waitsAny 0 0 { i, args := [0, 0x100, e.act.length, n], mate := some (0, 0), act := e.act, id := (e.s.group 0 0).nextOp } == blocked
    goesWith base (.barrive k o) (fun e => mfind (e.s.core 0).dir 0x100 == none) = true
    ∧ fits (barred { left := 2, expect := 2, phase := 65535 } id) (.barrive k o) { left := 2, expect := 2, phase := 65535 } 0 false = true
    ∧ goesWith (barred { left := 1, expect := 2 } id) (.barrive k o) (fun e => decide (1 < (e.s.passedAt home0 0x100).1 + e.act.length)) = true
    ∧ fits (barred { left := 2, expect := 2, pend := 2 ^ 55 - 49 } id) (.barriveTx k ⟨false, .s 2, .x 7, 0⟩) { left := 2, expect := 2, pend := 2 ^ 55 - 49 } 48 false = true
    ∧ goesWith (barred { left := 2, expect := 2, pend := 2 ^ 55 - 48 } id) (.barriveTx k ⟨false, .s 2, .x 7, 0⟩) (fun e =>
      decide (2 ^ 55 - 1 < (2 ^ 55 - 48 : Int) + (e.act.map fun n => (e.opnd [(.w32, .s 2), (.w32, .x 7)] n 1).toNat).sum)) = true
    ∧ fits (barred { left := 2, expect := 2 } withRed) (.barrive k o) { left := 2, expect := 2 } 0 true = true := by decide +kernel
theorem witness_BarrierWaits :
    goesWith base (.bwait k ⟨false, .s 2, .zero, 0⟩) (fun e => poolIs e false (.s 2) 0 0 0x100) = true
    ∧ goesWith (barred { left := 1, expect := 1, phase := 1 } id) (.bwait k ⟨true, .s 2, .zero, 0⟩) (fun e => poolIs e true (.s 2) 0 0 0x100 && e.low32 .zero % 2 ^ 16 == 0) = true
    ∧ goesWith (barred { left := 1, expect := 1 } id) (.bwait k ⟨false, .s 2, .zero, 0⟩) (fun e => e.low32 .zero % 2 ^ 16 == 0) = true
    ∧ ((waiting 65535 false).group 0 1).park = some (.bwait home0 0x100 65535 false) ∧ 65535 ≠ (65535 + 1) % 2 ^ 16 := by decide +kernel
/-- The words at the ends of the ranges of R254. -/
theorem witness_barrierWord : signedOf 56 (Barrier.word { left := 65535, expect := 65535, phase := 65535, pend := -2 ^ 55, ovf := true, err := true, inv := true }) = -2 ^ 55
    ∧ signedOf 56 (Barrier.word { left := 0, expect := 0, pend := 2 ^ 55 - 1 }) = 2 ^ 55 - 1 := by decide +kernel
def arrived (f : Group → Group) (g2 : Group) (bars cbars : List (Nat × List Nat)) : State :=
  withCore { coreOf [f grp, g2] with wg := some { wgOf [f grp, g2] with bars, cbars, lcore := 0 } }
/-- GroupBarriers: BAR and CBAR 15 behind an earlier read-modify-write, with a group still to come, and with all others there. -/
theorem witness_GroupBarriers :
    let blocked (s : State) (i : Instr) (b : Bool) : Bool := goesWith s i fun e =>
      e.s.waitsAny 0 0 { i, args := [15], act := e.act, id := (e.s.group 0 0).nextOp } == b && (s.core 0).wg.any fun w => (s.gangCores w) == [0]
    blocked (withGroup withRed) (.bar k 15) true = true ∧ blocked (withGroup withRed) (.cbar k 15) true = true
    ∧ blocked base (.bar k 15) false = true ∧ blocked base (.cbar k 15) false = true
    ∧ blocked (arrived id { idle with park := some (.bar 15) } [(15, [1])] []) (.bar k 15) false = true
    ∧ blocked (arrived id { idle with park := some (.cbar 15) } [] [(15, [1])]) (.cbar k 15) false = true := by decide +kernel
/-- A queue of 2^3 entries at 0x100 with its ring at 0x200 (R324): TAIL and HEAD. -/
def queued (tail head : Nat) (f : Group → Group) : State :=
  let s := withGroup f
  { s with mem := memWrite s.mem (windowKey 0 0x100) 16 (head + 2 ^ 32 * tail + 2 ^ 64 * 0x200 + 2 ^ 96 * 3) }
def sending (msgs : List Nat) (g : Group) : Group :=
  { g with ops := [{ i := .qsend (kt 1) ⟨false, .s 2, .x 4, 0⟩, tok := some 1, act := [0, 1], head := [0, 1], args := [0, 0x100, 0] ++ msgs }], nextOp := 1, tok := [(1, 1)] }
theorem witness_QueueTransfers :
    goesWith (queued 0 0 id) (.qsend (kt 1) ⟨false, .s 2, .x 4, 0⟩) (fun e => (match e.poolName false (.s 2) 0 with | .ok x => x.2 == (true, 0x100) | _ => false) && e.canPost (kt 1)) = true
    ∧ goesWith base (.launch (kt 6) (.x 8) (.s 4) (.imm 63)) (fun e => e.canPost (kt 6)) = true
    ∧ (let s := queued 6 0 (sending [1, 2]); let q := s.qhead 0 0x100
       !s.qbad 0 0x100 q ∧ q.held + 2 ≤ q.cap ∧ s.waitsAny 0 0 ((s.group 0 0).ops.getD 0 { i := .nop k }) = false
         ∧ ((s.group 0 0).ops.getD 0 { i := .nop k }).mate = none ∧ (s.core 0).wg.isSome = true ∧ (s.core 0).sendLocked 0 0 0x100 q.tail 2 q = false)
    ∧ goesWith (queued 2 0 id) (.qrecv (kt 5) (.x 12) (.s 2) 0) (fun e => let q := (queued 2 0 id).qhead 0 0x100
        !(queued 2 0 id).qbad 0 0x100 q && decide (e.act.length ≤ q.held) && (e.s.core 0).allOps.isEmpty && e.canPost (kt 5)) = true
    ∧ goesWith (queued 1 0 id) (.qrecv (kt 5) (.x 12) (.s 2) 0) (fun e => let q := (queued 1 0 id).qhead 0 0x100
        !(queued 1 0 id).qbad 0 0x100 q && decide (q.held < e.act.length) && decide (e.act.length ≤ q.cap)) = true
    ∧ goesWith (queued 9 0 id) (.qrecv (kt 5) (.x 12) (.s 2) 0) (fun _ => (queued 9 0 id).qbad 0 0x100 ((queued 9 0 id).qhead 0 0x100)) = true := by decide +kernel

end Sys2Proof.Tests
end

