-- ==== Sys2Proof/Tests/WitnessMemory.lean ====
section
/-! SUPPORT. For the statements about accesses, traps, system registers, fetch and translation: concrete states and operands that meet the
hypotheses of their clauses together. -/

-- one theorem is elaborated after another: waiting threads hold memory
set_option Elab.async false

namespace Sys2Proof.Tests

open Sys2Proof.Machine

/-- The issue of a NOP, as a place to ask about lanes. -/
def at_ (s : State) (f : Iss → Bool) : Bool := goesWith s (.nop k) f

/-! Places and checks (17, 18). -/

def withDie (s : State) : State := s.modCtx 0 fun x => { x with desc := { x.desc with dslimit := 1, dsbase := 2 } }
def placed (e : Iss) (tier : Tier) (a : Int) : Bool := (e.place { tier, n := 8, reads := true, writes := false } { slot := 1, a }).isSome
/-- AccessPlaces: the last access inside each window, the last misaligned address, and the first outside it, at both ends. -/
theorem witness_AccessPlaces : at_ (withDie base) (fun e => !e.guest && e.w.isSome && (e.s.core e.p).wg.map Workgroup.shell == e.w.map Workgroup.shell
    && (e.thread 1).origin == none
    && placed e .glob (2 ^ 57 - 8) && placed e .glob (2 ^ 57 - 7) && !placed e .glob (2 ^ 57) && !placed e .glob (-1)
    && placed e .dmem 65528 && placed e .dmem 65535 && !placed e .dmem 65536 && !placed e .dmem (-1)
    && placed e .priv 1016 && placed e .priv 1023 && !placed e .priv 1024 && !placed e .priv (-1)
    && placed e .smem 458744 && placed e .smem 458751 && !placed e .smem 458752 && placed e .smem 0x80000 && !placed e .smem 0x7FFFF && placed e .smem 0x27FFF8 && placed e .smem 0x27FFFF && !placed e .smem 0x280000
    && placed e .cmem 0 && !placed e .cmem (-1) && !placed e .cmem (2 ^ 26)) = true := by decide +kernel

/-- A core with a range lock on 128 bytes of its scratchpad at 0x3000, and a barrier at 0x100. -/
def locked : State := withCore { coreOf [grp, idle] with dir := [(0x100, { left := 1, expect := 1 })], locks := [(0, { opc := 0xA0, k := 0, srcs := [], dsts := [(1, 0x3000, 128)] })] }
def lr (slot : Nat) (a : Int) : LaneReq := { slot, a }
/-- What the checks of an access to the core scratchpad answer: no trap, or its cause and INFO. -/
def smemAsk (s : State) (n : Nat) (writes : Bool) (ls : List LaneReq) : Option (Option (Nat × Nat)) :=
  ((s.goes k (.nop k) 1).map fun e => e.locate { tier := .smem, n, reads := !writes, writes } ls).bind fun r => match r with
    | .ok (_, _) => some none
    | .error (.trap x) => some (some (x.cause, x.info))
    | .error _ => none
/-- AccessIssueChecks: outside the window before misaligned, misaligned before a lock, a lock before a mirror, none of them. -/
theorem witness_AccessIssueChecks :
    smemAsk locked 4 true [lr 0 0x3002, lr 1 (-4)] = some (some (0x0C, 0)) ∧ smemAsk locked 4 true [lr 0 0x3000, lr 1 0x3002] = some (some (0x03, 0))
    ∧ smemAsk locked 4 true [lr 0 0x100, lr 1 0x307C] = some (some (0x0F, 0)) ∧ smemAsk locked 4 true [lr 0 0x10C, lr 1 0x3080] = some (some (0x13, 0x100))
    ∧ smemAsk locked 4 false [lr 0 0x100, lr 1 0x110] = some none ∧ smemAsk locked 4 true [lr 0 0x110, lr 1 0x2FFC] = some none := by decide +kernel
/-- Lanes of the global tier that the TLB translates, with nothing against them. -/
theorem witness_AccessIssueChecks_global : at_ base (fun e => let q : AccReq := { tier := .glob, n := 4, reads := false, writes := true }
    [lr 0 0x1000, lr 1 0xFFFC].all fun l => (e.place q l).any fun o => ((e.s.core e.p).tlbFind 0 o.va).any fun x =>
      e.s.leafRefuse x.leaf x.size q.acc == none && !pteSnapshot x.leaf && !pteTravel x.leaf && !e.s.sealedAt 0 o.va o.size
        && !e.s.flagged.contains (leafKey x.leaf x.size o.va / 2 ^ 16)) = true := by decide +kernel

/-! Accesses that are posted (19, 20). -/

/-- Whether the lanes of an access are located, and each satisfies a condition. -/
def located (s : State) (i : Instr) (q : AccReq) (os : List (RdAs × Src)) (f : LaneOp → Bool) : Bool := goesWith s i fun e =>
  ((encodeFields i).bind (·.ctl)).any e.canPost && !e.tandem
    && match (e.latched os).locate q (e.act.map fun n => { slot := n, a := (e.opnd os n 0).toNat }) with | .ok (_, los) => los.all f | _ => false
def quiet (l : LaneOp) : Bool := !l.miss && l.trav == .no
theorem witness_AccessesArePosted :
    [(Instr.ldp (kt 1) (mo .b32 .priv (.x 8) (.x 9) .zero 0), Tier.priv), (.lds (kt 1) (mo .b32 .smem (.x 8) (.x 2) .zero 0), .smem),
     (.ldc (kt 1) (mo .b32 .cmem (.x 8) (.x 2) .zero 0), .cmem), (.ldd (kt 1) (mo .b32 .dmem (.x 8) (.x 2) .zero 0), .dmem)].all (fun x =>
      located (withDie base) x.1 { tier := x.2, n := 4, reads := true, writes := false } [(.w32, if x.2 == .priv then .x 9 else .x 2)] quiet) = true
    ∧ located base (.ldg (kt 1) (mo .b32 .glob (.x 8) (.x 2) .zero 0)) { tier := .glob, n := 4, reads := true, writes := false, mayTravel := true } [(.w64z, .x 2)] quiet = true
    ∧ located base (.stg (kt 1) (mo .b32 .glob .none (.x 2) (.x 6) 0)) { tier := .glob, n := 4, reads := false, writes := true, mayTravel := true } [(.w64z, .x 2)] quiet = true
    ∧ [Instr.atom (kt 1) .add { mo .n8 .glob (.x 8) (.x 2) (.x 6) 0 with ty := .i32 }, .atomf (kt 1) .fadd { mo .n8 .glob (.x 8) (.x 2) (.x 6) 0 with ty := .f32 },
       .red (kt 1) .add { mo .n8 .glob .none (.x 2) (.x 6) 0 with ty := .i32 }, .cas (kt 1) (mo .b32 .glob (.x 8) (.x 2) (.x 6) 0)].all (fun i =>
      located base i { tier := .glob, n := 4, reads := true, writes := true } [(.w64z, .x 2)] quiet) = true := by decide +kernel
/-- CSTORE and XLOAD with a lane for each of two threads; and a load whose page no entry and no table maps: its lanes miss. -/
theorem witness_AccessesArePosted_runs :
    located base (.cstore (kt 1) (mo .b32 .glob (.x 20) (.s 4) (.x 6) 0)) { tier := .glob, n := 4, reads := false, writes := true } [(.w64z, .s 4)] quiet = true
    ∧ located base (.xload (kt 1) (mo .b32 .smem (.x 8) (.s 4) .zero 0)) { tier := .smem, n := 4, reads := true, writes := false } [(.w32, .s 4)] quiet = true
    ∧ located (withGroup fun g => { g with s := [(5, 1)] }) (.ldg (kt 1) (mo .b32 .glob (.x 8) (.s 4) .zero 0))
        { tier := .glob, n := 4, reads := true, writes := false, mayTravel := true } [(.w64z, .s 4)] (·.miss) = true := by decide +kernel
theorem witness_FencesAndLineControl :
    goesWith base (.seal (kt 1) (mo .n8 .glob (.x 5) (.s 8) (.x 6) 0)) (fun e => decide ((e.opnd [(.w64z, .s 8), (.w32, .x 6)] e.lowest 0).toNat < 2 ^ 57)) = true
    ∧ goesWith base (.cctlWb (kt 1) (mo .n8 .glob .none (.x 2) .zero 0)) (fun e => e.act.all fun n => decide ((e.opnd [(.w64z, .x 2), (.w32, .zero)] n 0).toNat + 1 ≤ 2 ^ 57)) = true := by decide +kernel

/-! Lanes and operations (21 to 23): states in which an instruction has been posted. -/

def execed (i : Instr) (s : State) : State := match exec i s with | .next t => t | _ => State.reset
def firstOp (s : State) : Op := (s.group 0 0).ops.getD 0 { i := .nop k }
def firstLane (o : Op) : LaneOp := o.lanes.getD 0 { slot := 0, va := 0 }
/-- One active thread. -/
def alone (f : Group → Group) : State := withGroup fun g => f { g with threads := g.threads.take 1 }
/-- Whether nothing but the order of accesses keeps a lane from being performed at a place (State.open), and no tandem copy is concerned. -/
def ready_ (s : State) (a : Nat) : Bool :=
  let o := firstOp s; let l := firstLane o
  o.twin == none && !o.shadow && o.i.accKind.isSome && !o.i.moves && !l.done && l.refused == none && l.long == none && (l.trav == .no || l.trav == .fell)
    && (l.tier != .glob || l.key.isSome) && s.placeNow 0 l == (some a, false) && (l.tier != .glob || s.reaches (pdie 0) a) && s.poisonAt a l.size == none && !s.mustStall l.leaf a (.lane 0 0 o.id l.slot)
    && (l.tier != .glob || !s.flagged.contains (a / 2 ^ 16) && !s.leaseWaits a l.size true) && (s.core 0).tbuf.isEmpty && !(s.core 0).l1Pending none a l.size
def awaitsB (s : State) (ws : List RegWrite) : Bool :=
  ws.all (fun w => decide (w.code < 0xC0) && (decide (0x80 ≤ w.code) || ((s.group 0 0).thread? w.slot).isSome)) && decide (ws.Pairwise fun a b => a.meets b = false)
    && !(s.group 0 0).ended && (s.group 0 0).hazards.all fun h => h.op != some (firstOp s).id || !h.clob
def stored (tier : Tier) : State := execed (match tier with
  | .smem => .sts (kt 1) (mo .b32 .smem .none (.x 2) (.x 6) 0)
  | _ => .stg (kt 1) (mo .b32 .glob .none (.x 2) (.x 6) 0)) (alone id)
def loaded (tier : Tier) : State := execed (match tier with
  | .smem => .lds (kt 1) (mo .i8 .smem (.x 8) (.x 2) .zero 0)
  | _ => .ldg (kt 1) (mo .i8 .glob (.x 8) (.x 2) .zero 0)) (alone id)
def casWith (x6 : Word) : State := execed (.cas (kt 1) (mo .b32 .smem (.x 8) (.x 2) (.x 6) 0)) (alone fun g => { g with threads := g.threads.map fun t => { t with x := (6, x6) :: t.x } })
def unblocked (s : State) (all : Bool) : Bool := let o := firstOp s; !s.waits 0 0 o 0 (some (firstLane o)) && !(s.group 0 0).blocked 0 o 0 (some (firstLane o)) all
theorem witness_LaneEffects :
    (let s := stored .smem; ready_ s (windowKey 0 0x1000) && unblocked s true && !(firstOp s).lowerFirst (firstLane (firstOp s)) 6) = true
    ∧ (let s := stored .glob; ready_ s 0x1000 && cacheable (firstLane (firstOp s)).leaf && unblocked s false && !(firstOp s).lowerFirst (firstLane (firstOp s)) 1) = true
    ∧ (let s := loaded .smem; ready_ s (windowKey 0 0x1000) && unblocked s true && awaitsB s ((firstOp s).laneWrites 0 0)) = true
    ∧ (let s := loaded .glob; ready_ s 0x1000 && s.nearLoad 0 0 (firstOp s) (firstLane (firstOp s)) && ((s.core 0).forward 0x1000 1).isNone && unblocked s false && awaitsB s ((firstOp s).laneWrites 0 0)) = true
    ∧ (let s := casWith 0; ready_ s (windowKey 0 0x1000) && (firstOp s).i.accKind.any (fun x => !s.waitsAs 0 0 x (firstOp s) 0 (some (firstLane (firstOp s)))) && s.read (windowKey 0 0x1000) 4 == (firstLane (firstOp s)).v2.toNat) = true
    ∧ (let s := casWith 9; ready_ s (windowKey 0 0x1000) && (firstOp s).i.accKind.any (fun x => !s.waitsAs 0 0 { x with order := match x.order with | .rel => .rlx | .ar => .acq | x => x } (firstOp s) 0 (some (firstLane (firstOp s)))) && s.read (windowKey 0 0x1000) 4 != (firstLane (firstOp s)).v2.toNat) = true := by decide +kernel
/-- A state in which one SEAL or UNSEAL of a range is outstanding, with some entries of the seal table. -/
def sealing (i : Instr) (seals : List Seal) : State := { execed i base with seals }
def sealIsPosted (s : State) : Bool := decide ((firstOp s).args = [0x4000, 128]) && awaitsB s (dstWrites (.x 5) 1 ((firstOp s).act.map fun j => (j, 0)))
def sealed (n : Nat) : List Seal := (List.range n).map fun j => ⟨0, 0, 0x10000 + 128 * j, 128⟩
def sealI : Instr := .seal (kt 1) (mo .n8 .glob (.x 5) (.s 8) (.s 14) 0)
def with128 : State := withGroup fun g => { g with s := (14, 128) :: g.s }
theorem witness_OperationsComplete :
    (let s := execed (.frcp (kt 1) (u .f32 (.x 8) (.x 6) .zero .zero)) base; awaitsB s (firstOp s).writes && !(firstOp s).writes.isEmpty) = true
    ∧ (let s := loaded .smem; (firstOp s).lanes.length = 1 && (firstOp s).writes.isEmpty && (firstOp s).ue == none) = true
    ∧ (let s := execed (.fence (kt 1) { mo .n8 .glob .none .zero .zero 0 with scope := .dev, order := .acq }) base; !s.waitsAny 0 0 (firstOp s)) = true
    ∧ (let s := execed sealI with128; sealIsPosted s && !s.storeOutstanding 0 0x4000 128) = true
    ∧ (let s := { execed sealI with128 with seals := sealed 64 }; (s.seals.filter fun x => x.die == pdie 0 && x.ctx == 0).length = 64 && s.seals.all fun x => !rangesMeet x.start x.len 0x4000 128) = true
    ∧ rangesMeet 0x4000 128 0x4000 128 = true
    ∧ (let s := { execed (.unseal (kt 1) (mo .n8 .glob (.x 5) (.s 8) (.s 14) 0)) with128 with seals := [⟨0, 0, 0x4000, 128⟩] }; sealIsPosted s && !s.sourceLocked 0 0x4000 128) = true := by decide +kernel

end Sys2Proof.Tests
end

