-- ==== Sys2Proof/Tests/WitnessSystem.lean ====
section
/-! SUPPORT. For the statements about traps, system registers, the step, the fetch and translation: concrete states and operands that meet
the hypotheses of their clauses together. -/

-- one theorem is elaborated after another: waiting threads hold memory
set_option Elab.async false

namespace Sys2Proof.Tests

open Sys2Proof.Machine

/-! Traps (24, 25). -/

def withHandler (s : State) (rec_ : Word) : State := s.modCtx 0 fun x => { x with tveclo := 0xFFFFFFC1, tvechi := 0x01FFFFFF, trecbase := rec_ }
/-- TrapEntry: a handler in the last line of the address space, with a record area that may be written (the last group has its last
record), with one that reaches beyond the window, without one; no handler; a handler that is running. -/
theorem witness_TrapEntry :
    (let s := withHandler base 1; let d := s.ctx 0
     bit d.tveclo.toNat 0 && pcAligned (BitVec.ofNat 64 (d.tveclo.toNat / 2 * 2 + d.tvechi.toNat % 2 ^ 25 * 2 ^ 32)) && bit d.trecbase.toNat 0 && (s.core 0).mirrorHit 0 128 == none
       && decide (0 + 128 ≤ carveBytes (s.core 0).carve) && !(s.group 0 0).handler && !s.halted (pdie 0)) = true
    ∧ ¬(bits (0x003FFF81 : Nat) 21 7 * 128 + 128 * 63 + 128 ≤ carveBytes 4) ∧ bit (0x003FFF81 : Nat) 0 = true
    ∧ (let s := base; bit (s.ctx 0).tveclo.toNat 0 == false && (s.partOf (pdie 0)).any fun e => e.2.halt == none) = true
    ∧ (let s := withHandler (withGroup fun g => { g with handler := true }) 0; (s.group 0 0).handler && (s.partOf (pdie 0)).any fun e => e.2.halt == none) = true := by decide +kernel
def inHandler (pc : Nat) : State := withGroup fun g => { g with
  handler := true, threads := g.threads.map fun t => { t with inH := true }, s := [(62, BitVec.ofNat 32 pc), (63, BitVec.ofNat 32 (pc / 2 ^ 32))] }
/-- SoftwareTrapsAndReturn: both ends of the code; TRET outside a handler, to a slot, to an address that is none, to one at 2^57. -/
theorem witness_SoftwareTrapsAndReturn :
    goesOn base (.trap k 0) = true ∧ goesOn base (.brk k 65535) = true ∧ goesWith base (.tret k false) (fun e => !e.g.handler) = true
    ∧ goesWith (inHandler 0x1030) (.tret k true) (fun e => let pc := pairOf (e.reg e.lowest 0xBE 0) (e.reg e.lowest 0xBF 0)
      e.g.handler && pcAligned (nextPC pc) && decide ((nextPC pc).toNat < 2 ^ 57)) = true
    ∧ goesWith (inHandler 0x1002) (.tret k false) (fun e => !pcAligned (pairOf (e.reg e.lowest 0xBE 0) (e.reg e.lowest 0xBF 0))) = true
    ∧ goesWith (inHandler (2 ^ 57)) (.tret k false) (fun e => decide (2 ^ 57 ≤ (pairOf (e.reg e.lowest 0xBE 0) (e.reg e.lowest 0xBF 0)).toNat)) = true := by decide +kernel

/-! System registers, HALT, TLBI and debugging (26 to 29). -/

def rights (s : State) (watch step : Bool) : State := s.modCtx 0 fun x => { x with inj := true, watch, step }
/-- A state in which group 1 is debug-stopped. -/
def stopped : State := withCore (coreOf [{ grp with s := [(9, 1), (10, 0x5000), (11, 0x2001)] ++ grp.s }, { idle with dbgStop := some 0 }])
/-- SystemRegisterReads and SystemRegisterWrites: the counters' ends, a partition for RELTH, banks 0 and 2047 of the partition; a debug
register with and without rights, DBGCTL's single stepping without its right, a register that needs none. -/
theorem witness_SystemRegisters :
    goesOn base (.cntr (kt 1) (.x 8) 31) = true ∧ goesOn base (.sysr (kt 1) (.x 8) 65535) = true
    ∧ (base.part (base.ctx 0).desc.part).isSome = true ∧ (base.partOf (0 / 2048)).isSome = true ∧ (base.partOf (2047 / 2048)).map (·.1) = some (base.ctx 0).desc.part
    ∧ goesOn base (.sysw (kt 1) (.x 6) 0x110) = true ∧ (base.ctx 0).watch = false ∧ goesOn (rights base true false) (.sysw (kt 1) (.x 6) 0x11D) = true
    ∧ goesOn (rights base true false) (.sysw (kt 1) (.x 6) 0x11F) = true ∧ ((rights base true false).ctx 0).step = false
    ∧ goesOn base (.sysw (kt 1) (.x 6) 0x207) = true ∧ (base.core 0).wg.isSome = true ∧ (base.group 0 0).headSet false ≠ [] := by decide +kernel
/-- HaltAndInvalidation: HALT inside and outside a system context, once more where the line is raised; TLBI of the own ASID, of another's. -/
theorem witness_HaltAndInvalidation :
    goesOn (sys base) (.halt k 65535) = true ∧ goesOn base (.halt k 0) = true ∧ ((sys base).partOf (pdie 0)).isSome = true
    ∧ goesOn { sys base with parts := [(0, { size := 1, halt := some { cause := 0x86, tick := 0 } })] } (.halt k 1) = true
    ∧ goesWith base (.tlbiAsid (kt 1) (.s 62)) (fun e => e.low32 (.s 62) % 2 ^ 16 == (e.s.ctx e.ctx).desc.asid && e.canPost (kt 1)) = true
    ∧ goesWith base (.tlbiVa (kt 1) (.s 4) (.s 12)) (fun e => (e.opnd [(.w64z, .s 4), (.w32, .s 12)] e.lowest 1).toNat % 2 ^ 16 != (e.s.ctx e.ctx).desc.asid) = true := by decide +kernel
/-- DebugAccess: selectors of register 0 of thread 0 of group 1 (debug-stopped), of a register kind that does not exist, of s0 of group 1 where
it runs. -/
theorem witness_DebugAccess :
    goesWith (rights stopped true true) (.dbgr (kt 1) ⟨.x 20, .s 9, .zero, 0⟩) (fun e => e.low32 (.s 9) == 1 && e.canPost (kt 1)
      && e.w.any fun w => ((w.groups.getD 1 {}).dbgStop == some 0) && (w.groups.getD 1 {}).run == none && decide (1 < w.groups.length)) = true
    ∧ goesWith (rights stopped true true) (.dbgw (kt 1) ⟨.x 20, .s 9, .x 6, 0⟩) (fun e => ((e.s.group e.p 1).thread? 0).isSome) = true
    ∧ goesWith (rights stopped true true) (.dbgw (kt 1) ⟨.x 20, .s 11, .x 6, 0⟩) (fun e => bits (e.low32 (.s 11)) 15 12 == 2) = true
    ∧ goesWith (rights base true true) (.dbgr (kt 1) ⟨.x 20, .s 12, .zero, 0⟩) (fun e => e.low32 (.s 12) == 1 && e.w.any fun w => (w.groups.getD 1 {}).dbgStop == none) = true
    ∧ goesWith (rights stopped true true) (.dbgr (kt 1) ⟨.x 20, .s 10, .zero, 0⟩) (fun e => bits (e.low32 (.s 10)) 15 12 == 5 && bits (e.low32 (.s 10)) 5 0 == 0 && !e.g.handler) = true
    ∧ goesWith (rights (withGroup fun g => { g with s := [(9, 0x6000)] }) true true) (.dbgr (kt 1) ⟨.x 20, .s 9, .zero, 0⟩) (fun e => decide (6 ≤ bits (e.low32 (.s 9)) 15 12)) = true
    ∧ goesOn base (.dbgr (kt 1) ⟨.x 20, .x 6, .zero, 0⟩) = true ∧ (base.ctx 0).watch = false := by decide +kernel

/-! The step and the fetch (30 to 32). -/

/-- Base with a word in slot 0 and its line word. -/
def withWord (w : Nat) : State := let s := State.reset.withFetchWord 96 w
  { s with cores := minsert s.cores 0 (coreOf [grp, idle]) }
def fetched (s : State) (f : Option (Option (BitVec 96)) → Bool) : Bool := f (match s.fetch 0 0 with | .word _ w => some (some w) | .stop _ => some none)
theorem witness_StepRunsDecodedInstruction :
    ({ base with inbox := [.cadenceTick] } : State).tick.inbox = [.cadenceTick]
    ∧ (base.tick.inbox = [] ∧ base.tick.canIssue 0 0 = true ∧ fetched base.tick (fun r => r == some (some (BitVec.ofNat 96 (word 0x40 0 0 0xFF 0xFF 0xFF 0xFF 0 0)))) = true)
    ∧ (decode (BitVec.ofNat 96 (word 0x40 0 0 0xFF 0xFF 0xFF 0xFF 0 0))).toOption = some (.nop k)
    ∧ fetched (withWord (word 0x19 0 0 0 0 0 0 0 0)).tick (fun r => (r.bind id).any fun w => (decode w).toOption == none) = true
    ∧ fetched (withGroup fun g => { g with threads := g.threads.map fun t => { t with pc := 2 } }).tick (fun r => r == some none) = true := by decide +kernel
/-- InstructionFetch: the line of the last slot of page 0; its line word is sound, or one bit is wrong; a transfer of control to a slot that
is not marked; a parity bit that does not fit. -/
def fetching (pc : DWord) (target : Option DWord) (lw : Nat) (w : Nat) : State :=
  let s := withGroup fun g => { g with threads := g.threads.map fun t => { t with pc, target } }
  { s with mem := memWrite (memWrite (memWrite s.mem 0xFFC0 64 0) (0xFFC0 + 48) 12 w) (0xFFC0 + 60) 4 lw }
def lineIs (s : State) (sound target parity : Bool) : Bool :=
  let lw := s.read 0xFFFC 4; let w := s.read (0xFFC0 + 48) 12
  let ones (v m : Nat) : Nat := (List.range m).countP v.testBit
  (s.core 0).tlbFind 0 0xFFC0 == some { asid := 0, base := 0, size := 2 ^ 16, leaf := 0x73 } && s.leafRefuse 0x73 (2 ^ 16) .fetch == none && leafKey 0x73 (2 ^ 16) 0xFFC0 == 0xFFC0 && s.reaches (pdie 0) 0xFFC0
    && !s.leaseWaits 0xFFC0 64 false && (s.group 0 0).trapDue == none
    && s.poisonAt 0xFFC0 64 == none && (s.core 0).wg.all (·.tandem.isNone) && !(s.group 0 0).headGone false && (bits lw 16 0 == 0 && ones lw 32 % 2 == 0) == sound && (s.group 0 0).deferred == []
    && ((((s.group 0 0).thread? 0).any (·.target.isNone)) || bit lw (27 + 4)) == target && (bit lw (22 + 4) == decide (ones w 96 % 2 = 1)) == parity
theorem witness_InstructionFetch :
    lineIs (fetching 0xFFF0 (some 0) (2 ^ 31 + 2 ^ 21) 3) true true true = true ∧ lineIs (fetching 0xFFF0 (some 0) (2 ^ 31) 3) false true true = true
    ∧ lineIs (fetching 0xFFF0 (some 0) 0 3) true false true = true ∧ lineIs (fetching 0xFFF0 none (2 ^ 26 + 2 ^ 21) 3) true true false = true
    ∧ (((fetching 0xFFF1 none 0 3).group 0 0).threads.all fun t => !([0, 12, 24, 36, 48].contains (t.pc.toNat % 64))) = true := by decide +kernel
/-- ChecksBeforeEffects: a register beyond the kernel's count; an under-waited register in checked mode; the 24th instruction of a run. -/
def begins (s : State) (i : Instr) (f : Ctl → Iss → Bool) : Bool := i.wf && ((encodeFields i).bind (·.ctl)).any fun c => (s.begin c 1).any fun e => f c (e.drawn s.draws)
theorem witness_ChecksBeforeEffects :
    (let s := withCore { coreOf [grp, idle] with wg := some { wgOf [grp, idle] with regs := 32 } }
     begins s (.iadd k (u .i32 (.x 32) (.x 6) (.x 6) .zero)) fun _ e => !legalFor (e.w.elim 128 (·.regs)) (e.s.ctx e.ctx).accept (.iadd k (u .i32 (.x 32) (.x 6) (.x 6) .zero))) = true
    ∧ (let s := (withGroup fun g => { g with hazards := [{ slot := 1, code := 6, old := none, till := .tok 1 0 }] }).modCtx 0 fun x => { x with checked := true }
       let i := Instr.iadd k (u .i32 (.x 8) (.x 6) (.x 6) .zero)
       begins s i fun c e => (e.s.ctx e.ctx).checked && legalFor 128 (e.s.ctx e.ctx).accept i && (hazardBreak e.g c i e.head e.act == some (6, 1))) = true
    ∧ (let s := withGroup fun g => { g with run := some { count := 23 } }
       begins s (.nop k) fun c e => e.g.run.elim 0 (·.count) == 24 && !c.e && ueBreak e.g c (.nop k) e.head e.act == none && !(e.s.ctx e.ctx).checked && (debugBreak (e.s.ctx e.ctx) e.gi e.pc).isNone) = true := by decide +kernel

/-! Translation (33). -/

/-- Base with one table entry at an offset of stack 0, and the root table at 0x8000. -/
def table (l : List (Nat × Nat)) : State := let s := base.modCtx 0 fun x => { x with desc := { x.desc with root := 0x8000 } }
  { s with mem := l.foldl (fun m e => memWrite m e.1 8 e.2) s.mem }
/-- Tables of levels 4 to 1 at 0x8000, 0x9000, 0xA000 and 0xB000 over a last entry for address 0x10000 at 0xC008. -/
def walked (e : Nat) : State := table [(0x8000, 0x9001), (0x9000, 0xA001), (0xA000, 0xB001), (0xB000, 0xC001), (0xC008, e)]
theorem witness_TranslationAnswers :
    (walked 0x20073).walk 0 0x10000 = .leaf (2 ^ 16) 0x20073 ∧ (walked 0x2003B).walk 0 0x10000 = .refused ⟨0x10, 2⟩ ∧ (walked 0xC).walk 0 0x10000 = .refused ⟨0x10, 1⟩
    ∧ (walked 0x2007A).walk 0 0x10000 = .short (2 ^ 16) 0x2007A 0xC008 ∧ (walked 0).walk 0 0x10000 = .long ∧ (table []).walk 0 0x10000 = .long
    ∧ (walked 0x20001).walk 0 0x10000 = .refused ⟨0x10, 2⟩
    ∧ (({ walked 0x20073 with poison := [(0xC008 / 32, 1)] } : State).walk 0 0x10000) = .refused ⟨0x10, 3⟩
    ∧ (((walked 0x20073).modCtx 0 fun x => { x with desc := { x.desc with frslots := 1, frstack := 0, frbase := 0 } }).walk 0 0x10000) = .refused ⟨0x11, 4⟩
    ∧ permRefuse 0x20013 .write = some ⟨0x11, 2⟩ ∧ ({ walked 0x20073 with leases := [(256, { line := 256, holder := some 1, write := true, since := 0 })] } : State).walk 0 0x10000 = .wait ∧ ([0x8000, 0x9000, 0xA000, 0xB000, 0xC008].any fun k => (walked 0x20073).leaseWaits k 8 false || (walked 0x2007A).leaseWaits k 8 false) = false
    ∧ (walked 0x2007A).anyRetired 0x20000 (2 ^ 16) = false ∧ base.leafRefuse 0x73 (2 ^ 16) .rmw = none ∧ base.leafRefuse 0x13 (2 ^ 16) .write = some ⟨0x11, 2⟩ ∧ (base.core 0).tlbFind 0 0x10000 = none ∧ ((base.core 0).tlbFind 0 0xFFFF).isSome = true ∧ bit 0x20073 13 = false := by decide +kernel

end Sys2Proof.Tests
end

