-- ==== Sys2Proof/Tests/WitnessArrays.lean ====
section
/-! SUPPORT. For the statements about the arrays of a core: concrete states and operands that meet the hypotheses of their clauses
together, at the ends of their ranges where a clause has one. -/

-- one theorem is elaborated after another: waiting threads hold memory
set_option Elab.async false

namespace Sys2Proof.Tests

open Sys2Proof.Machine

/-! The states. -/

/-- Base with other arrays. -/
def arrays (f : ArrayCore → ArrayCore) : State := withCore { coreOf [grp, idle] with arr := f (coreOf [grp, idle]).arr }
/-- An MMA on sub-array 0 into its tile 2. -/
def job : Job :=
  { rcd := { shape := .ind, rep := 0, dense := false, sw := 0, qmask := 1, kreg := 0, acc := 2, base := 0, instr := .nop k, pc := 0 }, b := [], refs := [], ctx := 0 }
def failing (f : Fail) : State := arrays fun a => { a with fails := [f] }
def failed : Fail := { job, stages := [] }
/-- n operations in the array order of sub-array 0. -/
def queuedOps (n : Nat) (a : ArrayCore) : ArrayCore := { a with ops := (List.range n).map fun j => { kind := .ard 0 0, qmask := 1, group := 1, op := j } }
/-- A tile of sub-array 0. -/
def tiled (y : Tile) : State := arrays fun a => a.modSub 0 fun x => { x with tiles := [y] }
def soundTile : Tile := { base := 32, width := 8, dense := false, writing := false }

/-! Statements 34 to 41. -/

/-- ArrayModeIssues: an unresolved failure, seven operations, eight of them; ACAL on sub-arrays in multiply mode and in storage mode. -/
theorem witness_ArrayModeIssues :
    [Instr.amodeSto (kt 1) 1, .amodeMul (kt 1) 15, .acal (kt 1) 3].all (fun i =>
      goesOn (failing failed) i && goesOn (arrays (queuedOps 7)) i && goesOn (arrays (queuedOps 8)) i && goesOn base i) = true
    ∧ ((qsOf 15).findSome? ((failing failed).arr 0).failOn).isSome = true ∧ (((arrays (queuedOps 7)).arr 0).opsOn 0).length = 7 ∧ (((arrays (queuedOps 8)).arr 0).opsOn 0).length = 8
    ∧ (base.arr 0).subs.length = 4 ∧ (base.arr 0).orderedMul 0 = true
    ∧ goesOn (arrays fun a => a.modSub 0 fun x => { x with mul := false }) (.acal (kt 1) 3) = true := by decide +kernel

def awrAt (tw base : Nat) : Instr := .awr (kt 1) (tile 0 0 tw base .none (.x 9) .zero)
def canWrite (s : State) (i : Instr) : Bool :=
  goesOn s i && ((s.arr 0).failOn 0).isNone && (s.arr 0).orderedMul 0 && decide (((s.arr 0).opsOn 0).length < 8) && decide (0 < (s.arr 0).subs.length)
/-- A state in which ALD's record is translated by the walker of its cluster. -/
def walking : State := { base with walkers := [(0, [{ asid := 0, base := 0, size := 2 ^ 16, leaf := 0x73 }])] }
def locates (s : State) (i : Instr) (q : AccReq) (os : List (RdAs × Src)) : Bool := goesWith s i fun e =>
  match (e.latched os).locate q [{ slot := e.lowest, a := (e.opnd os e.lowest 0).toNat }] with | .ok (_, los) => decide (los.length = 1) | _ => false
/-- TileWritesAndReads: a tile that ends at slot 256, and one that would end at 257 and is illegal by its word; the reads of a tile in each of its conditions. -/
theorem witness_TileWritesAndReads :
    canWrite base (awrAt 2 251) = true ∧ begins base (awrAt 2 252) (fun _ _ => true) = true ∧ widthOf 2 = 5
    ∧ locates base (awrAt 2 251) { tier := .smem, n := 512 * slotBytes 0, reads := true, writes := false, align := some 16 } [(.w32, .x 9)] = true
    ∧ canWrite walking (.ald (kt 1) (tile 0 0 0 248 .none (.x 4) (.x 6))) = true
    ∧ locates walking (.ald (kt 1) (tile 0 0 0 248 .none (.x 4) (.x 6))) { tier := .glob, n := 64, reads := true, writes := false, walker := true } [(.w64z, .x 4), (.w32, .x 6)] = true
    ∧ goesWith walking (.ald (kt 1) (tile 0 0 0 248 .none (.x 4) (.x 6))) (fun e =>
        match (e.latched [(.w64z, .x 4), (.w32, .x 6)]).recordAtIssue { i := .nop k, lanes := [], args := [1, 0] } 0x2000 1 0 e.s with | .ok _ => true | _ => false) = true
    ∧ (let i := Instr.wpre (kt 1) (tile 0 0 0 248 (.x 30) (.x 16) .zero)
       let s := withGroup fun g => { g with threads := g.threads.map fun t => { t with x := [(16, 0x4000), (17, 0), (18, 0), (19, 0)] ++ t.x } }
       canWrite s i && goesWith s i (fun e => e.regBlock (.x 16) 4 == [0x4000, 0, 0, 0] && e.w.isSome) && (s.core 0).freeLock == some 0 && (s.core 0).locks.isEmpty) = true
    ∧ (let i := Instr.ard (kt 1) (acc 0 0 32 (.x 20) (.x 6) .zero)
       canWrite base i = true ∧ ((base.arr 0).sub 0).tile? 32 = none
       ∧ [{ soundTile with writing := true }, { soundTile with fault := some .format }, { soundTile with fault := some .refused }, { soundTile with fault := some (.ue 1) }, soundTile].all
          (fun y => canWrite (tiled y) i && (((tiled y).arr 0).sub 0).tile? 32 == some y) = true) := by decide +kernel

/-- Threads of group 0 declared in register 0, with some of them signed. -/
def declared (ds ss : List (Nat × Nat)) : State :=
  arrays fun a => { (a.modSub 0 fun x => { x with tiles := [{ soundTile with base := 0 }] }) with kregs := [(0, { declared := ds, signed := ss })] }
def mma0 : Instr := .mma (kt 1) (mm .ind 1 (.x 16) (.x 40))
/-- MatrixSigning: MCONV of groups that exist (the last one), of one beyond them, and with a signature already made; an MMA before the last
signature and at it. -/
theorem witness_MatrixSigning :
    goesOn base (.mconv k 3 64 64 1 0) = true ∧ ((base.core 0).wg.any fun w => w.groups.length == 2) = true ∧ goesOn base (.mconv k 3 64 2 1 0) = true
    ∧ goesOn (declared [(0, 0), (1, 0)] [(1, 0)]) (.mconv k 0 64 64 1 0) = true
    ∧ [[(0, 0), (0, 1), (1, 0)], [(0, 0), (0, 1)]].all (fun ds => goesWith (declared ds []) mma0 fun e => e.canPost (kt 1)
        && e.head.all (fun n => ds.contains (e.gi, n)) && e.head == [0, 1]
        && (e.act.all fun n => headerOk 0 ((e.opnd [(.w32, .x 16), (.w32, .x 17), (.w32, .x 40)] n 2).toNat % 2 ^ 16))
        && ((declared ds []).arr 0).failOn 0 == none && ((declared ds []).arr 0).orderedMul 0
        && (((declared ds []).arr 0).sub 0).tile? 0 == some { soundTile with base := 0 }
        && decide ((((declared ds []).arr 0).opsOn 0).length < 8) && decide (((declared ds []).arr 0).mmasOn 0 < 3)) = true := by decide +kernel

/-- An MZERO of tile 2 of sub-array 0, posted and first in array order. -/
def zeroing : State := execed (.mzero (kt 1) 1 2) base
/-- AccumulatorInstructions: MZERO as the eighth operation and its end, and with a failure that writes its tile or another; MDRAIN and MACC of a settled tile and of one that a failure writes; MDRAIN's
addresses and pitches at their bounds. -/
theorem witness_AccumulatorInstructions :
    canWrite (arrays (queuedOps 7)) (.mzero (kt 1) 1 7) = true
    ∧ (let s := arrays fun a => queuedOps 2 { a with fails := [failed] }
       [2, 7].all (fun acc => goesWith s (.mzero (kt 1) 1 acc) fun e => e.canPost (kt 1)) = true ∧ (s.arr 0).fails = [failed] ∧ (s.arr 0).failOn 0 = some failed
         ∧ failed.job.rcd.tiles = [(0, 2)] ∧ failed.retry = none ∧ (s.arr 0).orderedMul 0 = true ∧ (s.arr 0).behind.length = 2)
    ∧ (let held : AOp := { kind := .mma { job with rcd := { job.rcd with acc := 3 } }, qmask := 1 }
       let s := arrays fun a => { a with fails := [failed], ops := [held] }
       (s.arr 0).failOfTile 0 3 = none ∧ (s.arr 0).behind.find? (·.1.addsTo 0 3) = some (held, failed) ∧ goesOn s (.mdrain (kt 1) (acc 0 3 255 .none (.x 9) .zero)) = true
         ∧ goesOn s (.macc (kt 1) (acc 0 3 255 (.x 24) (.x 12) .zero)) = true)
    ∧ (let o := acc 0 2 255 .none (.x 9) .zero; let d := Instr.mdrain (kt 1) o; let m := Instr.macc (kt 1) (acc 0 2 255 (.x 24) (.x 12) .zero)
       let pitched (p : Word) : State := withGroup fun g => { g with threads := g.threads.map fun t => { t with x := [(10, p)] } }
       canWrite base d = true ∧ canWrite base m = true ∧ (base.arr 0).failOfTile 0 2 = none ∧ (base.arr 0).ops = []
       ∧ ((failing failed).arr 0).failOfTile 0 2 = some failed ∧ goesOn (failing failed) d = true ∧ goesOn (failing failed) m = true
       ∧ goesOn base (.mdrain (kt 1) { o with off := 8 }) = true ∧ goesOn (pitched 496) (.mdrain (kt 1) { o with b := .x 10 }) = true
       ∧ goesOn (pitched 520) (.mdrain (kt 1) { o with b := .x 10 }) = true
       ∧ (goesWith (pitched 512) (.mdrain (kt 1) { o with b := .x 10, clr := true }) fun e => (List.range 16).all fun r =>
          match (e.latched [(.w32, .x 9), (.w32, .x 10)]).locate { tier := .smem, n := 512, reads := false, writes := true, align := some 16 } [{ slot := e.lowest, a := r * 512 }] with
          | .ok (_, los) => decide (los.length = 1) | _ => false) = true)
    ∧ (let x : AOp := { kind := .mzero 2, qmask := 1, group := 0, op := 0 }
       ((zeroing.group 0 0).op? 0).any (fun o => o.i == .mzero (kt 1) 1 2 && o.twin.isNone && !o.shadow) = true
         ∧ (zeroing.arr 0).ops.find? (fun y => y.group == 0 && y.op == 0) = some x ∧ (zeroing.arr 0).canRun x = true) := by decide +kernel

def located_ : Fail := { failed with single := some (0, 3, 15, 127, -1) }
def retrying : Fail := { failed with retry := some (4, 0, 0) }
/-- MFIX posted where a failure writes its tile. -/
def fixing (f : Option Fail) : State := execed (.mfix (kt 1) (acc 0 2 255 (.x 9) .zero .zero)) (arrays fun a => { a with fails := f.toList })
/-- InspectionAndRepair: no failure, one that is not located, a located one, one that is being retried. -/
theorem witness_InspectionAndRepair :
    [Instr.mcks (kt 1) (acc 0 2 255 (.x 9) .zero .zero), .mloc (kt 1) (acc 0 2 255 (.x 10) .zero .zero), .ainfo (kt 1) 3 (acc 0 0 40 (.x 9) .zero .zero),
      .mfix (kt 1) (acc 0 2 255 (.x 9) .zero .zero), .mretry (kt 1) 3 (acc 0 2 255 (.x 9) .zero .zero)].all (fun i =>
      goesOn base i && goesOn (failing failed) i && goesOn (failing located_) i && goesOn (failing retrying) i) = true
    ∧ (base.arr 0).orderedMul 0 = true ∧ ((failing located_).arr 0).failOfTile 0 2 = some located_ ∧ ((failing retrying).arr 0).failOfTile 0 2 = some retrying
    ∧ [none, some failed, some located_, some retrying].all (fun f => let s := fixing f
        (firstOp s).i == .mfix (kt 1) (acc 0 2 255 (.x 9) .zero .zero) && (firstOp s).twin.isNone && !(firstOp s).shadow && (s.arr 0).failOfTile 0 2 == f
          && awaitsB s (dstWrites (.x 9) 1 ((firstOp s).act.map fun j => (j, 3)))) = true := by decide +kernel

/-- AWR of a tile at slot 32 from the scratchpad, posted. -/
def tileWriting : State := execed (.awr (kt 1) (tile 0 0 0 32 .none (.x 9) .zero)) base
def calibrating (x : Option AKind) : State := arrays fun a => { (a.modSub 0 fun y => { y with calDue := true }) with ops := x.toList.map fun y => { kind := y, qmask := 1 } }
/-- ArrayEvents: a change of mode whose turn has come; due calibrations with no operation, before an MMA, for ACAL; a tile write that is first in its
order, with blocks of zeros and with a tag that there is not. -/
theorem witness_ArrayEvents :
    (let s := arrays fun a => { a with ops := [{ kind := .mode false, qmask := 15 }] }; (s.arr 0).subs.length = 4 ∧ (List.range 4).all (fun q => !s.windowBusy 0 q) = true)
    ∧ [none, some (.mma job), some .cal].all (fun x => ((calibrating x).core 0).calDue 0 && (((calibrating x).arr 0).sub 0).mul
        && ((calibrating x).arr 0).failOn 0 == none && ((calibrating x).arr 0).ops.find? (·.names 0) == x.map fun y => { kind := y, qmask := 1 }) = true
    ∧ (let s := tileWriting; let o := firstOp s; let x : AOp := { kind := .write 0 32 8, qmask := 1 }
       (s.arr 0).ops.find? (·.names 0) = some x ∧ (s.arr 0).canRun x = true ∧ o.lanes.length = 1 ∧ (firstLane o).va = 0 ∧ o.twin.isNone = true ∧ o.shadow = false
         ∧ (s.group 0 0).blocked 0 o 0 (some (firstLane o)) true = false ∧ (((s.arr 0).sub 0).tile? 32).isSome = true ∧ o.args.headD 34 = 34
         ∧ s.poison = []) := by decide +kernel
theorem witness_ArrayEvents_blocks :
    (match buildTile false 34 8 (fun _ => 0) (List.replicate 512 (RawIn.block (List.replicate 34 0x80))) with | .ok _ => true | .error _ => false) = true
    ∧ (match buildTile false 34 8 (fun _ => 0) (List.replicate 512 (RawIn.block (List.replicate 34 0x7F))) with | .ok _ => false | .error _ => true) = true := by decide +kernel

/-- A job whose one sub-array has a tile of NaN blocks. -/
def jobNone : Job := { job with tiles := [(0, { soundTile with base := 0, blocks := List.replicate 512 { nan := true, zero := false } })] }
def whole_ (j : Job) : Bool := (List.range 4).all fun k => !j.rcd.qmask.testBit k || j.tiles.any (·.1 == k)
def sumEmpty (s : State) (rep : Nat) (inj : Option Word) : Bool :=
  let r := s.draw.runPass 0 jobNone rep inj; let v := r.1.judge jobNone rep r.2; whole_ jobNone && accepted r.2 v.1 v.2 && (s.core 0).mayPass
/-- MatrixVerdicts: a job whose pairs are all resolved, first in its order or failed and retried: every check passes. -/
theorem witness_MatrixVerdicts_pass :
    (let o : AOp := { kind := .mma jobNone, qmask := 1 }; let s := arrays fun a => { a with ops := [o] }
     (s.arr 0).ops.find? (·.names 0) = some o ∧ (s.arr 0).canRun o = true ∧ (List.range 4).all (fun q => !(s.core 0).calDue q) = true ∧ sumEmpty s 0 none = true)
    ∧ (let f := { retrying with job := jobNone }; let s := failing f; (s.arr 0).failOn 0 = some f ∧ sumEmpty s 4 none = true) := by decide +kernel
/-- A job of one block of A whose 32 aligned integers are 1, and one block of B with 32 elements of 1.0 (E4M3), both of scale 127. -/
def jobOne : Job :=
  { job with
    tiles := [(0, { soundTile with base := 0, blocks := [{ tag := 0, scale := 127, a := List.replicate 32 1, zero := false }] })]
    b := [{ hdr := some 0x7F00, codes := List.replicate 32 0x38 }] }
def colsFail (s : State) (rep : Nat) (inj : Option Word) : Bool := let r := s.draw.runPass 0 jobOne rep inj; let v := r.1.judge jobOne rep r.2; whole_ jobOne && !accepted r.2 v.1 v.2 && (s.core 0).mayPass
/-- The same with an uncorrectable error in the staging tile (R457): the contribution fails. -/
theorem witness_MatrixVerdicts_staging :
    (let o : AOp := { kind := .mma jobNone, qmask := 1 }; let s := { arrays (fun a => { a with ops := [o] }) with convErrs := [⟨0, 0, [], true⟩] }
     (s.arr 0).ops.find? (·.names 0) = some o ∧ (s.arr 0).canRun o = true ∧ (s.core 0).mayPass = true
       ∧ (let r := s.draw.runPass 0 jobNone 0 none; let v := r.1.judge jobNone 0 r.2; !accepted r.2 v.1 v.2) = true) := by decide +kernel
/-- The same, where a verdict fails: at the issue's pass an error is injected into row 0 of column 0 (R174), at a retry one is suffered there. -/
theorem witness_MatrixVerdicts_fail :
    (let o : AOp := { kind := .mma { jobOne with inj := some 0x80000001 }, qmask := 1 }; let s := arrays fun a => { a with ops := [o] }
     (s.arr 0).ops.find? (·.names 0) = some o ∧ (s.arr 0).canRun o = true ∧ colsFail s 0 (some 0x80000001) = true)
    ∧ (let f := { retrying with job := jobOne }; let s := { failing f with convErrs := [⟨0, 0, [(0, 0, 0, 1)], false⟩] }
       (s.arr 0).failOn 0 = some f ∧ colsFail s 4 none = true) := by decide +kernel
-- R83, R128, R130: 32 products of 1 and 1.0 are 32.0, in row 0 of column 0, and nothing elsewhere
theorem test_partialSum : let x := passIn jobOne 0 { soundTile with blocks := [{ tag := 0, scale := 127, a := List.replicate 32 1, zero := false }] }
    let d := (((x.convert 0 0 0 []).1.d).take 8).toArray
    x.partialSum d 0 0 = 0x42000000 ∧ x.partialSum d 0 1 = 0 := by decide +kernel
/-- SoundPassesPassTheirChecks: a tile with a block of 32 integers, and a captured row. -/
theorem witness_SoundPassesPassTheirChecks :
    (let t : Tile := { soundTile with blocks := [{ tag := 0, a := List.replicate 32 1, zero := false }] }
     (t.blocks.all fun b => b.zero || b.a.length == 32) = true ∧ ([{ hdr := some 0, codes := List.replicate 32 1 }] : List BBlock).all (fun b => b.codes.length == 32) = true) := by decide +kernel

end Sys2Proof.Tests
end

