-- ==== Sys2Proof/Tests/WitnessEngines.lean ====
section
/-! SUPPORT. For the statements about the asynchronous engines, the near-memory unit and migration: concrete states and operands that meet
the hypotheses of their clauses together. -/

-- one theorem is elaborated after another: waiting threads hold memory
set_option Elab.async false

namespace Sys2Proof.Tests

open Sys2Proof.Machine

/-! Copies and the near-memory unit (42 to 45). -/

/-- The group with registers x16 to x23 of thread 0 and s14. -/
def withRegs (l : List (Nat × Word)) (g : Group) : Group := { g with threads := g.threads.map fun t => { t with x := l ++ t.x } }
/-- A slice of 300 bytes from 0x1000 to 0x2000 of the scratchpad, by a group of its own; with a barrier at 0x100. -/
def slice : Group → Group := withRegs [(16, 0x1000), (18, 0x2000), (20, 304), (21, 0x100)]
/-- The walker of cluster 0 translates page 0. -/
def walked_ (s : State) : State := { s with walkers := [(0, [{ asid := 0, base := 0, size := 2 ^ 16, leaf := 0x73 }])] }
def copyI (bar : Nat) : Instr := .bcopy (kt 1) { cp 1 1 bar (.x 30) (.x 16) with scope := .grp }
def boxI : Instr := .bcopym (kt 1) { cp 1 0 0 (.x 30) (.x 16) with scope := .grp }
def copyable (s : State) (i : Instr) (n : Nat) (os : List Range) (bar : Nat) (off : Nat) : Bool :=
  goesOn s i && goesWith s i fun e => match e.w with
    | none => false
    | some w => let b := e.regBlock (.x 16) n; os.all (e.s.rangeOk w) && decide (b.length = n) && (w.copy? (s.group e.p e.gi).copyNo).isNone
        && decide ((w.copies.filter fun y => !y.started && !y.slices.isEmpty).length < 8) && (s.core e.p).past.isEmpty
        && (bar == 0 || ((e.s.windowOf w (if bar = 1 then .smem else .cmem) off 16).isSome && off % 16 == 0))
/-- EngineIssues: BCOPY without and with a barrier, up to the last byte of the window, BCOPYM, BROOM. -/
theorem witness_EngineIssues :
    copyable (withGroup slice) (copyI 0) 6 [(1, 0x1000, 304), (1, 0x2000, 304)] 0 0 = true
    ∧ copyable (withGroup (withRegs [(16, 458736), (18, 0x2000), (20, 16), (21, 0x100)])) (copyI 1) 6 [(1, 458736, 16), (1, 0x2000, 16)] 1 0x100 = true
    ∧ copyable (walked_ (withGroup (withRegs [(16, 0x4000), (18, 0x2000)]))) boxI 8 [(1, 0x2000, 0)] 0 0 = true
    ∧ goesWith (walked_ (withGroup (withRegs [(16, 0x4000), (18, 0x2000)]))) boxI (fun e => e.w.any fun w => match e.boxUnit w 0x4000 with | .ok _ => true | .error _ => false) = true
    ∧ goesOn base (.broom (kt 1)) = true := by decide +kernel
/-- NearMemoryAccesses: NMAR, GRED and NMA with lanes that the TLB translates and with one that misses; BDOT at each of its conditions. -/
theorem witness_NearMemoryAccesses :
    (let i := Instr.bdot (kt 1) (nm .add .f16 (.x 20) (.s 4) (.s 6) (.s 14)); let x (e : Iss) (j : Nat) : Nat := (e.opnd [(.w64z, .s 4), (.w64z, .s 6), (.w32, .s 14)] e.lowest j).toNat
       let v (s : State) (f : Nat → Nat → Bool) : Bool :=
         goesWith s i (fun e => e.canPost (kt 1) && !e.tandem && e.w == (s.core 0).wg && f (x e 0) (x e 1))
       v base (fun a b => decide (a < 2 ^ 57) && decide (b < 2 ^ 57) && a % 32 == 0 && b % 32 == 0 && ((base.core 0).lockHit 0 0 a 2 false 0).isNone && ((base.core 0).lockHit 0 0 b 2 false 0).isNone)
         && v (withGroup fun g => { g with s := (4, 16) :: g.s }) (fun a b => decide (a < 2 ^ 57) && decide (b < 2 ^ 57) && a % 32 != 0)
         && v (withGroup fun g => { g with s := (7, 0x2000000) :: g.s }) (fun _ b => decide (2 ^ 57 ≤ b))
         && v (withCore { coreOf [grp, idle] with locks := [(0, { opc := 0xA0, k := 0, srcs := [], dsts := [(0, 0x1000, 128)] })] })
           (fun a _ => ((withCore { coreOf [grp, idle] with locks := [(0, { opc := 0xA0, k := 0, srcs := [], dsts := [(0, 0x1000, 128)] })] }).core 0).lockHit 0 0 a 2 false 0 != none)) = true
    ∧ located base (.nma (kt 0) (nm .fadd .f32 .none (.x 2) (.x 4) .zero)) { tier := .glob, n := 4, reads := true, writes := true } [(.w64z, .x 2)] (!·.miss) = true
    ∧ located (withGroup fun g => withRegs [(3, 1)] g) (.nma (kt 0) (nm .fadd .f32 .none (.x 2) (.x 4) .zero)) { tier := .glob, n := 4, reads := true, writes := true }
        [(.w64z, .x 2)] (·.miss) = true
    ∧ located base (.nmar (kt 1) (nm .add .i32 (.x 8) (.x 2) (.x 6) .zero)) { tier := .glob, n := 4, reads := true, writes := true } [(.w64z, .x 2)] quiet = true
    ∧ located base (.gred (kt 1) (nm .max .n32 (.x 20) (.x 2) .zero .zero)) { tier := .glob, n := 4, reads := true, writes := false } [(.w64z, .x 2)] quiet = true
    ∧ located (withGroup fun g => withRegs [(3, 1)] g) (.gred (kt 1) (nm .max .n32 (.x 20) (.x 2) .zero .zero)) { tier := .glob, n := 4, reads := true, writes := false }
        [(.w64z, .x 2)] (·.miss) = true := by decide +kernel

/-- The copy, posted and started, in a changed state. -/
def copying (f : Copy → Copy) : State := let s := execed (copyI 0) (withGroup slice)
  { s with cores := s.cores.map fun e => (e.1, { e.2 with wg := e.2.wg.map fun w => { w with copies := w.copies.map fun y => f { y with started := true } } }) }
def mayTry (s : State) (j : Nat) (fix : Bool) : Bool := (s.sliceAt 0 0 0).any fun e =>
  e.1.k == 0 && e.2.group == 0 && e.2.i == copyI 0 && s.mayLand 0 e.1 e.2 j && e.1.bar == 0 && ((s.core 0).mirrorHit (e.2.dst + 128 * j) 128).isNone
    && (s.core 0).l1Stores.isEmpty && s.poison.isEmpty && decide (e.2.src + 304 ≤ 2 ^ 19) && decide (e.2.dst + 304 ≤ 2 ^ 19) && e.2.len == 304 && e.2.unitsLeft j != [] && (List.range 304).all (fun i => !s.lostAt (windowKey 0 (e.2.dst + i)))
    && (if fix then e.1.fix.head? == some (0, j) else !e.1.fix.contains (0, j) && decide (j < e.1.high e.2 + 32) && decide (e.1.fix.length < 64))
/-- CopiesProgress: the first segment and the last, which is shorter, whole and with units written; the replay of one; the end of a copy; a BROOM with nothing before it, and with an
operation and a copy that are over. -/
theorem witness_CopiesProgress :
    mayTry (copying id) 0 false = true ∧ mayTry (copying id) 2 false = true ∧ mayTry (copying fun y => { y with slices := y.slices.map fun x => { x with parts := [{ seg := 2, units := [0, 3] }] } }) 2 false = true ∧ mayTry (copying fun y => { y with fix := [(0, 1)] }) 1 true = true
    ∧ (let s := copying fun y => { y with slices := y.slices.map fun x => { x with written := [0, 1, 2], done := 304 } }
       ((s.core 0).copy? 0).any (fun y => y.over && y.slices.length == 1 && y.slices.all fun x => x.act == [0, 1] && (s.sliceOp 0 y x).any fun o =>
         o.1 == 0 && (s.group 0 0).op? o.2.id == some o.2 && o.2.twin.isNone && !o.2.shadow
           && awaitsB s (dstWrites x.copyOps.dst 2 (o.2.act.map fun n => (n, BitVec.ofNat 64 (y.status x))))) = true
         ∧ ((s.core 0).wg.all fun w => w.tandem.isNone) = true ∧ ((s.core 0).copy? 0).all (!s.barSaved ·) = true)
    ∧ (let s := execed (.broom (kt 1)) base; (firstOp s).i = .broom (kt 1) ∧ (firstOp s).args = [])
    ∧ (let s := alone fun g => { g with ops := [{ i := .broom (kt 1), issued := 9, args := [14, 17] }] }
       (s.everyOp.all (·.issued != 7)) = true ∧ s.panniers = [] ∧ (s.cores.all fun e => (e.2.past ++ e.2.wg.elim [] (·.copies)).all (·.no != 8)) = true) := by decide +kernel

/-- One thread's command, posted. -/
def command (i : Instr) (l : List (Nat × Word)) : State := execed i (alone (withRegs l))
def bdotI : Instr := .bdot (kt 1) (nm .add .f16 (.x 20) (.s 4) (.s 6) (.x 9))
/-- NearMemoryCommands: read-modify-writes (a compare that fits), a BDOT of no elements, of 2^24 and of one more, one with its sum; a GRED. -/
theorem witness_NearMemoryCommands :
    [Instr.nma (kt 0) (nm .fadd .f32 .none (.x 2) (.x 6) .zero), .nmar (kt 1) (nm .cas .b32 (.x 8) (.x 2) (.x 16) .zero)].all (fun i =>
      let s := command i [(16, 0), (17, 5)]; let o := firstOp s; ready_ s 0x1000 && o.ue.isNone && s.read 0x1000 4 == (firstLane o).v2.toNat
        && o.i.accKind.any (fun a => !s.waitsAs 0 0 a o 0 (some (firstLane o))) && awaitsB s (o.laneWrites 0 0)) = true
    ∧ [0, 1, 16777217].all (fun n => let s := command bdotI [(9, n)]; (firstOp s).args == [0x1000, 0x2000, n.toNat, 0, 0]
        && awaitsB s (dstWrites (.x 20) 2 ((firstOp s).act.map fun j => (j, 0)))) = true
    ∧ (let s := { walked_ (command bdotI [(9, 1)]) with berr := [(16, 0xFF), (32, 0xFF)] }; let o := firstOp s
       !s.waitsAny 0 0 o && !(s.group 0 0).readWaits 0 o [(0x1000, 2), (0x2000, 2)]
         && match (s.draw.dotGo 0 o.ctx o.host .f16 0x1000 0x2000 1 1 0 {}).2 with | .ok d => d.code == 0 && d.ue.isNone && d.r == 0 | .error _ => false) = true
    ∧ (let s := command (.gred (kt 1) (nm .max .n32 (.x 20) (.x 2) .zero .zero)) []; let o := firstOp s
       o.ue.isNone && o.lanes.all (fun l => l.refused.isNone && !s.waits 0 0 o l.slot (some l)
         && l.key.any fun q => decide (q < 2 ^ 40) && s.reaches (pdie 0) q && (s.poisonAt q 4).isNone && !(s.core 0).l1Pending none q 4
           && !s.leaseWaits q 4 false && !s.flagged.contains (q / 2 ^ 16))
         && awaitsB s (dstWrites (.x 20) 2 (o.act.map fun j => (j, 0)))) = true := by decide +kernel

/-! Migration (46, 47). -/

/-- Two cores of the package, the second with a workgroup of the same context. -/
def neighbours (f : Group → Group) (c : Core) : State :=
  let s := withGroup f
  { s with cores := minsert s.cores 1 c, lmap := [] }
def near_ : Core := { coreOf [idle, idle] with wg := some { wgOf [idle, idle] with lcore := 1 } }
def toCluster (a : Word) : State := neighbours (withRegs [(9, a)]) near_
def migI : Instr := .migto (kt 0) ⟨true, .none, .x 9, 0⟩
def reqs (s : State) (i : Instr) (o : MigOps) (f : Iss → LaneOp → Bool) : Bool := goesWith s i fun e =>
  match (e.latched (e.migReqs o).2.2).locate (e.migReqs o).1 (e.migReqs o).2.1 with | .ok (_, los) => !los.isEmpty && los.all (f e) | _ => false
/-- A guest of core 0 that came from core 1. -/
def guestCtx : Group :=
  { threads := [{ th 5 [] with origin := some { ctx := 0, core := 1, group := 0, lane := 1 }, hop := 1, carried := [0] }], run := some {} }
def guest_ : State := { (withCore { coreOf [idle, idle] with guests := guestCtx }) with focus := (0, guestIx) }
theorem witness_MigrationInstructions :
    goesOn base (.migset k 0x000000108104) = true
    ∧ reqs (toCluster 0) migI ⟨true, .none, .x 9, 0⟩ (fun _ l => !l.miss && l.trav != .due) = true
    ∧ reqs (toCluster 0x400000) migI ⟨true, .none, .x 9, 0⟩ (fun _ l => !l.miss && l.trav == .due) = true
    ∧ goesWith base (.migret k) (fun e => !e.guest) = true ∧ goesWith guest_ (.migret k) (fun e => e.guest && !e.act.isEmpty) = true
    ∧ goesOn base (.migq (kt 3) ⟨true, .x 10, .x 6, 0⟩) = true
    ∧ goesWith (toCluster 0) (.nop k) (fun e => let q (a : Int) : Option LaneOp := e.place (e.migReqs ⟨true, .none, .x 9, 0⟩).1 (lr 0 a)
        (q (-1)).isNone && (q 0).any (·.lc == 0) && (q 0x400000).any (fun x => x.lc == 1 && !(e.thread 0).returns 1 && decide ((e.thread 0).hop < 4)
          && e.s.refuses 0 1 0 == none)) = true := by decide +kernel

/-- MIGTO to core 1, issued by one thread; then with its slot asked for, and to be asked for again. -/
def leaving (t : Trav) : State :=
  let s := execed migI (toCluster 0x400000)
  { s.modGroup 0 0 (fun g => { g with ops := g.ops.map fun o => { o with lanes := o.lanes.map fun l => { l with trav := t } } }) with cadence := 4 }
def asking (s : State) (n : Nat) : Bool :=
  ((s.group 0 0).ops.findSome? fun o => (o.lanes.find? fun l => l.slot == 1 && l.trav == .asked n).map fun l => (o, l)).any fun e =>
    s.dest 0 0 e.1 e.2 == some 1 && !s.moving 1 && ((s.group 0 0).thread? 1).any (fun u => !u.returns 1) && (s.refuses (s.logical 0) 1 (s.ctxAt 0 0 1)).isNone && e.1.ue.isNone
/-- Core 1 with every guest slot taken. -/
def full (s : State) : State := s.modCore 1 fun c => { c with guests := { threads := (List.range 64).map fun n => th n [] } }
def landing (dest : Nat) (origin : Origin) : State :=
  { (neighbours (fun g => { g with threads := g.threads.map fun t => { t with st := if t.slot = 1 then .away else .ready, cur := 1 } }) near_) with
    panniers := [(7, { kind := 0, origin, hop := 4, live := 3, pc := 12, p := 5, regs := [(0, 1), (1, 2)], dest, slot := 63 })], nextPannier := 8 }
/-- TravelEvents: a departure after its drain; an answer with a slot and without; a retry at its first tick; a guest's arrival in slot 63 and a
return; an honoured relocation and its remap. -/
theorem witness_TravelEvents :
    (let s := leaving .due; ((s.group 0 0).travelling (· == .due)).any (fun o => s.departReady 0 0 o && ((s.group 0 0).threads.all (·.bound.isNone)) && o.lanes.all (fun l => l.refused.isNone
       && ((s.group 0 0).thread? l.slot).any fun u => (s.dest 0 0 o l).any fun d => (refusedAtDrain o.i u d).isNone)) = true)
    ∧ (asking (leaving (.asked 17)) 17 && ((leaving (.asked 17)).freeSlots 1).head? == some 0) = true
    ∧ (asking (full (leaving (.asked 16))) 16 && ((full (leaving (.asked 16))).freeSlots 1).isEmpty) = true
    ∧ (let s := { leaving (.again 16 1000) with ticks := 1256 }; ((s.group 0 0).ops.any fun o => o.lanes.any fun l => l.slot == 1 && l.trav == .again 16 1000) = true)
    ∧ (let s := landing 1 { ctx := 0, core := 0, group := 0, lane := 1 }; (s.moving 1) = false ∧ (s.core (s.phys 1)).guests = {})
    ∧ (let s := landing 0 { ctx := 0, core := 0, group := 0, lane := 1 }; (mfind s.panniers 7).any (s.originPlaced ·) = true ∧ s.moving 0 = false)
    ∧ (let s := withCore { coreOf [{ grp with run := none }, idle] with wg := some { wgOf [{ grp with run := none }, idle] with reloc := true, target := some 3 } }
       (s.core 0).atBoundary = true ∧ s.halted (pdie 0) = false)
    ∧ (let s := withCore { coreOf [{ grp with run := none }, idle] with wg := some { wgOf [{ grp with run := none }, idle] with reloc := true, target := some 3, honoured := true } }
       (s.core 0).drainedForMove = true ∧ s.halted (pdie 0) = false ∧ s.logical 0 ≠ s.logical 3 ∧ Memory.wf s.mem = true) := by decide +kernel

end Sys2Proof.Tests
end

