-- ==== Sys2Proof/Tests/WitnessDevice.lean ====
section
/-! SUPPORT. For the statements about the device, the command processor, halts and the management path: concrete states that meet the hypotheses
of their clauses together, at the ends of their ranges where a clause has one. A hypothesis about a free value (a signature that verifies) is
met by no state that can be written down: the states are those up to it. -/

-- one theorem is elaborated after another: waiting threads hold memory
set_option Elab.async false

namespace Sys2Proof.Tests

open Sys2Proof.Machine

/-! The device (48 to 51). -/

/-- Core 0 with lanes that wait for an invalidation. -/
def stale (n : Nat) : State :=
  let l : LaneOp := { slot := 0, va := 0x1000, invals := [2 * n] }
  { (alone fun g => { g with ops := [{ i := .ldg (kt 1) (mo .b32 .glob (.x 8) (.x 2) .zero 0), lanes := [l] }] }) with syncs := [⟨65535, 2⟩] }
/-- MissesAndInvalidation: a short miss of page 0x10000, to be filled, with its entry as it was read, and with a changed entry; a record answered with 1; a SYNC with and without
something older. -/
theorem witness_MissesAndInvalidation :
    (let s := { walked 0x2007A with misses := [(3, { ctx := 0, page := 0x10000, write := false })] }
     s.walk 0 0x10000 = .short (2 ^ 16) 0x2007A 0xC008 ∧ stackKey (pteStack 0x2007A) (pteFrame 0x2007A) = 0x20000 ∧ s.lostAt 0x20000 = false
       ∧ ((mfind s.misses 3).all (·.swap.isNone)) = true)
    ∧ [walked 0x2007A, walked 0x20073, { walked 0x2007A with poison := [(0xC000 / 32, 1)] }].map (fun x =>
        let s := { x with misses := [(3, { ctx := 0, page := 0x10000, write := false, swap := some (0xC008, 0x2007A) })] }
        (s.leaseWaits 0xC008 8 true, s.read 0xC008 8 == 0x2007A, (s.poisonAt 0xC008 8).isNone, s.cores.all fun c => c.2.allOps.isEmpty))
      = [(false, true, true, true), (false, false, true, true), (false, true, false, true)]
    ∧ (let s := { base with parts := [(0, { size := 1, fqBase := 0x1000, fqBusy := [(15, 0, 0x10000, 3)] })], mem := memWrite base.mem (ctlKey (0x1000 + 32 * 15 + 12)) 4 1 }
       (s.part 0).any (fun q => q.fqBusy.find? (·.1 == 15) == some (15, 0, 0x10000, 3) && q.fqWait.isEmpty) = true ∧ s.read (ctlKey (0x1000 + 32 * 15 + 12)) 4 = 1)
    ∧ (stale 3).staleUpTo 2 = false ∧ (stale 2).staleUpTo 2 = true := by decide +kernel

def heated (t : Int) (f : Island → Island) : State := { withCore { coreOf [grp, idle] with temp := t } with islands := (List.replicate 32 {}).map f, ticks := 10000 }
/-- PowerAndTime: islands at each of their conditions, at the bounds of the readings and of the intervals. -/
theorem witness_PowerAndTime :
    (heated 400 fun x => { x with emergency := true }).hottest 0 = 400 ∧ (heated 420 fun x => { x with emergency := true }).hottest 0 = 420
    ∧ (heated 401 fun x => { x with emergency := true }).hottest 0 = 401 ∧ 0 + 10000 ≤ (heated 400 id).ticks
    ∧ ((heated 420 id).core 0).temp = 420 ∧ (heated 420 id).islands[(heated 420 id).islandOf 0]? = some {}
    ∧ ((heated 460 id).core 0).temp = 460 ∧ ((heated 460 id).partOf (pdie 0)).isSome = true ∧ (State.reset.partOf (pdie 0)) = none
    ∧ base.enabled 0 = true ∧ base.enabled 127 = true ∧ base.enabled 128 = false ∧ base.enabled 1088 = false
    ∧ 40 ≤ ((40 : Word).toInt - ((base.arr 0).sub 3).calTemp).natAbs ∧ (base.arr 0).subs.length = 4
    ∧ 128 * ((State.cadence { base with cadence := 7 }) + 1) ≤ 1024 := by decide +kernel

def leased (l : Lease) (now : Nat) : State := { base with leases := [(32, l)], ticks := now }
def lease : Lease := { line := 32, write := true, since := 100, dirty := true, home := List.replicate 128 0 }
/-- LeasesAndReplicas: leases at the first tick of each of their ends, a chunk that collapses, a probe that is awaited. -/
theorem witness_LeasesAndReplicas :
    mfind (leased lease 18100).leases 32 = some lease ∧ lease.since + 18000 ≤ (leased lease 18100).ticks ∧ lease.since + 20000 ≤ (leased lease 20100).ticks
    ∧ lease.home.length = 128 ∧ lease.holder = none ∧ (leased lease 20100).leaseSends lease = true ∧ ({ leased lease 20100 with parts := [(0, { size := 1, halt := some { cause := 0x86, tick := 0 } })] } : State).leaseSends lease = false
    ∧ mfind (leased { lease with dirty := false } 20100).leases 32 = some { lease with dirty := false } ∧ mfind (leased { lease with holder := some 3 } 20100).leases 32 = some { lease with holder := some 3 } ∧ mfind (leased { lease with write := false } 100100).leases 32 = some { lease with write := false } ∧ lease.since + 100000 ≤ 100100
    ∧ ({ base with collapsing := [5] } : State).collapsing = [5] ∧ (base.cores.all fun c => c.2.allOps.isEmpty) = true
    ∧ (let s := withGroup fun g => { g with ops := [{ i := .fence (kt 1) { mo .n8 .glob .none .zero .zero 0 with scope := .dev, order := .acq }, stage := 1, probes := [1] }], nextOp := 1 }
       ((s.group 0 0).op? 0).any (fun o => o.stage == 1 && o.probes == [1] && o.twin.isNone && !o.shadow && decide (o.level 0 < 5)) = true ∧ (s.core 1).allOps = []
       ∧ (let l : LaneOp := { slot := 0, va := 0x1000, key := some 0x1000, leaf := 0x73, size := 4, v := 9, l1 := some 0 }
          let x : Op := { i := .stg (kt 1) (mo .b32 .glob .none (.x 2) (.x 6) 0), lanes := [l] }
          let t := { s with cores := minsert s.cores 1 (coreOf [{ idle with ops := [x], nextOp := 1 }, idle]) }
          ((t.group 1 0).op? 0) = some x ∧ ((t.core 1).allOps.length = 1) ∧ t.mustCollapse l.leaf 0x1000 = false ∧ t.reaches (pdie 1) 0x1000 = true ∧ t.leaseWaits 0x1000 4 true = false
            ∧ t.flagged = [] ∧ t.poison = []))
    ∧ ({ base with collapsing := [5], stalls := [(5, .held 0), (5, .counter 7)], launches := [(7, {ctx := 0, queue := 0, entry := 0, cls := 0, rcd := recordOf 0})] } : State).stalls.length = 2 := by decide +kernel

def ported (n : Nat) (p : Port) : State := { base with ports := [(n, p)], ticks := 2000000000 }
/-- LinksReportsAndRights: a port and a die-to-die link in each of their conditions; what waits for the control port; a report that is due, with the
control port up and lost; rights that are over. -/
theorem witness_LinksReportsAndRights :
    (mget {} (ported 36 { up := true, crc := 0xFFF, replay := 0xFFF }).ports 36 : Port).up = true
    ∧ (let p : Port := mget {} (ported 36 { up := true, recent := List.range 17, rate := 2 }).ports 36; 16 < p.recent.length ∧ p.rate = 2)
    ∧ (let p : Port := mget {} (ported 36 { up := true, rate := 1, quiet := 1000000000 }).ports 36; p.quiet + 1000000000 ≤ (ported 36 {}).ticks ∧ p.rate ≠ 0)
    ∧ (let p : Port := mget {} (ported 36 { training := some 2, rate := 3 }).ports 36; p.up = false ∧ p.training ≠ none)
    ∧ ((List.range 4).filter (10 : Nat).testBit).length = 2 ∧ ((List.range 4).filter (8 : Nat).testBit).length = 1
    ∧ (let q : Port := mget {} (ported 0 { rate := 3, quiet := 1999000000 }).ports 0; q.up = false ∧ q.training = none ∧ q.quiet + 1000000 ≤ (ported 0 {}).ticks)
    ∧ (let s := base.modCtx 0 fun x => { x with period := 1, nextReport := 5, ringCount := 4096, ringLog := 12 }
       (s.ctx 0).period ≠ 0 ∧ (s.ctx 0).nextReport ≤ ({ s with ticks := 5 } : State).ticks ∧ s.ctlLost = false ∧ ({ s with ports := [(0, { rate := 3 })] } : State).ctlLost = true)
    ∧ (let link (p : Port) : Port := (ported 65 p).link 65
       (link { up := true, recent := List.range 17 }).up = true ∧ 16 < (link { up := true, recent := List.range 17 }).recent.length
         ∧ (link { up := false, training := some 1 }).training = some 1 ∧ (State.reset.link 65).up = true)
    ∧ (let s := { ported 0 { training := some 1, rate := 3 } with parts := [], ctlWaits := [(ctlKey 0x1000, 8, 5)] }; (s.link 0).up = false ∧ (s.link 0).training ≠ none ∧ s.parts = [])
    ∧ (let s := base.modCtx 0 fun x => { x with inj := true, untilTick := 4 }; (s.ctx 0).hasRights = true ∧ (s.ctx 0).untilTick < 5) := by decide +kernel

/-! The command processor (52, 53). -/

/-- A launch record: kernel, grid, threads 2, one group, gang 1. -/
def rec_ (ka gx gang : Nat) : Nat := ka + 2 ^ 128 * gx + 2 ^ 160 + 2 ^ 192 + 2 ^ 224 * 2 + 2 ^ 232 + 2 ^ 272 * gang
/-- Queue 16 with an entry posted at HEAD, in page 0x10000 (its frame at 0x20000); a kernel in the line at 0x10080. -/
def posting (v : Nat) : State :=
  let s := walked 0x20073
  { s with
    queues := [(16, { en := true, base := 0x10000, logcap := 12, head := 4096 })], nextLaunch := 5
    mem := memWrite (memWrite s.mem 0x20000 128 (v + 2 ^ 992 * 4097)) (0x20080 + 60) 4 (2 ^ 27 + 2 ^ 31) }
def takes_ (s : State) : Bool := (mfind s.queues 16).any fun d => d.served && d.rcd.isNone && !s.queueBlocked 16 && (s.ctx d.ctx).desc.valid && !s.ctxHalted d.ctx && s.posted d
  && (match (s.cmdAt d.ctx d.host (d.entryVa d.head) 3 .read).2 with | .at q _ => q == 0x20000 | _ => false)
def aRecord : Record := recordOf (rec_ 0x10080 1 1)
def aLaunch : Launch := { ctx := 0, queue := 16, entry := 0, cls := 1, rcd := aRecord }
def launched (l : Launch) : State := { walked 0x20073 with launches := [(5, l)], ticks := 1000000 }
def waited (v : Nat) : State := let s := launched { aLaunch with rcd := { aRecord with waits := [(0x10008, 7)] } }
  { s with mem := memWrite s.mem 0x20008 8 v }
def far (f : Launch → Launch) : Launch := f { aLaunch with rcd := { aRecord with npkg := 1, xid := 0xFFFFFFFF } }
/-- LaunchesAndTheirEnds: an entry with a sound record, with a malformed one, with a kernel that no line marks, with one whose line misses. -/
theorem witness_LaunchesAndTheirEnds_take :
    [(0x10080, 1), (0x10080, 17), (0x1008C, 1)].all (fun x => takes_ (posting (rec_ x.1 1 x.2))) = true
    ∧ recordBad (rec_ 0x10080 1 1 + 2 ^ 992 * 4097) 128 = false ∧ recordBad (rec_ 0x10080 1 17 + 2 ^ 992 * 4097) 128 = true
    ∧ (((posting (rec_ 0x10080 1 1)).draw.readUe 0x20000 128).kernelOk 0 [] 0x1008C).2 = some false
    ∧ (((posting (rec_ 0x10080 1 1)).draw.readUe 0x20000 128).kernelOk 0 [] 0x10080).2 = some true
    ∧ (posting (rec_ 0x10080 1 1)).partCores 0 = 128 ∧ (posting (rec_ 0x10080 1 1)).restartTaken 0 = false
    ∧ recordBad (rec_ 0x30080 1 1 + 2 ^ 992 * 4097) 128 = false ∧ (((posting (rec_ 0x30080 1 1)).draw.readUe 0x20000 128).kernelOk 0 [] 0x30080).2 = none
    ∧ (mfind (posting (rec_ 0x10080 1 1)).queues 16).any (·.rcd.isNone) = true := by decide +kernel
/-- Waits: satisfied exactly, failed; ends with no counter, with a counter that is failed and at its greatest value; the messages of a launch
across two packages, as coordinator and not. -/
theorem witness_LaunchesAndTheirEnds :
    [7, 2 ^ 63].all (fun v => match ((waited v).cmdAt 0 [] 0x10008 3 .read).2 with | .at q _ => q == 0x20008 && ((waited v).poisonAt q 8).isNone && (waited v).read q 8 == v | _ => false) = true
    ∧ (let l := { aLaunch with ready := true, next := 1 }; (launched l).launchOver 5 l = true ∧ (launched { l with live := 1 }).launchOver 5 { l with live := 1 } = false)
    ∧ (let l := { far id with ready := true, next := 1, goTick := some 0 }; (launched l).launchOver 5 l = true ∧ l.ackWait = true)
    ∧ (let l := { aLaunch with ready := true, next := 1, rcd := { aRecord with done := 0x10010 } }; let s := { launched l with mem := memWrite (launched l).mem 0x20010 8 (2 ^ 64 - 1) }
       s.launchOver 5 l = true ∧ l.ended = false ∧ s.incrementWaits = false ∧ (match (s.draw.cmdAt 0 [] 0x10010 4 .rmw).2 with | .at q leaf => q == 0x20010 && !s.mustStall leaf q (.counter 5) && (s.poisonAt q 8).isNone | _ => false) = true)
    ∧ [far id, far fun l => { l with reserved := true }, far fun l => { l with rcd := { l.rcd with coord := 3 }, reserved := true },
        far fun l => { l with goTick := some 0, rcd := { l.rcd with gotmo := 63 } }, far fun l => { l with goTick := some 0, ownOver := true, ended := true }].all (fun l => (launched l).launchX 0xFFFFFFFF == some (5, l)) = true
    ∧ 0 + 1000 * (63 + 1) ≤ (launched aLaunch).ticks ∧ ((launched aLaunch).partOf 0).any (fun e => e.2.halt.isNone) = true
    ∧ ((launched (far id)).launches.find? fun e => e.2.queue == 16 && e.2.rcd.npkg != 0 && !e.2.went && e.2.next == 0 && !e.2.failed) = some (5, far id) := by decide +kernel

/-- A package whose partition 0 runs context 0. -/
def running (q : Part → Part) (c : List (Nat × Core)) : State :=
  { base with parts := [(0, q { size := 1, cur := some 0 })], cores := c, launches := [(5, { aLaunch with ready := true })], ticks := 4000000 }
def dispatching : State := running id []
/-- SchedulingSteps: a launch of one workgroup that fits. -/
theorem witness_SchedulingSteps_dispatch :
    (let s := dispatching; let u := (s.draw.modPart 0 fun q => { q with ending := q.ending && s.draw.foreign 0 q }).handOver 0 ((s.part 0).getD { size := 1 })
     s.workOf 0 = [0] ∧ u.chooseClass ((u.part 0).getD { size := 1 }) 0 = some (1, (0, 5))
       ∧ (match u.assign 5 { aLaunch with ready := true } (s.partPhys 0 { size := 1 }) with | .fits ws => ws == [(0, 0, none)] | _ => false) = true) := by decide +kernel
def resting (w : Workgroup → Workgroup) (c : Core → Core) : State :=
  let g : Group := { grp with run := none, s := [] }
  let waits : Group := { g with park := some (.bar 0) }
  running (fun q => { q with cur := some 1 }) [(0, c { coreOf [] with wg := some (w (wgOf [waits, { idle with park := some (.bar 0) }])), quads := List.replicate 4 {} })]
def roomy (s : State) : State := s.modCtx 0 fun x => { x with desc := { x.desc with frslots := 1 } }
def framed (s : State) : Bool := decide (s.cores.map (·.1)).Nodup && !s.halted (pdie 0) && s.slotsFor [0] && (s.core 0).wg.any fun w => s.unitCores w == [0]
/-- A saved unit of one workgroup. -/
def savedUnit : Saved := { ctx := 0, cls := 1, units := [(wgOf [idle], 0)], cores := [{}] }
def restoring : State := { running (fun q => { q with chosen := [(1, 1, 0)] }) [] with saved := [savedUnit] }
theorem witness_SchedulingSteps :
    (let s := running id [(0, { coreOf [{ idle with passed := 16 }, idle] with quads := List.replicate 4 {} })]
     s.grantable 0 0 0 = true ∧ s.grantable 0 1 1 = true ∧ ((s.core 0).quad 0).holder = none ∧ ((s.core 0).quad 0).sleep = none ∧ (0 ∈ (s.core 0).inQuad 0))
    ∧ (let s := running id [(0, { coreOf [grp, idle] with quads := List.replicate 4 { sleep := some (4000000, 0), holder := some 0 } })]; ((s.core 0).quad 3).sleep = some (4000000, 0) ∧ 4000000 ≤ s.ticks ∧ (s.group 0 0).headSet false ≠ []
         ∧ ((withGroup fun g => { g with threads := [] }).group 0 0).headSet false = [] ∧ (withCore { coreOf [grp, idle] with wg := some { wgOf [grp, idle] with reloc := true } }).maySleep 0 3 0 = false)
    ∧ (dispatching.part 0).any (fun q => q.cur == some 0 && q.halt.isNone && decide (q.sliceEnd ≤ dispatching.ticks)) = true
    ∧ (let s := roomy (resting id id); framed s = true ∧ (s.core 0).wg.any (fun w => !w.leaving && s.mustLeave 0 w && s.preemptible 0) = true)
    ∧ (let s := roomy (resting (fun w => { w with groups := w.groups.map fun g => { g with leaving := true } }) id)
       framed s = true ∧ (s.core 0).wg.any (fun w => w.leaving && (s.core 0).quiet w) = true)
    ∧ (let s := roomy (resting (fun w => { w with frozen := true, groups := w.groups.map fun g => { g with park := some (.fetch 0x10000) } }) id)
       !s.halted (pdie 0) && s.slotsFor [0] && !(s.core 0).writingTile && !(s.core 0).preloading && (s.core 0).twait.isNone && (s.core 0).wg.any fun w =>
         w.frozen && w.longWaits != [] && w.copies.isEmpty && !w.honoured && !s.rollingWg w && w.groups.all fun g => g.run.isNone && g.ops.isEmpty) = true := by decide +kernel
/-- A tandem copy with a long miss, and its twin. -/
def frozenPair : State :=
  let w (td : Bool × Nat) (lc : Nat) (f : Bool) : Workgroup := { wgOf [{ idle with park := some (.fetch 0x10000) }] with tandem := some td, lcore := lc, frozen := f }
  { (base.modCtx 0 fun x => { x with desc := { x.desc with frslots := 2 } }) with cores := [(0, { coreOf [] with wg := some (w (false, 16) 0 true) }), (16, { coreOf [] with wg := some (w (true, 0) 16 false) })] }
theorem witness_SchedulingSteps_twin :
    (let s := frozenPair
     s.slotsFor [0, 16] = true ∧ s.halted (pdie 0) = false ∧ (s.core 0).wg.any (fun w => w.frozen && w.longWaits != [] && !s.rollingWg w && (s.twinCore w).toList == [16]) = true
       ∧ [0, 16].all (fun r => (s.core r).wg.any fun v => v.ctx == 0 && v.groups.all (fun g => g.run.isNone && g.ops.isEmpty) && v.copies.isEmpty && !v.honoured
          && !(s.core r).preloading && !(s.core r).writingTile) = true) := by decide +kernel
theorem witness_SchedulingSteps_restore :
    (let s := restoring; (s.saved.filter (·.ctx == 0))[0]? = some savedUnit
      ∧ (s.part 0).any (fun q => q.halt.isNone && q.cur == some 0 && q.chosen.contains (savedUnit.cls, 1, 0)) = true
      ∧ (s.part 0).bind (s.savedNamed · savedUnit.name) = some savedUnit ∧ s.restorable savedUnit = true ∧ s.assignSaved savedUnit [(wgOf [idle], {})] [] = some [0]
      ∧ (s.slotPoison 0 0).all (savedUnit.bad.contains ·) = true) := by decide +kernel

/-! Halts, containment and tandem (54). -/

def halting (h : Halt) (cores : List (Nat × Core)) : State := { base with parts := [(0, { size := 1, halt := some h, haltNo := 1 })], cores, ticks := 100000, islands := List.replicate 32 { cycles := 513 } }
/-- Two copies at commit points. -/
def paired (since : Nat) (what : List Nat) : State :=
  let c (k : Bool) (o lc : Nat) (wh : List Nat) : Core :=
    { coreOf [] with wg := some { wgOf [idle, idle] with tandem := some (k, o), lcore := lc }, twait := some { group := 0, pc := 0, what := wh, since } }
  { base with cores := [(0, c false 16 0 []), (16, c true 0 16 what)], ticks := 1000000 }
theorem witness_HaltsErrorsAndTandem :
    (base.partOf 0).any (fun e => e.2.halt.isNone && mfind base.parts e.1 == some e.2) = true
    ∧ (let s := halting { cause := 0x86, tick := 0 } []; (s.partPhys 0 { size := 1 }).all (fun p => s.skidPast p && (mfind s.cores p).isNone) = true ∧ s.misses.isEmpty = true
        ∧ s.panniers.isEmpty = true ∧ s.lmap = [] ∧ s.fuses = [])
    ∧ (let s := halting { cause := 0x88, tick := 0, skidOver := true } [(0, coreOf [grp, idle])]; (s.part 0).any (fun q => q.halt.any fun h => h.skidOver && !h.recorded) = true
        ∧ 0 ∈ s.partPhys 0 { size := 1 } ∧ (s.core 0).wg.isSome = true)
    ∧ ((base.core 0).group? 1).isSome = true ∧ ((base.core 0).group? guestIx).isSome = true ∧ windowOfKey (2 ^ 40 - 1) = none ∧ base.poison = [] ∧ base.panniers = []
    ∧ (let s := paired 0 []; sameCommit (s.core 0) (s.core 16) = true ∧ s.phys 16 = 16 ∧ (s.core 0).tbuf = [])
    ∧ (let h : Held := { tier := 0, ctx := 0, va := 0x1000, key := some 0x1000, leaf := 0x73, size := 4, v := 1, i := .nop k, group := 0, lane := 0, slot := 0, pc := 0, op := 0 }
       let s := paired 0 []; let u := { s with cores := s.cores.map fun (e : Nat × Core) => (e.1, { e.2 with tbuf := [h] }) }
       sameCommit (u.core 0) (u.core 16) = true ∧ u.heldWaits 0 h = false ∧ u.mustStall h.leaf 0x1000 (.held 0) = false)
    ∧ (let s := paired 0 [1]; sameCommit (s.core 0) (s.core 16) = false ∧ 0 + (s.ticks - 0) ≥ 1000000 ∧ (s.core (s.phys 16)).wg.any (fun v => (s.core 0).wg.any fun w => v.launch == w.launch && v.wg == w.wg) = true
        ∧ 1000000 ≤ 400000 + ((paired 400000 [1]).ticks - 400000))
    ∧ (let s := { base with launches := [(0, { aLaunch with rolling := true })] }; s.ctxHalted 0 = false
        ∧ ({ s with cores := [(0, coreOf [idle, idle])] } : State).stoppedFor 0 = true ∧ s.coresOf 0 = [0]) := by decide +kernel

/-! The management path (55 to 57). -/

-- the digest of the three bytes of "abc", as the standard that R399 names prints it: BA 78 16 BF first
theorem test_sha256 : sha256 0x636261 3 % 2 ^ 32 = 0xBF1678BA := by decide +kernel

/-- Operands by their byte offsets. -/
def operands (l : List (Nat × Nat)) : BitVec 2048 := BitVec.ofNat 2048 (l.foldl (fun v e => v + 2 ^ (8 * e.1) * e.2) 0)
def mail (code len : Nat) (l : List (Nat × Nat)) : Mail := ⟨code, 0x40, len, operands l⟩
/-- GET_CERT: a buffer that the certificate fits, and a buffer that is not aligned. -/
theorem witness_MailboxCommands_cert : bufOk ⟨0x01, 0, 68 + Config.certLength, 0⟩ (68 + Config.certLength) = true ∧ bufOk ⟨0x01, 32, 0, 0⟩ (68 + Config.certLength) = false := by
  have h : Config.certLength < 2 ^ 32 := Config.certBits.isLt
  refine ⟨?_, by simp [bufOk]⟩
  simp [bufOk]
  omega
/-- The reading step, and a served command: STATUS is 0xFFFF and the control port up. SET_PART at both ends of its ranges; descriptors, queues, levels and features that are accepted and refused; jobs, reports, counters, flags, links;
a token in its window. -/
theorem witness_MailboxCommands :
    (let m := mail 0x10 1024 [(0, 0), (1, 8), (2, 3), (4, 4000), (24, 16)]
     base.mailbox ≠ { mail := m, status := 0xFFFF } ∧ ({ base with mailbox := { mail := m, status := 0xFFFF } } : State).ctlLost = false ∧ mailOp m 1 1 = 8 ∧ bufOk m 1024 = true ∧ mailOp m 2 1 = 3 ∧ mailOp m 4 4 = 4000 ∧ mailOp m 24 1 = 16 ∧ mailOp m 8 8 = 0
      ∧ State.reset.parts.isEmpty = true)
    ∧ bufOk (mail 0x02 400 []) 400 = true ∧ bufOk (mail 0x02 399 []) 400 = false
    ∧ (let d := descOf (2 ^ 255 + 2 ^ 224 * 65535 + 2 ^ 163 * 4096); d.valid = true ∧ base.descRefused 63 { d with dslimit := 0 } = false ∧ base.descRefused 63 d = true
      ∧ base.placedCtx 63 = false ∧ base.savedCtx 63 = false ∧ (base.ctx 63).pend = none)
    ∧ bits (mailOp (mail 0x13 0 [(4, 420 + 2 ^ 16 * 380)]) 4 4) 25 16 + 40 ≤ bits (mailOp (mail 0x13 0 [(4, 420 + 2 ^ 16 * 380)]) 4 4) 9 0 ∧ (base.part 0).isSome = true ∧ base.part 1 = none
    ∧ feat0 &&& feat0 = feat0 ∧ bit feat0 0 = true ∧ bufOk (mail 0x15 (512 * 4096) [(8, 12)]) (512 * 2 ^ 12) = true
    ∧ (base.ctx 0).desc.valid = true ∧ (base.ctx 0).job = none ∧ bufOk (mail 0x20 176 []) 176 = true ∧ bufOk (mail 0x20 688 [(1, 1)]) 688 = true
    ∧ ((base.modCtx 0 fun x => { x with job := some 7 }).ctx 0).job ≠ none ∧ bufOk (mail 0x21 416 []) 416 = true
    ∧ mailOp (mail 0x30 0 [(0, 16383)]) 0 4 ≤ 16383 ∧ mailOp (mail 0x30 0 [(0, 0xFFFFFFFF)]) 0 4 = 0xFFFFFFFF ∧ mailOp (mail 0x31 0 [(0, 15), (8, 2 ^ 36 - 2 ^ 16)]) 8 8 < 2 ^ 36
    ∧ mailOp (mail 0x32 0 [(0, 36)]) 0 1 ≤ 36 ∧ base.recovery = 0 ∧ State.reset.anyValid = false ∧ base.anyValid = true
    ∧ bufOk (mail 0x40 160 []) 160 = true ∧ (base.poisonAt (ctlKey 0x40) 160) = none ∧ (mail 0x42 1 [(0, 6)]).code = 0x42 ∧ (99 : Nat) ∉ [0x01, 0x42] := by decide +kernel
/-- ResetValues: a context that becomes valid; SpecialOperands' ranges; a state with memory in its form whose step goes on. -/
theorem witness_ResetValues : (State.reset.ctx 3).desc.valid = false ∧ Memory.wf base.mem = true ∧ (match step base with | .next _ => true | _ => false) = true
    ∧ (0x7FFFFFFF : Nat) % 2 ^ 31 > 0x7F800000 ∧ (0x80800000 : Nat) < 0xFF800000 ∧ (0x007FFFFF : Nat) < 0x00800000 := by decide +kernel

end Sys2Proof.Tests
end

section
/-! Class 0 (spec/04_vector_arithmetic.md R87 to R101): what each instruction writes. Each proof takes an instruction through one of the
frames that its meaning is built on (fixedAlu, or a direct write of registers), and leaves a fact about values, proved for words of every
width. -/

namespace Sys2Proof.Machine

/-! Destinations, as the operand shapes of R92 allow them. -/

theorem fits_of_bin {p lit : Bool} {o : Alu} {tys : List Ty} (h : (p && o.bin tys lit) = true) : o.dst.fits o.ty = true := by
  simp only [Alu.bin, Bool.and_eq_true] at h
  obtain ⟨-, ⟨⟨⟨-, hd⟩, -⟩, -⟩, -⟩ := h
  exact hd
theorem typed_of_tri {p : Bool} {o : Alu} {tys : List Ty} (h : (p && o.tri tys) = true) : tys.contains o.ty = true ∧ o.dst.fits o.ty = true := by
  simp only [Alu.tri, Bool.and_eq_true] at h
  obtain ⟨-, ⟨⟨hd, -⟩, -⟩, -⟩ := h
  exact hd
theorem fits_of_una {p : Bool} {o : Alu} {tys : List Ty} (h : (p && o.una tys) = true) : o.dst.fits o.ty = true := by
  simp only [Alu.una, Bool.and_eq_true] at h
  obtain ⟨-, ⟨⟨⟨-, hd⟩, -⟩, -⟩, -⟩ := h
  exact hd
theorem typed_of_ctl {p : Bool} {o : Alu} {tys : List Ty} (h : (p && o.ctl tys) = true) : tys.contains o.ty = true ∧ o.dst.fits o.ty = true := by
  simp only [Alu.ctl, Bool.and_eq_true] at h
  obtain ⟨-, ⟨⟨hd, -⟩, -⟩, -⟩ := h
  exact hd
/-- The destination's check among those of the instructions that write out their three sources beside it. -/
theorem dst_of_conj {p d q r t : Bool} (h : (p && d && q && r && t) = true) : d = true := by
  simp only [Bool.and_eq_true] at h
  obtain ⟨⟨⟨⟨-, hd⟩, -⟩, -⟩, -⟩ := h
  exact hd

theorem dstOk_of_isReg {d : Dst} (h : d.isReg = true) : dstOk d 1 := dstOk_fits (ty := .b32) h
theorem dstOk_of_isP {d : Dst} (h : d.isP = true) : dstOk d 1 := by
  cases d <;> simp_all [Dst.isP, dstOk]
theorem dstOk_of_isPReg {d : Dst} (h : d.isPReg = true) : dstOk d 1 := (Bool.or_eq_true_iff.1 h).elim dstOk_of_isReg dstOk_of_isP

theorem codes_one {d : Dst} (h : d.isReg = true) : d.codes 1 = [d.code] := by
  cases d with
  | none => cases h
  | x n | s n | p n => rfl
theorem codes_two {d : Dst} (h : d.isPair = true) : d.codes 2 = [d.code, d.code + 1] ∧ d.code % 2 = 0 := by
  cases d <;> simp_all [Dst.isPair, Dst.codes, Dst.code, List.range_succ]
  omega

theorem ty_of_raw {ty : Ty} (h : raw.contains ty = true) : ty = .b32 ∨ ty = .b64 := by
  revert h; cases ty <;> decide
theorem tySigned_of_int4 {ty : Ty} (h : int4.contains ty = true) : tySigned ty = true ↔ ty = .i32 ∨ ty = .i64 := by
  revert h; cases ty <;> decide
theorem tyWidth_pos (ty : Ty) : 0 < tyWidth ty := by cases ty <;> decide

/-! Numbers as words of w bits. -/

theorem signedOf_eq_toInt (w n : Nat) : signedOf w n = (BitVec.ofNat w n).toInt := by
  simp only [signedOf, BitVec.toInt_eq_toNat_cond, BitVec.toNat_ofNat, Nat.cast_pow, Nat.cast_ofNat]
theorem signedOf_toNat {w : Nat} (a : BitVec w) : signedOf w a.toNat = a.toInt := by
  rw [signedOf_eq_toInt, BitVec.ofNat_toNat, BitVec.setWidth_eq]
theorem wrap_eq_toNat (w : Nat) (v : Int) : wrap w v = (BitVec.ofInt w v).toNat := by
  simp [wrap, BitVec.toNat_ofInt]
theorem ofNat_wrap (w : Nat) (v : Int) : BitVec.ofNat w (wrap w v) = BitVec.ofInt w v := by
  rw [wrap_eq_toNat, BitVec.ofNat_toNat, BitVec.setWidth_eq]
theorem ofInt_two_pow (w k : Nat) : BitVec.ofInt w (2 ^ k) = BitVec.twoPow w k := by
  apply BitVec.eq_of_toNat_eq
  rw [BitVec.toNat_twoPow, BitVec.toNat_ofInt]
  norm_cast

theorem wordOf_zero (v : DWord) : wordOf v 0 = v.setWidth 32 := by
  apply BitVec.eq_of_toNat_eq
  simp [wordOf]
theorem wordOf_pairOf_one (lo hi : Word) : wordOf (pairOf lo hi) 1 = hi := hiOf_pairOf lo hi
theorem wordOf_b2n (b : Bool) (j : Nat) : wordOf (BitVec.ofNat 64 (b2n b)) j = BitVec.ofNat 32 (b2n (decide (j = 0) && b)) := by
  cases j with
  | zero => cases b <;> decide
  | succ j =>
    have hpow : 2 ^ 1 ≤ 2 ^ (32 * (j + 1)) := Nat.pow_le_pow_right (by omega) (by omega)
    have hlt : (BitVec.ofNat 64 (b2n b)).toNat < 2 ^ 1 := by cases b <;> decide
    rw [wordOf, Nat.div_eq_of_lt (hlt.trans_le hpow)]
    simp [b2n]
theorem regVal_b2n (k : Nat) (b : Bool) : regVal k (BitVec.ofNat 32 (b2n b)) = BitVec.ofNat 32 (b2n b) := by
  cases b <;> simp [regVal, b2n]
theorem regVal_wordOf_b2n (k : Nat) (b : Bool) (j : Nat) :
    regVal k (wordOf (BitVec.ofNat 64 (b2n b)) j) = wordOf (BitVec.ofNat 64 (b2n b)) j := by
  rw [wordOf_b2n, regVal_b2n]

/-! The arithmetic instructions (R93). -/

theorem arith_result {c : Ctl} {i : Instr} {o : Alu} {f : Int → Int → Int → Int} (hx : ∀ s, exec i s = arith c i o s f)
    (hd : i.wf = true → o.dst.fits o.ty = true) : ExactResult c i o f := by
  unfold ExactResult TypedResult
  simp only [arith, intAlu] at hx
  exact fixedAlu_typed hx hd
theorem ExactResult.congr {c : Ctl} {i : Instr} {o : Alu} {f g : Int → Int → Int → Int} (h : ExactResult c i o f)
    (hfg : ∀ a b k, f a b k = g a b k) : ExactResult c i o g := by
  obtain rfl : f = g := by funext a b k; exact hfg a b k
  exact h

theorem imadWide_result (c : Ctl) (o : Alu) : AluResult c (.imadWide c o) o .w32 .w32 .w64z 2 (fun a b k =>
    let wide := if o.ty = .i32 then Ty.i64 else .n64
    regOf wide (fit wide o.sat (intOf o.ty a * intOf o.ty b + intOf wide k))) := by
  have hd : (Instr.imadWide c o).wf = true → o.dst.fits .b64 = true := dst_of_conj
  have hx (s : State) : exec (.imadWide c o) s = execImadWide c o s := rfl
  simp only [execImadWide, beq_iff_eq] at hx
  exact fixedAlu_result hx (fun h => dstOk_fits (hd h)) fun h hp => absurd hp (notP_fits (hd h))

theorem ite_neg_eq_natAbs (a : Int) : (if a < 0 then -a else a) = a.natAbs := by
  split <;> omega

/-- Settles O1: each arm of exec is arith with the exact value of R93; IMIN, IMAX and IABS write theirs as a choice. -/
theorem integerArithmeticResults : Obligations.IntegerArithmeticResults := by
  unfold Obligations.IntegerArithmeticResults
  intro c o
  refine ⟨?iadd, ?isub, ?imul, ?imulHi, ?imad, imadWide_result c o, ?imin, ?imax, ?iabs, ?ineg⟩
  case iadd | isub | imul | imulHi => exact arith_result (fun _ => rfl) fits_of_bin
  case imad => exact arith_result (fun _ => rfl) fun h => (typed_of_tri h).2
  case imin =>
    exact ExactResult.congr (arith_result (f := fun a b _ => if a ≤ b then a else b) (fun _ => rfl) fits_of_bin) fun a b _ => (min_def a b).symm
  case imax =>
    exact ExactResult.congr (arith_result (f := fun a b _ => if a ≤ b then b else a) (fun _ => rfl) fits_of_bin) fun a b _ => (max_def a b).symm
  case iabs =>
    exact ExactResult.congr (arith_result (f := fun a _ _ => if a < 0 then -a else a) (fun _ => rfl) fits_of_una) fun a _ _ => ite_neg_eq_natAbs a
  case ineg => exact arith_result (fun _ => rfl) fits_of_una

/-! The logic instructions (R94). -/

theorem lowBits_eq_setWidth (ty : Ty) (v : DWord) : lowBits ty v = (v.setWidth (tyWidth ty)).setWidth 64 := by
  apply BitVec.eq_of_toNat_eq
  simp [lowBits]
theorem logic_result {c : Ctl} {i : Instr} {o : Alu} (f : DWord → DWord → DWord) (hx : ∀ s, exec i s = logic c i o s f)
    (hd : i.wf = true → o.dst.fits o.ty = true) : TypedResult c i o (fun a b _ => ((f a b).setWidth (tyWidth o.ty)).setWidth 64) := by
  unfold TypedResult
  simp only [logic, intAlu, lowBits_eq_setWidth] at hx
  exact fixedAlu_typed hx hd

/-! Shifts, rotates and fields (R94, R95): the model computes on numbers, the statements on words of w bits. -/

theorem shifty_result {c : Ctl} {i : Instr} {o : Alu} {g : (w : Nat) → BitVec w → Nat → BitVec w → BitVec w} (f : Nat → Nat → Nat → Nat → Nat)
    (hx : ∀ s, exec i s = shifty c i o s f) (hd : i.wf = true → o.dst.fits o.ty = true)
    (hfg : i.wf = true → ∀ (a : BitVec (tyWidth o.ty)) n k, f (tyWidth o.ty) a.toNat n k.toNat = (g _ a n k).toNat) : FieldResult c i o g := by
  unfold FieldResult
  simp only [shifty] at hx
  refine (fixedAlu_typed hx hd).congr fun h a b k => ?_
  rw [← BitVec.toNat_setWidth _ a, ← BitVec.toNat_setWidth _ k, hfg h]
  exact BitVec.ofNat_toNat ..

section
variable {w : Nat} (a : BitVec w)

theorem shl_toNat (k : Nat) : (if k < w then a.toNat * 2 ^ k % 2 ^ w else 0) = (a <<< k).toNat := by
  split
  · rw [BitVec.toNat_shiftLeft, Nat.shiftLeft_eq]
  · rw [BitVec.shiftLeft_eq_zero (by omega), BitVec.toNat_zero]
theorem shr_toNat (k : Nat) : (if k < w then a.toNat / 2 ^ k else 0) = (a >>> k).toNat := by
  split
  · rw [BitVec.toNat_ushiftRight, Nat.shiftRight_eq_div_pow]
  · rw [BitVec.ushiftRight_eq_zero (by omega), BitVec.toNat_zero]
/-- A shift by the width or more leaves the sign alone. -/
theorem toInt_ediv_two_pow {k : Nat} (h : w ≤ k) : a.toInt / 2 ^ k = if a.toInt < 0 then -1 else 0 := by
  have hlt := BitVec.toInt_lt (x := a)
  have hle := BitVec.le_toInt a
  have hpow : (2 : Int) ^ (w - 1) ≤ 2 ^ k := pow_le_pow_right₀ (by norm_num) (by omega)
  split
  · exact Int.ediv_eq_neg_one_of_neg_of_le (by assumption) (by omega)
  · exact Int.ediv_eq_zero_of_lt (by omega) (by omega)
theorem sar_toNat (k : Nat) :
    wrap w (if k < w then signedOf w a.toNat / 2 ^ k else if signedOf w a.toNat < 0 then -1 else 0) = (a.sshiftRight k).toNat := by
  have hdiv : (if k < w then a.toInt / 2 ^ k else if a.toInt < 0 then -1 else 0) = a.toInt / 2 ^ k := by
    split
    · rfl
    · exact (toInt_ediv_two_pow a (by omega)).symm
  rw [signedOf_toNat, hdiv, wrap_eq_toNat, BitVec.sshiftRight_eq, Int.shiftRight_eq_div_pow]
  norm_cast

theorem rotl_toNat (k : Nat) : rotl w a.toNat k = (a.rotateLeft k).toNat := by
  rw [rotl, BitVec.toNat_rotateLeft, Nat.shiftLeft_eq, Nat.shiftRight_eq_div_pow]
theorem rotateLeft_sub (hw : 0 < w) (k : Nat) : a.rotateLeft (w - k % w) = a.rotateRight k := by
  have hk := Nat.mod_lt k hw
  apply BitVec.eq_of_getLsbD_eq
  intro i hi
  rw [BitVec.getLsbD_rotateLeft, BitVec.getLsbD_rotateRight]
  by_cases h : k % w = 0
  · simp [h, hi]
  · rw [Nat.mod_eq_of_lt (show w - k % w < w by omega), Nat.sub_sub_self hk.le]

theorem fieldCut_eq (ctl w : Nat) : fieldCut ctl w =
    if ctl / 256 % 256 = 0 ∨ w ≤ ctl % 256 then none else some (ctl % 256, min (ctl / 256 % 256) (w - ctl % 256)) := by
  simp only [fieldCut, Bool.or_eq_true, decide_eq_true_eq]
theorem field_toNat (pos n : Nat) : ((a >>> pos).setWidth n).toNat = a.toNat / 2 ^ pos % 2 ^ n := by
  rw [BitVec.toNat_setWidth, BitVec.toNat_ushiftRight, Nat.shiftRight_eq_div_pow]
theorem bfx_toNat (signed : Bool) (k : Nat) : bfx signed w a.toNat k = BitVec.toNat (
    let pos := k % 256; let len := k / 256 % 256; let cut := min len (w - pos)
    if len = 0 ∨ w ≤ pos then 0
    else if signed then ((a >>> pos).setWidth cut).signExtend w else ((a >>> pos).setWidth cut).setWidth w) := by
  rw [bfx, fieldCut_eq]
  dsimp only
  generalize k % 256 = pos, k / 256 % 256 = len
  by_cases h : len = 0 ∨ w ≤ pos
  · simp only [if_pos h]
    exact BitVec.toNat_zero.symm
  · simp only [if_neg h, ← field_toNat]
    generalize (a >>> pos).setWidth (min len (w - pos)) = v
    cases signed with
    | true => simp only [if_pos, signedOf_toNat, wrap_eq_toNat, BitVec.signExtend]
    | false => simp only [Bool.false_eq_true, if_false, BitVec.toNat_setWidth_of_le (show min len (w - pos) ≤ w by omega)]

/-- Bits below, inside and above a field, against a mask of the field. -/
theorem splice_toNat (base : BitVec w) {pos cut : Nat} (h : pos + cut ≤ w) :
    base.toNat % 2 ^ pos + a.toNat % 2 ^ cut * 2 ^ pos + base.toNat / 2 ^ (pos + cut) * 2 ^ (pos + cut)
      = ((base &&& ~~~((BitVec.allOnes cut).setWidth w <<< pos)) ||| ((a.setWidth cut).setWidth w <<< pos)).toNat := by
  have hnest : base.toNat % 2 ^ pos + a.toNat % 2 ^ cut * 2 ^ pos + base.toNat / 2 ^ (pos + cut) * 2 ^ (pos + cut)
      = 2 ^ pos * (2 ^ cut * (base.toNat / 2 ^ (pos + cut)) + a.toNat % 2 ^ cut) + base.toNat % 2 ^ pos := by ring
  have hlt (n m : Nat) : n % 2 ^ m < 2 ^ m := Nat.mod_lt _ (by positivity)
  apply Nat.eq_of_testBit_eq
  intro j
  rw [hnest, Nat.testBit_two_pow_mul_add _ (hlt ..), Nat.testBit_two_pow_mul_add _ (hlt ..)]
  simp only [Nat.testBit_mod_two_pow, Nat.testBit_div_two_pow, BitVec.testBit_toNat, BitVec.getLsbD_or, BitVec.getLsbD_and,
    BitVec.getLsbD_not, BitVec.getLsbD_shiftLeft, BitVec.getLsbD_setWidth, BitVec.getLsbD_allOnes]
  by_cases hbelow : j < pos
  · simp [hbelow, show j < w by omega]
  · by_cases hin : j - pos < cut
    · simp [hbelow, hin, show j < w by omega, show j - pos < w by omega]
    · rw [show j - pos - cut + (pos + cut) = j by omega]
      by_cases hj : j < w
      · simp [hbelow, hin, hj]
      · simp [hbelow, hin, hj, BitVec.getLsbD_of_ge base j (by omega)]
theorem bfi_toNat (k : Nat) (base : BitVec w) : bfi w a.toNat k base.toNat = BitVec.toNat (
    let pos := k % 256; let len := k / 256 % 256; let cut := min len (w - pos)
    if len = 0 ∨ w ≤ pos then base
    else (base &&& ~~~((BitVec.allOnes cut).setWidth w <<< pos)) ||| ((a.setWidth cut).setWidth w <<< pos)) := by
  rw [bfi, fieldCut_eq]
  dsimp only
  generalize k % 256 = pos, k / 256 % 256 = len
  split_ifs with h
  · rfl
  · exact splice_toNat a base (by omega)

end

theorem bfx_result (c : Ctl) (o : Alu) : FieldResult c (.bfx c o) o (fun w a k _ =>
    let pos := k % 256; let len := k / 256 % 256; let cut := min len (w - pos)
    if len = 0 ∨ w ≤ pos then 0
    else if o.ty = .i32 ∨ o.ty = .i64 then ((a >>> pos).setWidth cut).signExtend w else ((a >>> pos).setWidth cut).setWidth w) := by
  refine shifty_result (fun w a k _ => bfx (tySigned o.ty) w a k) (fun _ => rfl) (fun h => (typed_of_ctl h).2) fun h a k _ => ?_
  simp only [bfx_toNat, tySigned_of_int4 (typed_of_ctl h).1]

/-- Settles O2: the logic instructions cut their words to the type, and each of the others gives the number of its word of w bits. -/
theorem logicShiftFieldResults : Obligations.LogicShiftFieldResults := by
  unfold Obligations.LogicShiftFieldResults
  intro c o
  refine ⟨?and, ?or, ?xor, ?andn, ?orn, ?not, ?shl, ?shr, ?sar, ?rol, ?ror, bfx_result c o, ?bfi⟩
  case and => exact logic_result (fun a b => a &&& b) (fun _ => rfl) fits_of_bin
  case or => exact logic_result (fun a b => a ||| b) (fun _ => rfl) fits_of_bin
  case xor => exact logic_result (fun a b => a ^^^ b) (fun _ => rfl) fits_of_bin
  case andn => exact logic_result (fun a b => a &&& ~~~b) (fun _ => rfl) fits_of_bin
  case orn => exact logic_result (fun a b => a ||| ~~~b) (fun _ => rfl) fits_of_bin
  case not => exact logic_result (fun a _ => ~~~a) (fun _ => rfl) fits_of_una
  case shl =>
    exact shifty_result (fun w a k _ => if k < w then a * 2 ^ k % 2 ^ w else 0) (fun _ => rfl) (fun h => (typed_of_ctl h).2)
      fun _ a k _ => shl_toNat a k
  case shr =>
    exact shifty_result (fun w a k _ => if k < w then a / 2 ^ k else 0) (fun _ => rfl) (fun h => (typed_of_ctl h).2) fun _ a k _ => shr_toNat a k
  case sar =>
    exact shifty_result (fun w a k _ => wrap w (if k < w then signedOf w a / 2 ^ k else if signedOf w a < 0 then -1 else 0)) (fun _ => rfl)
      (fun h => (typed_of_ctl h).2) fun _ a k _ => sar_toNat a k
  case rol => exact shifty_result (fun w a k _ => rotl w a k) (fun _ => rfl) (fun h => (typed_of_ctl h).2) fun _ a k _ => rotl_toNat a k
  case ror =>
    exact shifty_result (fun w a k _ => rotl w a (w - k % w)) (fun _ => rfl) (fun h => (typed_of_ctl h).2) fun _ a k _ =>
      (rotl_toNat a _).trans (congrArg _ (rotateLeft_sub a (tyWidth_pos _) k))
  case bfi => exact shifty_result (fun w a k b => bfi w a k b) (fun _ => rfl) dst_of_conj fun _ => bfi_toNat

/-! Counts and bit reversal (R96). -/

theorem counting_result {c : Ctl} {i : Instr} {o : Alu} {g : DWord → Nat} (f : Nat → Nat → Nat) (hx : ∀ s, exec i s = counting c i o s f)
    (hd : i.wf = true → o.dst.isReg = true) (hfg : ∀ a : DWord, f (tyWidth o.ty) (a.toNat % 2 ^ tyWidth o.ty) = g a) :
    AluResult c i o (RdAs.of o.ty) .w32 .w32 1 (fun a _ _ => BitVec.ofNat 64 (g a)) := by
  simp only [counting, hfg] at hx
  exact fixedAlu_result hx (fun h => dstOk_of_isReg (hd h)) fun h hp => absurd hp (notP_fits (ty := .b32) (hd h))

/-- The bits below w of a number are those of its residue. -/
theorem testBit_mod_of_mem_range {w j : Nat} (a : Nat) (hj : j ∈ List.range w) : (a % 2 ^ w).testBit j = a.testBit j := by
  rw [Nat.testBit_mod_two_pow, decide_eq_true (List.mem_range.1 hj), Bool.true_and]

theorem popCount_mod (w a : Nat) : popCount w (a % 2 ^ w) = (List.range w).countP a.testBit := by
  rw [popCount, ← List.countP_eq_length_filter]
  exact List.countP_congr fun j hj => by rw [testBit_mod_of_mem_range a hj]

theorem leadZeros_mod (w a : Nat) : leadZeros w (a % 2 ^ w) = ((List.range w).reverse.takeWhile fun j => !a.testBit j).length := by
  induction w with
  | zero => simp [leadZeros, Nat.mod_one]
  | succ w ih =>
    rw [List.range_succ, List.reverse_append, List.reverse_singleton, List.singleton_append, List.takeWhile_cons]
    have htop : a % 2 ^ (w + 1) = a % 2 ^ w + 2 ^ w * (a.testBit w).toNat := by
      rw [Nat.mod_pow_succ, Nat.toNat_testBit]
    have hlow : a % 2 ^ w < 2 ^ w := Nat.mod_lt _ (by positivity)
    cases hb : a.testBit w with
    | true =>
      rw [hb, Bool.toNat_true, mul_one] at htop
      have hlog : (a % 2 ^ (w + 1)).log2 = w := (Nat.log2_eq_iff (by omega)).2 ⟨by omega, by omega⟩
      simp only [leadZeros, hlog, Bool.not_true, Bool.false_eq_true, if_false, List.length_nil]
      rw [if_neg (by omega)]
      omega
    | false =>
      rw [hb, Bool.toNat_false, mul_zero, add_zero] at htop
      simp only [Bool.not_false, if_true, List.length_cons, ← ih, htop, leadZeros]
      split
      · rfl
      · have hlog := (Nat.log2_lt (by assumption)).2 hlow
        omega

theorem trailZeros_mod (w a : Nat) : trailZeros w (a % 2 ^ w) = ((List.range w).takeWhile fun j => !a.testBit j).length := by
  have hfind : (List.range w).find? (a % 2 ^ w).testBit = (List.range w).find? a.testBit :=
    List.find?_congr fun j hj => testBit_mod_of_mem_range a hj
  rw [trailZeros, hfind, List.takeWhile_eq_take_findIdx_not, List.find?_eq_getElem?_findIdx]
  simp only [Bool.not_not, List.length_take]
  have hle := List.findIdx_le_length (p := a.testBit) (xs := List.range w)
  grind

theorem bitReverse_succ (w a : Nat) : bitReverse (w + 1) a = 2 ^ 1 * bitReverse w a + b2n (a.testBit w) := by
  rw [bitReverse, List.range_succ, List.foldl_append]
  rfl
theorem bitReverse_testBit (w a j : Nat) : (bitReverse w a).testBit j = (decide (j < w) && a.testBit (w - 1 - j)) := by
  induction w generalizing j with
  | zero => simp [bitReverse]
  | succ w ih =>
    have hb : b2n (a.testBit w) < 2 ^ 1 := by unfold b2n; split <;> decide
    rw [bitReverse_succ, Nat.testBit_two_pow_mul_add _ hb]
    cases j with
    | zero => cases h : a.testBit w <;> simp [b2n, h]
    | succ j => simp [ih, Nat.sub_sub, Nat.add_comm]
theorem bitReverse_toNat {w : Nat} (a : BitVec w) : bitReverse w a.toNat = a.reverse.toNat := by
  apply Nat.eq_of_testBit_eq
  intro j
  rw [bitReverse_testBit, BitVec.testBit_toNat, BitVec.testBit_toNat, BitVec.getLsbD_reverse, BitVec.getMsbD_eq_getLsbD]

/-! Byte permutation (R97): a result of four bytes. -/

theorem prmtGo_lt (src sel n i prev : Nat) : prmtGo src sel n i prev < 256 ^ n := by
  induction n generalizing i prev with
  | zero => simp [prmtGo]
  | succ n ih =>
    simp only [prmtGo]
    generalize hb : (if sel / 16 ^ i % 16 < 8 then _ else _ : Nat) = b
    have hbyte : b < 256 := by
      subst hb
      split_ifs <;> omega
    have hrest := ih (i + 1) b
    rw [pow_succ]
    omega
theorem prmt_result (c : Ctl) (o : Alu) : FieldResult c (.prmt c o) o (fun w a sel k => BitVec.ofNat w (prmt a.toNat k.toNat sel)) := by
  refine shifty_result (fun _ a sel k => prmt a k sel) (fun _ => rfl) (fun h => (typed_of_tri h).2) fun h a sel k => ?_
  have hty : o.ty = .b32 := by simpa using (typed_of_tri h).1
  have hw : tyWidth o.ty = 32 := by rw [hty]; rfl
  have hlt : prmt a.toNat k.toNat sel < 2 ^ 32 := prmtGo_lt ..
  rw [BitVec.toNat_ofNat, Nat.mod_eq_of_lt (hlt.trans_eq (by rw [hw]))]

/-! Comparison, selection, addresses and logic of predicates (R98 to R101). -/

theorem icmp_result (c : Ctl) (r : Rel) (o : Alu) : AluResult c (.icmp c r o) o (RdAs.of o.ty) (RdAs.of o.ty) .w32 1 fun a b _ =>
    BitVec.ofNat 64 (b2n (relHolds r (intOf o.ty a) (intOf o.ty b))) :=
  fixedAlu_result (fun _ => rfl) (fun h => dstOk_of_isPReg (dst_of_conj h)) fun _ _ _ _ _ _ => regVal_wordOf_b2n ..
theorem isel_result (c : Ctl) (o : Alu) :
    AluResult c (.isel c o) o (RdAs.of o.ty) (RdAs.of o.ty) .w32 o.ty.words fun a b k => if k ≠ 0 then a else b :=
  AluResult.congr (fixedAlu_typed (f := fun a b k => if k = 0 then b else a) (fun _ => rfl) dst_of_conj) fun _ _ _ _ => (ite_not ..).symm
theorem mov_result (c : Ctl) (o : Alu) : TypedResult c (.mov c o) o (fun _ b _ => b) := by
  unfold TypedResult
  exact fixedAlu_typed (fun _ => rfl) dst_of_conj
theorem plog_result (c : Ctl) (op : POp) (o : Alu) : AluResult c (.plog c op o) o .w32 .w32 .w32 1 fun a b _ =>
    BitVec.ofNat 64 (b2n (plog op (a != 0) (b != 0))) :=
  fixedAlu_result (fun _ => rfl) (fun h => dstOk_of_isP (dst_of_conj h)) fun _ _ _ _ _ _ => regVal_wordOf_b2n ..

theorem lea_value (a b : DWord) (ty : Ty) (sh : Nat) :
    BitVec.ofNat 64 (wrap 64 ((a.toNat : Int) + (if ty = .i32 then signedOf 32 b.toNat else (b.toNat : Int)) * 2 ^ sh))
      = a + (if ty = .i32 then (b.setWidth 32).signExtend 64 else b) <<< sh := by
  have hix : BitVec.ofInt 64 (if ty = .i32 then signedOf 32 b.toNat else (b.toNat : Int))
      = if ty = .i32 then (b.setWidth 32).signExtend 64 else b := by
    split
    · rw [signedOf_eq_toInt]; rfl
    · simp
  rw [ofNat_wrap, BitVec.ofInt_add, BitVec.ofInt_mul, hix, ofInt_two_pow, BitVec.shiftLeft_eq_mul_twoPow]
  simp
theorem lea_result (c : Ctl) (sh : Nat) (o : Alu) : AluResult c (.lea c sh o) o .w64z (RdAs.of o.ty) .w32 2 fun a b _ =>
    a + (if o.ty = .i32 then (b.setWidth 32).signExtend 64 else b) <<< sh := by
  have hd (h : (Instr.lea c sh o).wf = true) : o.dst.fits .b64 = true := by
    change (_ && o.dst.isPair && _ && _ && _ && _) = true at h
    simp only [Bool.and_eq_true] at h
    obtain ⟨⟨⟨⟨⟨-, hd⟩, -⟩, -⟩, -⟩, -⟩ := h
    exact hd
  have hx (s : State) : exec (.lea c sh o) s = execLea c sh o s := rfl
  simp only [execLea, beq_iff_eq, lea_value] at hx
  exact fixedAlu_result hx (fun h => dstOk_fits (hd h)) fun h hp => absurd hp (notP_fits (hd h))

/-! Instructions that write registers of their own choice (R99, R101). -/

theorem RegResult.of_wf {c : Ctl} {i : Instr} {w : Nat} {d : Dst} {codes : List Nat} {f : Iss → Nat → Nat → Word}
    (h : i.wf = true → RegResult c i w d codes f) : RegResult c i w d codes f := fun s e hwf => h hwf s e hwf
theorem write_result {c : Ctl} {i : Instr} {w : Nat} {d : Dst} {codes : List Nat} {f : Iss → Nat → Nat → Word} {lat ctr n : Nat}
    {ws : Iss → List RegWrite} {os : List (RdAs × Src)}
    (hx : ∀ s, exec i s = issue c i w s fun e => .ok (e.tally (e.write lat (ws e) os) ctr n, false))
    (hc : ∀ e, Carries (ws e) d codes e.act (f e)) : RegResult c i w d codes f :=
  regResult hx fun _ e _ hg => ⟨_, _, ws e, lat, e.latch e.act os e.g, rfl, (Iss.write_local ..).trans (State.tally_local ..),
    SameGroup.latch .., (State.tally_group ..).symm ▸ Iss.write_group hg .., hc e⟩

theorem Carries.congr {ws : List RegWrite} {d : Dst} {codes act : List Nat} {f g : Nat → Nat → Word} (h : Carries ws d codes act f)
    (hfg : ∀ n k, k < codes.length → f n k = g n k) : Carries ws d codes act g where
  codeOk := h.codeOk
  kind := h.kind
  vals n k hk := hfg n k hk ▸ h.vals n k hk
  nodup := h.nodup
  only w hw := by
    obtain ⟨k, hk, hcode, hslot, hv, hs⟩ := h.only w hw
    exact ⟨k, hk, hcode, hslot, hv.trans (hfg _ k hk), hs⟩
  all := h.all
/-- Of the writes, those outside the first code carry the other words. -/
theorem Carries.filter {ws : List RegWrite} {d : Dst} {c : Nat} {codes act : List Nat} {f : Nat → Nat → Word}
    (h : Carries ws d (c :: codes) act f) {p : RegWrite → Bool} (hp : ∀ w ∈ ws, p w = true ↔ w.code ≠ c) :
    Carries (ws.filter p) d codes act (fun n k => f n (k + 1)) where
  codeOk k hk := h.codeOk k (List.mem_cons_of_mem _ hk)
  kind k hk := h.kind k (List.mem_cons_of_mem _ hk)
  vals n k hk := h.vals n (k + 1) (Nat.succ_lt_succ hk)
  nodup := h.nodup.of_cons
  only w hw := by
    obtain ⟨hw, hpw⟩ := List.mem_filter.1 hw
    obtain ⟨k, hk, hcode, hrest⟩ := h.only w hw
    cases k with
    | zero => exact absurd hcode ((hp w hw).1 hpw)
    | succ k => exact ⟨k, Nat.lt_of_succ_lt_succ hk, hcode, hrest⟩
  all hd n hn hs k hk := by
    obtain ⟨w, hw, hcode, hslot⟩ := h.all hd n hn hs (k + 1) (Nat.succ_lt_succ hk)
    have hne : w.code ≠ c := fun e => (List.nodup_cons.1 h.nodup).1 (e ▸ hcode ▸ List.getElem_mem hk)
    exact ⟨w, List.mem_filter.2 ⟨hw, (hp w hw).2 hne⟩, hcode, hslot⟩
/-- Consecutive predicates, each with a value of its own. -/
theorem carries_predicates {m n : Nat} (hm : m + n ≤ 24) (act : List Nat) {f : Nat → Nat → Word} (hf : ∀ a j, regVal 0xE0 (f a j) = f a j) :
    Carries (act.flatMap fun a => (List.range n).map fun j => ⟨a, 0xE0 + m + j, f a j⟩) (.p m) ((Dst.p m).codes n) act f := by
  have hcode {k : Nat} (hk : k ∈ (Dst.p m).codes n) : 0xE0 ≤ k ∧ k < 0xF8 := by
    obtain ⟨j, hj, rfl⟩ := List.mem_map.1 hk
    have := List.mem_range.1 hj
    simp only [Dst.code]
    omega
  have hget (k : Nat) (h : k < ((Dst.p m).codes n).length) : k < n ∧ ((Dst.p m).codes n)[k] = 0xE0 + m + k := by
    simpa [Dst.codes, Dst.code] using h
  refine ⟨fun k hk => .inr (hcode hk), fun k hk => ?kind, fun a k h => ?vals, ?nodup, fun w hw => ?only, fun _ a ha _ k h => ?all⟩
  case kind =>
    have := hcode hk
    simp only [reduceCtorEq, exists_false, iff_false]
    omega
  case vals =>
    have := hcode (List.getElem_mem h)
    have hv := hf a k
    rw [regVal, if_neg (by omega)] at hv
    rw [regVal, if_neg (by omega), hv]
  case nodup => exact List.nodup_range.map fun a b h => by simpa using h
  case only =>
    simp only [List.mem_flatMap, List.mem_map, List.mem_range] at hw
    obtain ⟨a, ha, j, hj, rfl⟩ := hw
    exact ⟨j, by simpa [Dst.codes] using hj, by simp [Dst.codes, Dst.code], ha, rfl, by simp⟩
  case all =>
    refine ⟨⟨a, 0xE0 + m + k, f a k⟩, ?_, (hget k h).2.symm, rfl⟩
    simp only [List.mem_flatMap, List.mem_map, List.mem_range]
    exact ⟨a, ha, k, (hget k h).1, rfl⟩

theorem movi_carries {ty : Ty} {d : Dst} (hty : ty = .b32 ∨ ty = .b64) (hd : d.fits ty = true) (v : Word) (act : List Nat) :
    Carries (let ws := dstWrites d ty.words (act.map fun n => (n, if ty.is64 then pairOf 0 v else v.setWidth 64))
      if ty.is64 then ws.filter (·.code % 2 == 1) else ws) d (if ty = .b64 then [d.code + 1] else [d.code]) act fun _ _ => v := by
  have hall (u : DWord) := carries_dstWrites d ty.words act (fun _ => u) (dstOk_fits hd) fun hp => absurd hp (notP_fits hd)
  rcases hty with rfl | rfl
  · refine Carries.congr (codes_one hd ▸ hall (v.setWidth 64)) fun _ k hk => ?_
    obtain rfl : k = 0 := by simpa using hk
    rw [wordOf_zero, BitVec.setWidth_setWidth_of_le _ (by decide), BitVec.setWidth_eq]
  · obtain ⟨hcodes, heven⟩ := codes_two hd
    have hpair : Carries _ d (d.codes 2) act _ := hall (pairOf 0 v)
    rw [hcodes] at hpair
    refine (hpair.filter fun w hw => ?_).congr fun _ k hk => ?_
    · obtain ⟨j, hj, hcode, -⟩ := hpair.only w hw
      rw [hcode]
      match j, hj with
      | 0, _ => simp [heven]
      | 1, _ => simp; omega
    · obtain rfl : k = 0 := by simpa using hk
      exact wordOf_pairOf_one 0 v
theorem movi_result (c : Ctl) (v : Word) (o : Alu) :
    RegResult c (.movi c v o) 1 o.dst (if o.ty = .b64 then [o.dst.code + 1] else [o.dst.code]) fun _ _ _ => v := by
  refine .of_wf fun h => ?_
  change (_ && raw.contains o.ty && o.dst.fits o.ty && _ && _ && _) = true at h
  simp only [Bool.and_eq_true] at h
  obtain ⟨⟨⟨⟨⟨-, hty⟩, hd⟩, -⟩, -⟩, -⟩ := h
  have hx (s : State) : exec (.movi c v o) s = execMovi c v o s := rfl
  simp only [execMovi] at hx
  exact write_result hx fun e => movi_carries (ty_of_raw hty) hd v e.act

theorem foldl_range_add (n : Nat) (f : Nat → Nat) : (List.range n).foldl (fun v j => v + f j) 0 = ((List.range n).map f).sum := by
  rw [List.sum_eq_foldl, List.foldl_map]
theorem pmovPack_result (c : Ctl) (n A : Nat) (o : Alu) (ha : o.a = .p A) : RegResult c (.pmovPack c n o) 1 o.dst (o.dst.codes 1) fun e m _ =>
    BitVec.ofNat 32 (((List.range n).map fun j => (e.reg m (0xE0 + A + j) (2 * j)).toNat * 2 ^ j).sum) := by
  refine .of_wf fun h => ?_
  change (_ && o.dst.isReg && _ && _ && _ && _) = true at h
  simp only [Bool.and_eq_true] at h
  obtain ⟨⟨⟨⟨⟨-, hd⟩, -⟩, -⟩, -⟩, -⟩ := h
  have hx (s : State) : exec (.pmovPack c n o) s = execPmovPack c n o s := rfl
  simp only [execPmovPack, ha, foldl_range_add] at hx
  refine write_result hx fun e => ?_
  refine Carries.congr (carries_dstWrites o.dst 1 e.act _ (dstOk_of_isReg hd) fun hp => absurd hp (notP_fits (ty := .b32) hd)) fun t k hk => ?_
  obtain rfl : k = 0 := by simpa [codes_one hd] using hk
  rw [wordOf_zero, BitVec.setWidth_ofNat_of_le (by decide)]
theorem pmovUnpack_result (c : Ctl) (n : Nat) (o : Alu) : RegResult c (.pmovUnpack c n o) 1 o.dst (o.dst.codes n) fun e m j =>
    BitVec.ofNat 32 (b2n ((e.opnd [(.w32, o.a)] m 0).toNat.testBit j)) := by
  refine .of_wf fun h => ?_
  obtain ⟨-, hd⟩ := Bool.and_eq_true_iff.1 h
  cases hdst : o.dst with
  | p d =>
    simp only [hdst, decide_eq_true_eq] at hd
    have hx (s : State) : exec (.pmovUnpack c n o) s = execPmovUnpack c n o s := rfl
    simp only [execPmovUnpack, hdst, Iss.read, List.flatMap_map] at hx
    exact write_result hx fun e => carries_predicates hd e.act fun _ _ => regVal_b2n ..
  | none | x d | s d => simp [hdst] at hd

/-- Settles O3: the counts and the reversal bit by bit, and the others by the lemma of each instruction. -/
theorem countMovePredicateResults : Obligations.CountMovePredicateResults := by
  unfold Obligations.CountMovePredicateResults
  intro c o
  refine ⟨?popc, ?clz, ?ctz, ?brev, prmt_result c o, fun r => icmp_result c r o, isel_result c o, mov_result c o, fun v => movi_result c v o,
    fun sh => lea_result c sh o, fun op => plog_result c op o, fun n A => pmovPack_result c n A o, fun n => pmovUnpack_result c n o⟩
  case popc => exact counting_result popCount (fun _ => rfl) dst_of_conj fun a => popCount_mod ..
  case clz => exact counting_result leadZeros (fun _ => rfl) dst_of_conj fun a => leadZeros_mod ..
  case ctz => exact counting_result trailZeros (fun _ => rfl) dst_of_conj fun a => trailZeros_mod ..
  case brev => exact shifty_result (fun w a _ _ => bitReverse w a) (fun _ => rfl) fits_of_una fun _ a _ _ => bitReverse_toNat a

end Sys2Proof.Machine
end

section
/-! The management path (spec/16_identity_accounting.md R401, spec/13_scheduling.md R330): SET_QUEUE and the take that it ends. -/

namespace Sys2Proof.Machine

theorem serving_iff {s : State} {m : Mail} : s.serving m = true ↔ s.mailbox = { mail := m, status := 0xFFFF } := beq_iff_eq

/-- A command that the root has read, outside recovery, answers 0 over what its body leaves. -/
theorem serve_of_body {code : Nat} {m : Mail} {s t : State} {body : State → Option State} (i : Instr) (hcode : m.code = code)
    (hmail : s.serving m = true) (hrec : s.recovery = 0) (hbody : body s.draw = some t) : serve code i m s body = .next (t.answer m 0) := by
  have hdraw : s.draw.recovery = 0 := hrec
  simp [serve, hcode, hmail, hdraw, hbody]

/-- SET_QUEUE that gives a queue out of service to another context ends the take that has begun there: the pages refused to the take are
forgotten with it. -/
theorem setQueue_newCtx_forgets_host {s : State} {m : Mail} (hcode : m.code = 0x12) (hmail : s.serving m = true) (hrec : s.recovery = 0)
    (hq : mailOp m 0 1 < 64) (hen : ((mfind s.queues (mailOp m 0 1)).getD {}).en = false)
    (hctx : bits (mailOp m 16 16) 121 116 ≠ ((mfind s.queues (mailOp m 0 1)).getD {}).ctx) :
    ∃ t x, exec (.setQueue m) s = .next t ∧ mfind t.queues (mailOp m 0 1) = some x ∧ x.host = [] := by
  have hqueues : s.draw.queues = s.queues := rfl
  change ∃ t x, execSetQueue m s = .next t ∧ _
  unfold execSetQueue
  refine ⟨_, _, serve_of_body (.setQueue m) hcode hmail hrec (if_neg ?accepted), (mfind_minsert ..).trans (if_pos rfl), ?forgets⟩
  case accepted => simp [hqueues, hen, hq]
  case forgets => simp [hqueues, hctx]

/-- SET_QUEUE of queue 0, out of service, for context 0. -/
def queueToCtx0 : Mail := { code := 0x12, buf := 0, buflen := 0, ops := 0 }
theorem mailOp_queueToCtx0 (i n : Nat) : mailOp queueToCtx0 i n = 0 := by
  rw [mailOp, queueToCtx0, BitVec.ofNat_eq_ofNat, BitVec.toNat_zero, Nat.zero_div, Nat.zero_mod]
/-- Queue 0 was taken out of service for context 1 while a take of its entry had met a page that the control node refused (R395); the root
has read the next SET_QUEUE. -/
def refusedTakeState : State :=
  { State.reset with queues := [(0, { ctx := 1, host := [4] })], mailbox := { mail := queueToCtx0, status := 0xFFFF } }

/-- Refutes O55: its SET_QUEUE clause has every field that it does not name stay, and so the pages refused to a take (R395); a change of the
queue's context ends the take and forgets them. -/
theorem not_mailboxCommands : ¬ Obligations.MailboxCommands := by
  unfold Obligations.MailboxCommands
  intro h
  obtain ⟨-, hserved⟩ := h refusedTakeState queueToCtx0
  obtain ⟨-, -, -, -, hqueue, -⟩ := hserved rfl (by decide)
  obtain ⟨hclause, -⟩ := hqueue ⟨rfl, rfl⟩
  simp only [mailOp_queueToCtx0] at hclause
  obtain ⟨t, hexec, -, r, n, -, -, hkept⟩ := hclause (by decide) rfl
  obtain ⟨t', x, hexec', hfind, hforgot⟩ :=
    setQueue_newCtx_forgets_host (s := refusedTakeState) (m := queueToCtx0) rfl (serving_iff.2 rfl) rfl
      (by simp [mailOp_queueToCtx0]) (by rw [mailOp_queueToCtx0]; rfl) (by rw [mailOp_queueToCtx0, mailOp_queueToCtx0]; decide)
  rw [mailOp_queueToCtx0] at hfind
  obtain rfl : t' = t := by simpa [hexec'] using hexec
  have hstays : x.host = [4] := by
    rw [Option.some.inj (hfind.symm.trans hkept)]
    rfl
  exact absurd (hforgot.symm.trans hstays) (by decide)

end Sys2Proof.Machine
end

section
/-! Software traps (spec/17_traps.md R427, R428): TRAP and BRK, and the return from a handler. -/

namespace Sys2Proof.Machine

variable {s : State} {p gi : Nat}

/-! What an issue that goes through answers, from what its own effect answers. -/

theorem conclude_ok {c : Ctl} {i : Instr} {w : Nat} {e : Iss} (hgo : s.goes c i w = some e) (t : State) (r : Bool) :
    e.conclude { s with draws := s.draws + 1 } c i (.ok (t, r)) = .next (t.finish e.p e.gi c r) :=
  (issue_goes hgo fun _ => .ok (t, r)).symm.trans (issue_ok hgo rfl)

/-- An instruction whose own effect answers a trap takes it, unless its class records no data address (R424). -/
theorem traps_of_conclude {c : Ctl} {i : Instr} {e : Iss} {x : Trap}
    (hexec : exec i s = e.conclude { s with draws := s.draws + 1 } c i (.error (.trap x))) (haddr : i.addressless = false) : Traps s e i x := by
  rw [Traps, hexec, Iss.conclude, haddr]
  rfl

/-- A system instruction whose own effect is only to trap takes that trap where a thread is active (R426). -/
theorem traps_of_sysIssue {c : Ctl} {i : Instr} {e : Iss} {x : Trap} (hexec : exec i s = sysIssue c i s fun _ => .error (.trap x))
    (hgo : s.goes c i 1 = some e) (hact : e.act ≠ []) (haddr : i.addressless = false) : Traps s e i x := by
  refine traps_of_conclude (c := c) ?_ haddr
  rw [hexec, sysIssue, issue_goes hgo, if_neg (by simpa using hact)]

theorem State.group_of_group? {g : Group} (h : (s.core p).group? gi = some g) : s.group p gi = g := by
  rw [State.group, Core.group, h, Option.getD_some]

/-! The threads of a group through the beginning and the end of an issue. -/

theorem SameGroup.handler {g h : Group} (a : SameGroup g h) : h.handler = g.handler := by
  have := congrArg Group.handler a.shell
  exact this

/-- A thread of a group as an issue of a head set begins: the head set's threads go on, the others that could have issued wait (R286, R308). -/
def Thread.atIssue (g : Group) (head : List Nat) (t : Thread) : Thread :=
  if head.contains t.slot then { t with wait := 0, pc := nextPC t.pc, exempt := false, target := none, returned := none }
  else if t.st == .ready && (!g.handler || t.inH) then { t with wait := t.wait + 1 } else t

theorem Thread.atIssue_slot (g : Group) (head : List Nat) (t : Thread) : (t.atIssue g head).slot = t.slot := by
  unfold Thread.atIssue
  split
  · rfl
  · split <;> rfl

theorem Thread.atIssue_pc {g : Group} {head : List Nat} {t : Thread} (h : t.slot ∈ head) : (t.atIssue g head).pc = nextPC t.pc := by
  rw [Thread.atIssue, if_pos (List.contains_iff_mem.2 h)]

theorem begin_threads {c : Ctl} {w : Nat} {b : Iss} (h : s.begin c w = some b) :
    b.g.threads = (s.group b.p b.gi).threads.map (Thread.atIssue (s.group b.p b.gi) b.head) := by
  unfold State.begin at h
  dsimp only at h
  split at h
  · cases h
  next g hg =>
    split at h
    · cases h
    · cases h
      rw [State.group_of_group? hg]
      rfl

/-- Every thread of the head set goes on as the issue begins (R308). -/
theorem goes_falls {c : Ctl} {i : Instr} {w : Nat} {e : Iss} (h : s.goes c i w = some e) : e.Falls s e.s e.head := by
  obtain ⟨b, hbegin, rfl, hgoing⟩ := goes_some h
  intro n hn
  rw [hgoing.g]
  simp only [Iss.drawn, Group.thread?, begin_threads hbegin, List.find?_map, Function.comp_def, Thread.atIssue_slot]
  cases hfind : (s.group b.p b.gi).threads.find? (·.slot == n) with
  | none => rfl
  | some t =>
    have hslot : t.slot = n := by simpa using List.find?_some hfind
    exact congrArg some (Thread.atIssue_pc (hslot ▸ hn))

theorem Group.unpark_threads (g : Group) : g.unpark.threads = g.threads := by
  unfold Group.unpark
  split
  · rfl
  · split <;> rfl

theorem Group.settle_threads (g : Group) : g.settle.threads = g.threads := by
  unfold Group.settle
  split
  · rfl
  · split
    · split <;> rfl
    · split
      · exact Group.unpark_threads _
      · rfl
    · rfl

theorem State.dBit_threads {g0 : Group} (c : Ctl) (h : (s.core p).group? gi = some g0) :
    ((s.dBit p gi c).group p gi).threads = (s.group p gi).threads := by
  unfold State.dBit
  split
  · rfl
  · split
    · rw [State.park, State.modGroup_group h]
    · rw [State.modGroup_group h]

/-- After an issue whose instruction ends the run (R290), no run is left, and every thread is as the instruction's own effect left it. -/
theorem State.finish_endRun {g0 : Group} (c : Ctl) (h : (s.core p).group? gi = some g0) :
    ((s.finish p gi c true).group p gi).run = none ∧ ((s.finish p gi c true).group p gi).threads = (s.group p gi).threads := by
  obtain ⟨g1, hg1⟩ := (LocalTo.dBit c).some_group h
  obtain ⟨g2, hg2⟩ := (LocalTo.settleGroup (s := s.dBit p gi c)).some_group hg1
  have hends : s.finish p gi c true = ((s.dBit p gi c).settleGroup p gi).endRun p gi := by simp [State.finish, State.runOver]
  rw [hends, State.endRun_group hg2, State.settleGroup, State.modGroup_group hg1]
  exact ⟨rfl, (Group.settle_threads _).trans (State.dBit_threads c h)⟩

/-! The return from a handler. -/

theorem Core.group?_mapGroups (c : Core) (f : Group → Group) (gj : Nat) :
    ({ c with wg := c.wg.map fun w => { w with groups := w.groups.map f } } : Core).group? gj
      = if gj = guestIx ∨ gj = orphanIx then c.group? gj else (c.group? gj).map f := by
  unfold Core.group?
  by_cases hguest : gj = guestIx
  · simp [hguest]
  · by_cases horphan : gj = orphanIx
    · simp [horphan]
    · cases c.wg <;> simp [hguest, horphan]

/-- A group where the end of handler state was due (R422): the handler mark stays while a thread is in H. -/
def Group.leave (g : Group) (stop : Option Nat) : Group := { g with handler := g.handler && g.threads.any (·.inH), dbgStop := stop }

/-- Of its own group, the end of handler state changes the handler mark, which stays where a thread is in H, and a debug stop. -/
theorem State.leaveHandler_group? {g : Group} (h : (s.core p).group? gi = some g) :
    ∃ d, ((s.leaveHandler p gi).core p).group? gi = some (g.leave d) := by
  have hgroup := State.group_of_group? h
  unfold State.leaveHandler
  rw [hgroup]
  simp only [Group.leave]
  split
  next hleaves =>
    have hmark : (g.handler && g.threads.any (·.inH)) = false := by simp_all
    rw [State.modWg, State.modCore_core, State.modGroup_core, Core.group?_mapGroups, Core.setGroup_group?, if_pos rfl, h, hgroup, hmark]
    split
    · exact ⟨g.dbgStop, rfl⟩
    · simp only [Option.map_some]
      split
      · exact ⟨none, rfl⟩
      · exact ⟨g.dbgStop, rfl⟩
  next hstays =>
    have hmark : (g.handler && g.threads.any (·.inH)) = g.handler := by cases hh : g.handler <;> simp_all
    rw [hmark]
    exact ⟨g.dbgStop, h⟩

theorem State.leaveHandler_mem (s : State) (p gi : Nat) : (s.leaveHandler p gi).mem = s.mem := by
  unfold State.leaveHandler
  dsimp only
  split <;> rfl

/-- A thread that returns from a handler (R428). -/
def Thread.trapReturn (at_ target : DWord) (t : Thread) : Thread := { t with pc := target, inH := false, exempt := true, returned := some at_ }

theorem State.trapReturn_group? {g : Group} (h : (s.core p).group? gi = some g) (act : List Nat) (at_ target : DWord) :
    ∃ d, ((s.trapReturn p gi act at_ target).core p).group? gi
      = some ((g.modThreads act (Thread.trapReturn at_ target)).leave d) := by
  refine State.leaveHandler_group? ?_
  rw [State.modGroup_core, Core.setGroup_group?, if_pos rfl, h, State.group_of_group? h]
  rfl

theorem State.trapReturn_mem (s : State) (p gi : Nat) (act : List Nat) (at_ target : DWord) :
    (s.trapReturn p gi act at_ target).mem = s.mem := State.leaveHandler_mem ..

theorem Group.reg_trapReturn (g : Group) (act : List Nat) (at_ target : DWord) (slot code : Nat) :
    (g.modThreads act (Thread.trapReturn at_ target)).reg slot code = g.reg slot code :=
  Group.reg_map g (g.modThreads act (Thread.trapReturn at_ target)) (fun t => if act.contains t.slot then t.trapReturn at_ target else t)
    (fun t => by split <;> exact ⟨rfl, rfl, rfl⟩) rfl rfl slot code

theorem Group.thread?_trapReturn (g : Group) (act : List Nat) (at_ target : DWord) (n : Nat) :
    (g.modThreads act (Thread.trapReturn at_ target)).thread? n
      = if act.contains n then (g.thread? n).map (Thread.trapReturn at_ target) else g.thread? n :=
  Group.thread?_modThreads g act n _ fun _ => rfl

/-! TRET. -/

/-- What a TRET that goes through leaves (R428): the active threads have returned, the others of the head set have gone on, the run is over,
and the group is in handler state where a thread is still in H. -/
theorem tret_returns {c : Ctl} {i : Instr} {e : Iss} {w : Nat} (hgo : s.goes c i w = some e) (hhandler : (s.group e.p e.gi).handler = true)
    (target : DWord) : let t := (e.s.trapReturn e.p e.gi e.act e.pc target).finish e.p e.gi c true
    e.SameRegs s t ∧ SameBytes s t ∧ (t.group e.p e.gi).run = none ∧ e.Falls s t (e.head.filter fun n => !e.act.contains n)
      ∧ (∀ n ∈ e.act, ((t.group e.p e.gi).thread? n).map (fun u => (u.pc, u.inH, u.exempt))
          = ((s.group e.p e.gi).thread? n).map fun _ => (target, false, true))
      ∧ ((t.group e.p e.gi).handler = true ↔ ∃ u ∈ (t.group e.p e.gi).threads, u.inH = true) := by
  intro t
  obtain ⟨-, -, -, hgoing⟩ := goes_some hgo
  obtain ⟨g, hg⟩ := hgoing.here
  have hown : e.g = g := hgoing.g.symm.trans (State.group_of_group? hg)
  obtain ⟨d, hreturned⟩ := State.trapReturn_group? hg e.act e.pc target
  have hfinished := State.finish_group c true hreturned
  obtain ⟨hrun, hthreads⟩ := State.finish_endRun c hreturned
  rw [State.group_of_group? hreturned] at hfinished hthreads
  have hthread (n : Nat) : (t.group e.p e.gi).thread? n
      = if e.act.contains n then (g.thread? n).map (Thread.trapReturn e.pc target) else g.thread? n := by
    rw [← Group.thread?_trapReturn, Group.thread?, hthreads]
    rfl
  refine ⟨fun slot code => ?regs, fun a => ?bytes, hrun, fun n hn => ?falls, fun n hn => ?returned, ?handler⟩
  case regs =>
    calc (t.group e.p e.gi).reg slot code
      _ = (g.modThreads e.act (Thread.trapReturn e.pc target)).reg slot code := (hfinished.regs slot code).trans (Group.reg_congr rfl rfl slot code)
      _ = (s.group e.p e.gi).reg slot code := by rw [Group.reg_trapReturn, ← hown, hgoing.same.regs]
  case bytes =>
    rw [(LocalTo.finish c true).mem, State.trapReturn_mem, hgoing.local_.mem]
  case falls =>
    obtain ⟨hhead, hidle⟩ := List.mem_filter.1 hn
    rw [hthread, if_neg (by simpa using hidle), ← hown, ← hgoing.g]
    exact goes_falls hgo n hhead
  case returned =>
    have hnow : (e.g.thread? n).isSome = true := hgoing.head n (hgoing.act n hn)
    obtain ⟨u, hu⟩ := Option.isSome_iff_exists.1 hnow
    obtain ⟨v, hv⟩ := Option.isSome_iff_exists.1 ((hgoing.same.slots n).symm.trans hnow)
    rw [hthread, if_pos (List.contains_iff_mem.2 hn), ← hown, hu, hv]
    rfl
  case handler =>
    rw [hfinished.handler, hthreads]
    have hin : g.handler = true := by rw [← hown, hgoing.same.handler, hhandler]
    simp [Group.leave, Group.modThreads, hin]

/-- The three answers of TRET with an active thread (R428, R32). -/
theorem exec_tret {c : Ctl} {next : Bool} {e : Iss} (hgo : s.goes c (.tret c next) 1 = some e) (hact : e.act ≠ []) {pair target : DWord}
    (hpair : pair = pairOf (e.reg e.lowest 0xBE 0) (e.reg e.lowest 0xBF 0)) (htarget : target = if next then nextPC pair else pair) :
    exec (.tret c next) s = e.conclude { s with draws := s.draws + 1 } c (.tret c next)
      (if (s.group e.p e.gi).handler = false then .error (.trap { cause := 0x01 })
        else if pcAligned target = false ∨ 2 ^ 57 ≤ target.toNat then .error (.trap { cause := 0x03, addr := target.toNat })
        else .ok (e.s.trapReturn e.p e.gi e.act e.pc target, true)) := by
  obtain ⟨-, -, -, hgoing⟩ := goes_some hgo
  subst hpair htarget
  change execTret c next s = _
  rw [execTret, issue_goes hgo, if_neg (by simpa using hact), hgoing.same.handler]
  simp only [Bool.not_eq_true', Bool.or_eq_true, decide_eq_true_eq, or_comm]
  rfl

/-- Settles O25. TRAP and BRK trap at their issue (R427). TRET takes the branch of its conditions (R428): outside a handler, with a target
that is no address of an instruction (log entry 17), or returning. -/
theorem softwareTrapsAndReturn : Obligations.SoftwareTrapsAndReturn := by
  unfold Obligations.SoftwareTrapsAndReturn
  intro c s e hact
  refine ⟨fun code _ hgo => traps_of_sysIssue rfl hgo hact rfl, fun code _ hgo => traps_of_sysIssue rfl hgo hact rfl, fun next _ hgo => ?_⟩
  intro pair target
  have hexec := exec_tret hgo hact (pair := pair) (target := target) rfl rfl
  refine ⟨fun houtside => ?outside, fun hinside hbad => ?misaligned, fun hinside haligned hlow => ?returns⟩
  case outside =>
    rw [if_pos houtside] at hexec
    exact traps_of_conclude hexec rfl
  case misaligned =>
    rw [if_neg (by simp [hinside]), if_pos hbad] at hexec
    exact traps_of_conclude hexec rfl
  case returns =>
    rw [if_neg (by simp [hinside]), if_neg (by simpa [haligned] using hlow), conclude_ok hgo] at hexec
    exact ⟨_, hexec, tret_returns hgo hinside target⟩

end Sys2Proof.Machine
end
